-- ==== Sys2Proof/Word.lean ====
section
/-! DEFINITION. The words the block moves, and the shape of a sparse map. -/

namespace Sys2Proof

/-- A byte of companion memory, of flash or of a register (R11). -/
abbrev Byte := BitVec 8
/-- The bit pattern of an FP32 value. -/
abbrev F32 := BitVec 32
/-- The bit pattern of a BF16 value. -/
abbrev B16 := BitVec 16
/-- A 64-bit register or field (R15). -/
abbrev W64 := BitVec 64
/-- A 32-bit field. -/
abbrev W32 := BitVec 32

/-- A sparse map: pairs of key and value, one pair a key. -/
abbrev KMap (κ α : Type) := List (κ × α)
/-- A sparse map by natural key. -/
abbrev AMap (α : Type) := KMap Nat α

end Sys2Proof
end

