-- ==== Sys2Proof/Syntax.lean ====
section
/-! DEFINITION. The commands of the block: one constructor for each row of spec/opcode_table.json, with the
operands each row carries. A row that makes the block read outside itself (companion memory, a peer, the NAND,
a sensor) carries what that read returned. -/

namespace Sys2Proof

/-- A ring as a command names it: ring `r` of claim `c` (submission or completion by the command), or the
management ring (R68). -/
inductive RingSel where
  | claim (c r : Nat)
  | mgmt
deriving DecidableEq, Repr

/-- A descriptor line of a claim's submission ring as the module read it (R71, R76): the claim, the submission
ring, whether the read was poisoned (R77) and the 128 bytes. -/
structure Desc where
  claim : Nat
  ring : Nat
  poison : Bool
  line : List Byte
deriving DecidableEq, Repr

/-- A descriptor line of the management ring (R75). -/
structure MDesc where
  poison : Bool
  line : List Byte
deriving DecidableEq, Repr

/-- A unit in the encoding of R419: class and index. -/
structure UnitId where
  cls : Nat
  idx : Nat
deriving DecidableEq, Repr

/-- A page of a pool (R305, R306): claim, POOL_KIND, object (a request slot for KV, the prefix handle, the model
number, the adapter handle, or the ledger or pit object) and page number within it. -/
structure PageKey where
  claim : Nat
  kind : Nat
  obj : Nat
  idx : Nat
deriving DecidableEq, Repr

/-- One attention partial of a Lode (R243): the running maximum, the sum and the vector. -/
structure AttnPartial where
  m : F32
  l : F32
  o : List F32
deriving DecidableEq, Repr

/-- What lane training, the version exchange and the training message found on Hoistlink (R61, R62). -/
structure HlTrain where
  pass : BitVec 16
  polarity : BitVec 16
  reversed : Bool
  peerSet : BitVec 8
  base : W64
deriving DecidableEq, Repr

/-- The identity frame of a peer (R385). -/
structure AdIdentity where
  serial : W64
  link : Nat
  claim : Nat
  moduleId : Nat
  gangSize : Nat
  district : Nat
  tag : W64
  incarnation : BitVec 16
deriving DecidableEq, Repr

/-- What lane training, the version exchange and the identity exchange found on an Adit link (R383 to R385). -/
structure AdTrain where
  pass : BitVec 4
  polarity : BitVec 4
  reversed : Bool
  peerSet : BitVec 8
  ident : AdIdentity
deriving DecidableEq, Repr

/-- A received Adit message: the fields of the frame header of R387 and the payload (R389). -/
structure AdMsg where
  src : Nat
  dst : Nat
  step : Nat
  incarnation : BitVec 16
  peerSeq : W32
  handle : W32
  home : Nat
  tenant : Nat
  object : Nat
  payload : List Byte
deriving DecidableEq, Repr

/-- What Canary and the sensors report of one domain (R403): the slowest active unit, the supply it needs in mV, rate, margin,
drift, late arrivals, power in 0.1 W. -/
structure DomainReading where
  slowest : UnitId
  vNeed : Nat
  rate : Nat
  margin : Nat
  drift : Nat
  late : Nat
  power : Nat
deriving DecidableEq, Repr

/-- The readings of a re-planning pass (R406): of each domain in order, the hottest junction and its domain. -/
structure PlanReading where
  domains : List DomainReading
  tjMax : Nat
  tjDomain : Nat
  inlet : Nat
  outlet : Nat
deriving DecidableEq, Repr

/-- What a bring-up measures (R466, R469, R369): hold-up in microseconds, the strap levels (`none` for no level),
whether the interval counters calibrated, their largest error, the milliseconds to PWR_OK, the units whose
power-up self-test failed (R431), and whether LEAK_N is asserted (R468). -/
structure BringUp where
  holdupUs : Nat
  strap0 : Option Nat
  strap1 : Option Nat
  calOk : Bool
  errPpm : Nat
  pwrOkMs : Nat
  failed : List UnitId
  leak : Bool
deriving DecidableEq, Repr

/-- How the decoding of a NAND page read ended (R341). -/
inductive ReadOutcome where
  | clean
  | retried
  | undecodable
deriving DecidableEq, Repr

/-- A physical flash place of a Seam: die, block and page (R335). -/
structure FlashPlace where
  die : Nat
  block : Nat
  page : Nat
deriving DecidableEq, Repr

/-- What a hub SRAM line holds when it fails (R418). -/
inductive SramUse where
  | crusherTable (vocab section_ line : Nat)
  | selectorLane (lane : Nat)
  | grammar (claim number : Nat)
  | staging (group : Nat) (slot : BitVec 16)
  | feeder (bank : Nat) (slot : BitVec 16)
  | rowCache (claim ledger row : Nat)
  | pageBuffer (lode : Nat)
  | strandBuffer (search : Nat)
  | journal (die : Nat)
deriving DecidableEq, Repr

/-- A number format of the arrays (R286). -/
inductive NumFmt where
  | e4m3
  | e5m2
  | mxE4m3
  | mxE5m2
  | mxE2m3
  | mxE3m2
  | mxE2m1
  | int8
  | fp16
  | bf16
deriving DecidableEq, Repr

/-- One operand row or column of a tile: its format, its elements in term order (bit patterns, low bits used)
and, for MX formats, one E8M0 scale for each block of 32 (R286). -/
structure TileOp where
  fmt : NumFmt
  elems : List (BitVec 16)
  scales : List Byte
deriving DecidableEq, Repr

/-- The element-wise operations of EW on one row (R296). Rows are written as FP32 values; `bf` says that the output
format of ADD, SUB, MUL or SCALE is BF16. `cvt` names the target format, `cvtFp32s` is to FP32S, and `cvtInt32` takes INT32 patterns. -/
inductive EwOp where
  | add (bf : Bool)
  | sub (bf : Bool)
  | mul (bf : Bool)
  | scale (k : F32) (bf : Bool)
  | siluGate
  | exp
  | rope (pos : Nat) (base : F32)
  | rowMax
  | rowSum
  | rowSumSq
  | rmsNorm (eps : F32)
  | softmax
  | cvt (fmt : NumFmt)
  | cvtFp32s
  | cvtInt32
  | poolMean (n : Nat)
deriving DecidableEq, Repr

/-- The work of a completing command of a bank or of a Lode's weight product (R246, R247, R295), or none where the result is of
no interest. `mma` is one output block by MMA or MMA_SK4: its tiles in their order of arrival (R293), each the rows of the row
operand and the columns of the column operand; `part` says that it is one of so many parts, on as many banks, of the tiles of an
output (R285), which it names. `fp32s` and `cpx3` form one output element; FP32S in three passes a tile, which arrive in `order`.
`weights` is the product of rows of a model's tensor with activations of a pass over `n` positions, and `adapter` the term of an adapter
version on a product; tiles arrive in `order`. An order that is none stands for that of issue. -/
inductive BankWork where
  | none
  | mma (sk4 : Bool) (part : Option (Nat × Nat)) (tiles : List (List TileOp × List TileOp))
  | elementwise (op : EwOp) (a b : List F32)
  | fp32s (tiles : List (List F32 × List F32)) (order : List Nat)
  | cpx3 (ar ai br bi : List B16) (half : Bool)
  | weights (model tensor n lo count : Nat) (x : List (List B16)) (order : List Nat)
  | adapter (handle : W32) (layer target : Nat) (x : List B16) (wx : List F32) (order : List Nat)
deriving DecidableEq, Repr

/-- The key and the value of a position, after rotary encoding, that a pass writes for a layer (R239): KV_HEADS × HEAD_DIM elements
of each. The layers of a draft model follow those of its generator. -/
structure KvRow where
  layer : Nat
  pos : Nat
  k : List F32
  v : List F32
deriving DecidableEq, Repr

/-- A line of a ring's watch that its companion core has written: the watched line of the ring's tail, or the one `after` it (R72). -/
structure WatchedLine where
  ring : RingSel
  after : Bool
deriving DecidableEq, Repr

/-- What the prefill of a PREFIX_CREATE wrote: the handle, and the rows of its pages (R219). -/
structure PrefixFill where
  handle : W64
  kv : List KvRow
deriving DecidableEq, Repr

/-- What the load of an adapter read: its handle, and the bytes of its image (R253). -/
structure AdapterImage where
  handle : W32
  image : List Byte
deriving DecidableEq, Repr

/-- What an image load read: the bytes of the image, and whether its signature has been `verified` (R44). -/
structure ReadImage where
  bytes : List Byte
  verified : Bool
deriving DecidableEq, Repr

/-- An encoder's run: the state of each token after the last layer, and the order in which tiles combine (R300, R302). -/
structure EncodeRun where
  states : List (List B16)
  order : List Nat
deriving DecidableEq, Repr

/-- A chunk of a prefill: the request's slot, and the rows of its positions (R238). -/
structure ChunkRun where
  slot : BitVec 16
  kv : List KvRow
deriving DecidableEq, Repr

/-- A decode pass: the request's slot, the other requests of the pass, and the rows of its positions (R238). -/
structure VerifyRun where
  slot : BitVec 16
  group : List (BitVec 16)
  kv : List KvRow
deriving DecidableEq, Repr

/-- The attention of one layer and head: the query of a position, the rows that the layer writes, the order in which a base die
takes the dimensions, and the Lodes' parts in their order of arrival, each with the order of its positions (R243). -/
structure AttnRun where
  layer : Nat
  head : Nat
  pos : Nat
  q : List F32
  kv : List KvRow
  dims : List Nat
  parts : List (Nat × List Nat)
deriving DecidableEq, Repr

/-- The rows of a gather batch, and the slot of the request that it serves, if it serves one (R194). -/
structure BatchRows where
  slot : Option (BitVec 16)
  rows : List Nat
deriving DecidableEq, Repr

/-- A page whose load is done, and the bytes that its frame holds (R311). -/
structure LoadedPage where
  page : PageKey
  data : List Byte
deriving DecidableEq, Repr

/-- A flit of an Adit link that failed its CRC: whether it is the flit that failed last, `again`, and how many codewords have been
corrected since the last failure (R388). -/
structure BadFlit where
  link : Nat
  again : Bool
  corrected : Nat
deriving DecidableEq, Repr

/-- An uncorrectable error of a hub SRAM, and how many errors of that SRAM have been corrected since the last one (R418). -/
structure SramError where
  use : SramUse
  corrected : Nat
deriving DecidableEq, Repr

/-- Whose read of companion memory returned poison (R480): a request by slot, or a taken command by its ring and
index. -/
inductive PoisonTarget where
  | request (slot : BitVec 16)
  | command (ring : RingSel) (index : W32)
  | image (job : Nat)
deriving DecidableEq, Repr

/-- A management access carried by the JTAG MGMT instruction (R459). -/
inductive MgmtAccess where
  | read (offset : BitVec 26)
  | write (offset : BitVec 26) (value : W64)
deriving DecidableEq, Repr

/-- The commands of the block: the rows of spec/opcode_table.json, in the table's order. -/
inductive Instr where
  | watchLineInvalidate (watched : WatchedLine) (poison : Bool) (line : List Byte)
  | snoopResponse (addr : W64)
  | cplHeadAdvance (ring : RingSel) (head : W32)
  | streamHeadAdvance (slot : BitVec 16) (head : W32)
  | completionRecordWrite (slot : BitVec 16)
  | ringEnable (value : W64) (rcb : List Byte)
  | ringDisable (value : W64)
  | ringDrainComplete (ring : RingSel) (completion : Bool)
  | runRecipe (d : Desc)
  | abort (d : Desc)
  | prefixCreate (d : Desc) (tokens : List Byte)
  | prefixPrefillDone (fill : PrefixFill)
  | prefixRelease (d : Desc)
  | adapterPublish (d : Desc) (header : List Byte)
  | adapterLoadDone (adapter : AdapterImage)
  | adapterWithdraw (d : Desc)
  | pitInsert (d : Desc) (items : List Byte)
  | pitDelete (d : Desc) (items : List Byte)
  | pitPublish (d : Desc)
  | epochRecordDurable (claim pit : Nat)
  | ledgerRowWrite (d : Desc) (items : List Byte)
  | ledgerSwap (d : Desc) (table : List Byte)
  | ledgerSwapFlip (claim ledger : Nat)
  | cagePin (d : Desc)
  | cageEvict (d : Desc)
  | cageLoad (d : Desc)
  | watchArm (d : Desc)
  | searchOnly (d : Desc) (query : List Byte)
  | flatScan (d : Desc) (query : List Byte)
  | imageAdjust (d : Desc) (header : List Byte)
  | selftestRequest (d : Desc)
  | reservedOpcode (d : Desc)
  | imageLoad (m : MDesc) (header : List Byte)
  | imageVerifyDone (job : Nat) (image : ReadImage)
  | imageApplyDone (job : Nat) (image : List Byte)
  | claimStart (m : MDesc)
  | claimEnd (m : MDesc)
  | claimEndDrained (claim : Nat)
  | fence (m : MDesc)
  | unfence (m : MDesc)
  | replan (m : MDesc)
  | attest (m : MDesc)
  | counterFreeze (m : MDesc)
  | reservedMgmtOpcode (m : MDesc)
  | tokenizeStep (slot : BitVec 16) (step : Nat) (input : List Byte)
  | encodeStep (slot : BitVec 16) (step : Nat) (run : EncodeRun)
  | searchStart (claim : Nat)
  | strandRound (search strand : Nat)
  | strandHandoff (search strand : Nat)
  | labelScan (search channel : Nat)
  | searchMerge (search : Nat)
  | featuresStep (slot : BitVec 16) (step : Nat)
  | assay1Step (slot : BitVec 16) (step : Nat)
  | assay2Step (slot : BitVec 16) (step : Nat) (logits : List F32)
  | packStep (slot : BitVec 16) (step : Nat) (history : List Byte)
  | kvReservationGrant (claim : Nat)
  | prefillChunk (run : ChunkRun)
  | verifyStep (run : VerifyRun) (draft gen : List (List F32))
  | attentionPartialMerge (slot : BitVec 16) (run : AttnRun)
  | writeResultStep (slot : BitVec 16) (step : Nat)
  | retireRelease (slot : BitVec 16)
  | detokenizeBatch (slot : BitVec 16)
  | streamShaperGrant (slot : BitVec 16)
  | bucketRefill (claim : Nat)
  | gateWindowAdvance (link : Nat)
  | aditFrameEgress (link cls : Nat)
  | unitCommandComplete (claim engine unit : Nat) (units : Nat) (work : BankWork)
  | gatherBatch (claim ledger port : Nat) (batch : BatchRows)
  | scatterBatch (claim ledger port : Nat) (pairs : List (Nat × List Byte))
  | coalescerEntryLeave (unit claim ledger row : Nat)
  | sketchHalving (claim : Nat)
  | binLoadWindowEnd (claim : Nat)
  | binMigrateDone (claim ledger : Nat)
  | stagingBufferGrant (claim : Nat)
  | pageBufferGrant (lode : Nat)
  | frameAllocate (claim kind : Nat)
  | pageLoadDone (load : LoadedPage)
  | pageLoadUe (page : PageKey)
  | writebackGranuleAck (page : PageKey) (granule : Nat)
  | loadDeadlineExpire (slot : BitVec 16) (page : PageKey)
  | lodeDramUe (page : PageKey)
  | pageReadDone (seam lpn : Nat) (outcome : ReadOutcome)
  | readRebuildDone (seam lpn : Nat) (ok : Bool)
  | pageProgramDone (seam : Nat) (seq : Nat)
  | stripeFill (seam group : Nat)
  | programFail (seam : Nat) (seq : Nat)
  | eraseDone (seam group superblock : Nat)
  | eraseFail (seam group superblock die : Nat)
  | dieFailure (seam die : Nat)
  | collectionCopyDurable (seam lpn : Nat)
  | journalStripeProgram (die : Nat)
  | checkpointStart (die : Nat)
  | checkpointDone (die : Nat)
  | seamRecovery (die : Nat)
  | sweepRecordRepair (claim pit channel slot : Nat)
  | sweepFree (claim pit : Nat)
  | hotNodeWindowEnd (claim pit channel : Nat)
  | hlTraining (t : HlTrain)
  | hlTrainRetry (t : HlTrain)
  | hlFlitCrcFail
  | hlRetrain
  | hlLaneFail (lane : Nat)
  | hlRefclkLoss (partnerGood : Bool)
  | hlCompanionStateLoss
  | companionReadPoison (target : PoisonTarget)
  | mgmtAccessTimeout (offset : BitVec 26)
  | registerWrite (offset : BitVec 26) (width : Nat) (value : Option W64)
  | adTraining (link : Nat) (t : AdTrain)
  | adTrainRetry (link : Nat) (t : AdTrain)
  | adRetrain (link : Nat)
  | adFlitCrcFail (flit : BadFlit)
  | adLaneFail (link lane : Nat)
  | adRefclkLoss (partnerGood : Bool)
  | liveness (link : Nat)
  | linkFrame (link : Nat) (credits : List Nat) (acked : List W32)
  | query (link : Nat) (m : AdMsg)
  | answer (link : Nat) (m : AdMsg)
  | fetch (link : Nat) (m : AdMsg)
  | reply (link : Nat) (m : AdMsg)
  | scatter (link : Nat) (m : AdMsg)
  | cancel (link : Nat) (m : AdMsg)
  | class7Frame (link : Nat)
  | peerLossTimeout (claim peer : Nat)
  | leavingNotice (claim peer : Nat)
  | replanPass (r : PlanReading)
  | selftestRun (cls idx : Nat)
  | selftestDone (cls idx : Nat) (pass : Bool)
  | aditCalibration (link : Nat)
  | domainSwitchGroup
  | powerOn (b : BringUp)
  | inputLoss (millivolts : Nat)
  | resetNAssert
  | resetNRelease (b : BringUp)
  | junctionHot (domain celsius : Nat)
  | thermalLimit (domain : Nat)
  | thermalShed (domain : Nat)
  | coolantInletRange (celsius : Nat)
  | sensorFault (inlet : Bool)
  | leak
  | pinReadbackMismatch (alert : Bool)
  | sidebandBusHeld
  | read8 (offset : W32)
  | write8 (offset : W32) (value : W64)
  | setEndpointId (eid : Byte)
  | getEndpointId
  | getMctpVersionSupport
  | getMessageTypeSupport
  | getVendorDefinedMessageSupport
  | gateHangTimeout (u : UnitId)
  | unitFault (u : UnitId) (cause : Nat)
  | hubSramUe (error : SramError)
  | lampLineTimeout (claim : Nat)
  | watchDumpWritten (claim arm : Nat)
  | keyProgram (value : W64)
  | keyRevoke (value : W64)
  | debugRead (value : W64)
  | jtagAttach (opcode : Byte)
  | bypass
  | idcode
  | extest
  | samplePreload
  | clamp
  | highz
  | mgmt (a : MgmtAccess)
  | lodeRead (value : W64)
  | holdupEnd
  | coolantInletReturn (celsius : Nat)
  | hlCreditReturn (vc count : Nat)
  | testLogicReset
  | i3cBusFree
  | moduleFatalError (cause : Nat) (u : Option UnitId)
  | i3cDynamicAddress (addr : Byte)
deriving DecidableEq, Repr

end Sys2Proof
end

