-- ==== Sys2Proof/Machine/Data.lean ====
section
/-! DEFINITION. Operations on the plain data of the block: sparse maps, little-endian fields of byte lists (R11),
bits of masks, saturating counts, and companion memory as a canonical byte memory. -/

namespace Sys2Proof.Machine

/-! ### Sparse maps -/

/-- The value a map holds at a key. -/
def kget {κ α : Type} [DecidableEq κ] (m : KMap κ α) (k : κ) : Option α :=
  match m with
  | [] => none
  | (k', v) :: r => if k' = k then some v else kget r k

/-- A map with one key set: its pair is replaced in place, or added at the end. -/
def kset {κ α : Type} [DecidableEq κ] (m : KMap κ α) (k : κ) (v : α) : KMap κ α :=
  match m with
  | [] => [(k, v)]
  | (k', v') :: r => if k' = k then (k, v) :: r else (k', v') :: kset r k v

/-- A map without one key. -/
def kdel {κ α : Type} [DecidableEq κ] (m : KMap κ α) (k : κ) : KMap κ α :=
  match m with
  | [] => []
  | (k', v') :: r => if k' = k then kdel r k else (k', v') :: kdel r k

/-- A map with the value at one key changed, where it has one. -/
def kmod {κ α : Type} [DecidableEq κ] (m : KMap κ α) (k : κ) (f : α → α) : KMap κ α :=
  match kget m k with
  | none => m
  | some v => kset m k (f v)

/-- The value at a key, or a default. -/
def kgetD {κ α : Type} [DecidableEq κ] (m : KMap κ α) (k : κ) (d : α) : α := (kget m k).getD d

/-- Whether a map holds a key. -/
def khas {κ α : Type} [DecidableEq κ] (m : KMap κ α) (k : κ) : Bool := (kget m k).isSome

/-- The values of a map. -/
def kvals {κ α : Type} (m : KMap κ α) : List α := m.map (·.2)

/-- The keys of a map. -/
def kkeys {κ α : Type} (m : KMap κ α) : List κ := m.map (·.1)

/-- A list with the element at a place changed. -/
def lmod {α : Type} (l : List α) (i : Nat) (f : α → α) : List α :=
  match l, i with
  | [], _ => []
  | a :: r, 0 => f a :: r
  | a :: r, i + 1 => a :: lmod r i f

/-! ### Bits, counts and fields -/

/-- Bit `i` of a mask. -/
def bit (m i : Nat) : Bool := m.testBit i

/-- Bits `hi` down to `lo` of a word (R15). -/
def bits (w hi lo : Nat) : Nat := (w >>> lo) % 2 ^ (hi + 1 - lo)

/-- The number of bits set in the low `n` bits of a mask. -/
def popcount (n m : Nat) : Nat :=
  match n with
  | 0 => 0
  | n + 1 => (if m.testBit n then 1 else 0) + popcount n m

/-- The bits set in the low `n` bits of a mask, lowest first. -/
def bitList (n m : Nat) : List Nat := (List.range n).filter m.testBit

/-- A count of `w` bits that saturates at its maximum. -/
def satAdd (w a b : Nat) : Nat := min (2 ^ w - 1) (a + b)

/-- The little-endian number that bytes spell (R11). -/
def leNat (bs : List Byte) : Nat :=
  match bs with
  | [] => 0
  | b :: r => b.toNat + 256 * leNat r

/-- The big-endian number that bytes spell (R35). -/
def beNat (bs : List Byte) : Nat := bs.foldl (fun a b => 256 * a + b.toNat) 0

/-- `n` bytes of a number, least significant first (R11). -/
def leBytes (n v : Nat) : List Byte :=
  match n with
  | 0 => []
  | n + 1 => BitVec.ofNat 8 v :: leBytes n (v / 256)

/-- `n` bytes of a number, most significant first. -/
def beBytes (n v : Nat) : List Byte := (leBytes n v).reverse

/-- `n` bytes from byte `o` of a list; a list too short reads as zeros. -/
def slice (bs : List Byte) (o n : Nat) : List Byte :=
  let s := (bs.drop o).take n
  s ++ List.replicate (n - s.length) 0

/-- The little-endian field of `n` bytes at byte `o`. -/
def fld (bs : List Byte) (o n : Nat) : Nat := leNat ((bs.drop o).take n)

/-- The byte at place `o`, 0 beyond the end. -/
def byteAt (bs : List Byte) (o : Nat) : Nat := fld bs o 1

/-- Whether `n` bytes from byte `o` are all 0. -/
def zeroAt (bs : List Byte) (o n : Nat) : Bool := ((bs.drop o).take n).all (· == 0)

/-- A list cut or filled with zeros to `n` bytes. -/
def padTo (n : Nat) (bs : List Byte) : List Byte := bs.take n ++ List.replicate (n - bs.length) 0

/-- A number rounded up to a multiple. -/
def roundUp (n k : Nat) : Nat := if k = 0 then n else (n + k - 1) / k * k

/-- The power of two that is not below `n`, found by doubling `fuel` times at most. -/
def isPow2 (n : Nat) : Bool := n != 0 && n &&& (n - 1) == 0

/-- The floor of the base-2 logarithm. -/
def log2Nat (n : Nat) : Nat := Nat.log2 n

/-- The place of the first element that satisfies a test. -/
def findIdx? {α : Type} (p : α → Bool) (l : List α) : Option Nat :=
  match l with
  | [] => none
  | a :: r => if p a then some 0 else (findIdx? p r).map (· + 1)

/-- A list cut into chunks of `n`, with a bound on their number. -/
def chunks {α : Type} (fuel n : Nat) (l : List α) : List (List α) :=
  match fuel with
  | 0 => []
  | fuel + 1 => if l.isEmpty then [] else l.take n :: chunks fuel n (l.drop n)

/-- Insertion into a sorted list: before the first element the new one precedes. -/
def insertBy {α : Type} (lt : α → α → Bool) (a : α) (l : List α) : List α :=
  match l with
  | [] => [a]
  | b :: r => if lt a b then a :: b :: r else b :: insertBy lt a r

/-- A list sorted by a strict order; equal elements keep their order. -/
def sortBy {α : Type} (lt : α → α → Bool) (l : List α) : List α :=
  l.foldl (fun acc a => insertBy lt a acc) []

/-- The element least by a strict order, the first among equals. -/
def leastBy {α : Type} (lt : α → α → Bool) (l : List α) : Option α :=
  l.foldl (fun acc a => match acc with
    | none => some a
    | some b => if lt a b then some a else some b) none

/-- A list without later repeats. -/
def dedup {α : Type} [DecidableEq α] (l : List α) : List α :=
  (l.foldl (fun acc a => if acc.contains a then acc else a :: acc) []).reverse

/-! ### Companion memory as the module has written it

A list of cells with strictly rising addresses and no cell equal to what an unlisted address reads as. -/

/-- What an address that the module has not written reads as (DESIGN CHOICE, log 4). -/
def hostDefault : Byte := 0

/-- One byte of companion memory. -/
def hostRead (m : List Host.Cell) (a : Nat) : Byte :=
  match m with
  | [] => hostDefault
  | (b, v) :: r => if b = a then v else hostRead r a

/-- Companion memory with one byte written; the canonical form is kept. -/
def hostWrite (m : List Host.Cell) (a : Nat) (v : Byte) : List Host.Cell :=
  match m with
  | [] => if v = hostDefault then [] else [(a, v)]
  | (b, w) :: r =>
    if b < a then (b, w) :: hostWrite r a v
    else if b = a then (if v = hostDefault then r else (a, v) :: r)
    else if v = hostDefault then (b, w) :: r
    else (a, v) :: (b, w) :: r

/-- Companion memory with bytes written from an address up; addresses wrap at 2^64. -/
def hostWriteBytes (m : List Host.Cell) (a : Nat) (bs : List Byte) : List Host.Cell :=
  match bs with
  | [] => m
  | b :: r => hostWriteBytes (hostWrite m (a % 2 ^ 64) b) (a + 1) r

/-- Bytes of companion memory from an address up. -/
def hostReadBytes (m : List Host.Cell) (a n : Nat) : List Byte :=
  (List.range n).map (fun i => hostRead m ((a + i) % 2 ^ 64))

/-- The canonical form: every address above a bound and rising, no cell at the default. -/
def hostWfFrom (lo : Option Nat) (m : List Host.Cell) : Bool :=
  match m with
  | [] => true
  | (a, v) :: r =>
    (match lo with
      | none => true
      | some l => decide (l < a)) && (v != hostDefault) && hostWfFrom (some a) r

/-- The canonical form of companion memory. -/
def hostWf (m : List Host.Cell) : Bool := hostWfFrom none m

end Sys2Proof.Machine
end

