-- ==== Sys2Proof/Machine/Crypto.lean ====
section
/-! DEFINITION. SHA-512 (R44) and the verification of an ECDSA signature on curve P-521 over a SHA-512 digest
(R35). Their constants are the published ones of the two standards that the spec names (PRESUMED, log 6). -/

namespace Sys2Proof.Machine

/-! ### SHA-512 -/

/-- The round constants of SHA-512. -/
def shaK : List (BitVec 64) :=
  [0x428a2f98d728ae22, 0x7137449123ef65cd, 0xb5c0fbcfec4d3b2f, 0xe9b5dba58189dbbc,
   0x3956c25bf348b538, 0x59f111f1b605d019, 0x923f82a4af194f9b, 0xab1c5ed5da6d8118] ++
  [0xd807aa98a3030242, 0x12835b0145706fbe, 0x243185be4ee4b28c, 0x550c7dc3d5ffb4e2,
   0x72be5d74f27b896f, 0x80deb1fe3b1696b1, 0x9bdc06a725c71235, 0xc19bf174cf692694] ++
  [0xe49b69c19ef14ad2, 0xefbe4786384f25e3, 0x0fc19dc68b8cd5b5, 0x240ca1cc77ac9c65,
   0x2de92c6f592b0275, 0x4a7484aa6ea6e483, 0x5cb0a9dcbd41fbd4, 0x76f988da831153b5] ++
  [0x983e5152ee66dfab, 0xa831c66d2db43210, 0xb00327c898fb213f, 0xbf597fc7beef0ee4,
   0xc6e00bf33da88fc2, 0xd5a79147930aa725, 0x06ca6351e003826f, 0x142929670a0e6e70] ++
  [0x27b70a8546d22ffc, 0x2e1b21385c26c926, 0x4d2c6dfc5ac42aed, 0x53380d139d95b3df,
   0x650a73548baf63de, 0x766a0abb3c77b2a8, 0x81c2c92e47edaee6, 0x92722c851482353b] ++
  [0xa2bfe8a14cf10364, 0xa81a664bbc423001, 0xc24b8b70d0f89791, 0xc76c51a30654be30,
   0xd192e819d6ef5218, 0xd69906245565a910, 0xf40e35855771202a, 0x106aa07032bbd1b8] ++
  [0x19a4c116b8d2d0c8, 0x1e376c085141ab53, 0x2748774cdf8eeb99, 0x34b0bcb5e19b48a8,
   0x391c0cb3c5c95a63, 0x4ed8aa4ae3418acb, 0x5b9cca4f7763e373, 0x682e6ff3d6b2b8a3] ++
  [0x748f82ee5defb2fc, 0x78a5636f43172f60, 0x84c87814a1f0ab72, 0x8cc702081a6439ec,
   0x90befffa23631e28, 0xa4506cebde82bde9, 0xbef9a3f7b2c67915, 0xc67178f2e372532b] ++
  [0xca273eceea26619c, 0xd186b8c721c0c207, 0xeada7dd6cde0eb1e, 0xf57d4f7fee6ed178,
   0x06f067aa72176fba, 0x0a637dc5a2c898a6, 0x113f9804bef90dae, 0x1b710b35131c471b] ++
  [0x28db77f523047d84, 0x32caab7b40c72493, 0x3c9ebe0a15c9bebc, 0x431d67c49c100d4c,
   0x4cc5d4becb3e42b6, 0x597f299cfc657e2a, 0x5fcb6fab3ad6faec, 0x6c44198c4a475817]

/-- The initial hash value of SHA-512. -/
def shaInit : List (BitVec 64) :=
  [0x6a09e667f3bcc908, 0xbb67ae8584caa73b, 0x3c6ef372fe94f82b, 0xa54ff53a5f1d36f1,
   0x510e527fade682d1, 0x9b05688c2b3e6c1f, 0x1f83d9abfb41bd6b, 0x5be0cd19137e2179]

/-- Element `i` of a list of words, 0 beyond its end. -/
def wordAt (l : List (BitVec 64)) (i : Nat) : BitVec 64 := l.getD i 0

/-- The padding of a message: 0x80, zeros, and its length in bits in 16 bytes. -/
def shaPad (bs : List Byte) : List Byte :=
  let z := (239 - bs.length % 128) % 128
  bs ++ [0x80] ++ List.replicate z 0 ++ beBytes 16 (8 * bs.length)

/-- The message schedule, newest word first, extended by `k` words. -/
def shaExpand (k : Nat) (w : List (BitVec 64)) : List (BitVec 64) :=
  match k with
  | 0 => w
  | k + 1 =>
    let a := wordAt w 14
    let b := wordAt w 1
    let s0 := a.rotateRight 1 ^^^ a.rotateRight 8 ^^^ (a >>> 7)
    let s1 := b.rotateRight 19 ^^^ b.rotateRight 61 ^^^ (b >>> 6)
    shaExpand k ((wordAt w 15 + s0 + wordAt w 6 + s1) :: w)

/-- One round of SHA-512 on the eight working words. -/
def shaRound (v : List (BitVec 64)) (kw : BitVec 64 × BitVec 64) : List (BitVec 64) :=
  match v with
  | [a, b, c, d, e, f, g, h] =>
    let s1 := e.rotateRight 14 ^^^ e.rotateRight 18 ^^^ e.rotateRight 41
    let ch := (e &&& f) ^^^ (~~~e &&& g)
    let t1 := h + s1 + ch + kw.1 + kw.2
    let s0 := a.rotateRight 28 ^^^ a.rotateRight 34 ^^^ a.rotateRight 39
    let mj := (a &&& b) ^^^ (a &&& c) ^^^ (b &&& c)
    [t1 + (s0 + mj), a, b, c, d + t1, e, f, g]
  | v => v

/-- One block of 128 bytes. -/
def shaBlock (h : List (BitVec 64)) (blk : List Byte) : List (BitVec 64) :=
  let w0 := ((chunks 16 8 blk).map (fun c => BitVec.ofNat 64 (beNat c))).reverse
  let w := (shaExpand 64 w0).reverse
  let v := (shaK.zip w).foldl shaRound h
  (h.zip v).map (fun p => p.1 + p.2)

/-- The SHA-512 digest of a message, 64 bytes. -/
def sha512 (bs : List Byte) : List Byte :=
  let p := shaPad bs
  let h := (chunks (p.length / 128 + 1) 128 p).foldl shaBlock shaInit
  (h.map (fun w => beBytes 8 w.toNat)).flatten

/-! ### ECDSA on P-521 -/

/-- The field prime of P-521. -/
def ecP : Nat := 2 ^ 521 - 1
/-- The coefficient b of P-521. -/
def ecB : Nat := 0x51953eb9618e1c9a1f929a21a0b68540eea2da725b99b315f3b8b489918ef109e156193951ec7e937b1652c0bd3bb1bf073573df883d2c34f1ef451fd46b503f00
/-- The order of the base point. -/
def ecN : Nat := 0x1fffffffffffffffffffffffffffffffffffffffffffffffffffffffffffffffffa51868783bf2f966b7fcc0148f709a5d03bb5c9b8899c47aebb6fb71e91386409
/-- The base point. -/
def ecG : Nat × Nat := (0xc6858e06b70404e9cd9e3ecb662395b4429c648139053fb521f828af606b4d3dbaa14b5e77efe75928fe1dc127a2ffa8de3348b3c1856a429bf97e7e31c2e5bd66,
  0x11839296a789a3bc0045c8a5fb42c7d1bd998f54449579b446817afbd17273e662c97ee72995ef42640c550b9013fad0761353c7086a272c24088be94769fd16650)

/-- Modular power by squaring over the low `k` bits of the exponent, highest first. -/
def powMod (k b e m : Nat) : Nat :=
  match k with
  | 0 => 1 % m
  | k + 1 =>
    let r := powMod k b (e / 2) m
    let q := r * r % m
    if e % 2 = 1 then q * b % m else q

/-- The inverse modulo a prime of 521 bits. -/
def invMod (a m : Nat) : Nat := powMod 521 a (m - 2) m

/-- The difference modulo `m`. -/
def subMod (a b m : Nat) : Nat := (a + m - b % m) % m

/-- The sum of two points; `none` is the point at infinity. -/
def ecAdd (a b : Option (Nat × Nat)) : Option (Nat × Nat) :=
  match a, b with
  | none, q => q
  | p, none => p
  | some (x1, y1), some (x2, y2) =>
    if x1 = x2 ∧ (y1 + y2) % ecP = 0 then none
    else
      let l := if x1 = x2 then subMod (3 * x1 * x1) 3 ecP * invMod (2 * y1 % ecP) ecP % ecP
        else subMod y2 y1 ecP * invMod (subMod x2 x1 ecP) ecP % ecP
      let x := subMod (l * l) (x1 + x2) ecP
      some (x, subMod (l * subMod x1 x ecP) y1 ecP)

/-- The multiple of a point by the low `k` bits of a scalar. -/
def ecMul (k e : Nat) (p : Option (Nat × Nat)) : Option (Nat × Nat) :=
  match k with
  | 0 => none
  | k + 1 =>
    let h := ecMul k (e / 2) p
    let d := ecAdd h h
    if e % 2 = 1 then ecAdd d p else d

/-- Whether a pair is a point of the curve. -/
def ecOn (x y : Nat) : Bool :=
  decide (x < ecP) && decide (y < ecP) && (y * y % ecP == (subMod (x * x % ecP * x) (3 * x) ecP + ecB) % ecP)

/-- Whether a signature (r in 66 bytes, then s in 66 bytes, most significant first) over a digest verifies under
a public key (x in 66 bytes, then y in 66 bytes) (R35). -/
def ecdsaVerify (key digest sig : List Byte) : Bool :=
  let x := beNat (slice key 0 66)
  let y := beNat (slice key 66 66)
  let r := beNat (slice sig 0 66)
  let s := beNat (slice sig 66 66)
  let e := beNat digest
  if ecOn x y && r != 0 && decide (r < ecN) && s != 0 && decide (s < ecN) then
    let w := invMod s ecN
    match ecAdd (ecMul 521 (e * w % ecN) (some ecG)) (ecMul 521 (r * w % ecN) (some (x, y))) with
    | none => false
    | some (px, _) => px % ecN == r
  else false

end Sys2Proof.Machine
end

