-- ==== Sys2Proof/Machine/Sections.lean ====
section
/-! DEFINITION. The configuration a Jepor image gives the block, section type by section type, as the load checks
read it from the image's bytes (02 R36 and the chapters that own the formats). -/

namespace Sys2Proof.Machine

/-- The fixed part of a CLAIM section (R40). `raw` is its 640 bytes, for the comparison of R50. -/
structure ClaimSec where
  gangMember : Bool
  gangModuleId : Nat
  gangSize : Nat
  bankMask : Nat
  lodeMask : Nat
  arrayFloor : Nat
  seamMask : Nat
  aditMask : Nat
  crusher : Nat
  selector : Nat
  timber : Nat
  packer : Nat
  assay : Nat
  gather : Nat
  face : Nat
  cage : Nat
  haulage : Nat
  staging : Nat
  rowCache : Nat
  subRings : Nat
  cplRings : Nat
  slotFirst : Nat
  slotBlocks : Nat
  adapterFirst : Nat
  adapterCount : Nat
  tenantMap : List Byte
  raw : List Byte
deriving DecidableEq, Repr

/-- A roster table of one engine class (R362): CMD_UNITS and the entries, class and units. -/
structure RosterTable where
  engine : Nat
  cmdUnits : Nat
  entries : List (Nat × Nat)
deriving DecidableEq, Repr

/-- A ROSTER section (R362). -/
structure RosterSec where
  hoistShare : Nat
  tenantClass : List Byte
  tables : List RosterTable
deriving DecidableEq, Repr

/-- A recipe step (R103): type, dependencies, the seven words (before PARAM words are taken). -/
structure StepRec where
  typ : Nat
  dep0 : Option Nat
  dep1 : Option Nat
  words : List Nat
deriving DecidableEq, Repr

/-- A RECIPE section (R102); an unused reference is `none`. -/
structure RecipeSec where
  streams : Bool
  encVocab : Option Nat
  genVocab : Option Nat
  genModel : Option Nat
  draftModel : Option Nat
  encModel : Option Nat
  rerankModel : Option Nat
  pit : Option Nat
  ledger : Option Nat
  grammar : Option Nat
  template : Option Nat
  policeCost : Nat
  maxNewTokens : Nat
  maxInputTokens : Nat
  filterBudget : Nat
  steps : List StepRec
deriving DecidableEq, Repr

/-- A token table entry with its string (R121). -/
structure TokEnt where
  off : Nat := 0
  str : List Byte
  rank : Nat
  special : Bool
  render : Bool
deriving DecidableEq, Repr

/-- A VOCAB section (R120, R122). `strBytes` is STRING_BYTES. -/
structure VocabSec where
  strBytes : Nat := 0
  byteBase : Nat
  eos : Nat
  toks : List TokEnt
  stopsets : List (List (List Byte))
deriving DecidableEq, Repr

/-- A valid merge entry (R123). -/
structure MergeEnt where
  left : Nat
  right : Nat
  result : Nat
deriving DecidableEq, Repr

/-- A MERGES section (R123): SLOTS and the valid entries by slot. -/
structure MergesSec where
  slots : Nat
  table : AMap MergeEnt
deriving DecidableEq, Repr

/-- A CLASSES section (R118). -/
structure ClassesSec where
  classCount : Nat
  maxPiece : Nat
  matrix : List Nat
  pageIndex : List Nat
  pages : List Byte
deriving DecidableEq, Repr

/-- An edge of a grammar (R273). -/
structure GEdge where
  cls : Nat
  top : Nat
  op : Nat
  symbol : Nat
  next : Nat
deriving DecidableEq, Repr

/-- A state of a grammar (R273). -/
structure GState where
  first : Nat
  count : Nat
  accept : Bool
deriving DecidableEq, Repr

/-- A GRAMMAR section (R272). -/
structure GrammarSec where
  vocab : Nat
  classCount : Nat
  symbols : Nat
  maxDepth : Nat
  start : Nat
  classMap : List Nat
  states : List GState
  edges : List GEdge
deriving DecidableEq, Repr

/-- A template item (R217). -/
structure TItem where
  kind : Nat
  scopePrefix : Bool
  off : Nat
  count : Nat
  closeCount : Nat
deriving DecidableEq, Repr

/-- A TEMPLATE section (R216). -/
structure TemplateSec where
  vocab : Nat
  items : List TItem
  tokens : List Nat
deriving DecidableEq, Repr

/-- A region of logical pages: first and count (R138, R188). -/
structure Region where
  first : Nat
  pages : Nat
deriving DecidableEq, Repr

/-- A channel table entry of a PIT section (R138). -/
structure PitChan where
  node : Region
  rep : Region
  text : Region
  post : Region
deriving DecidableEq, Repr

/-- A PIT section (R136). -/
structure PitSec where
  vecFormat : Nat
  metric : Nat
  dim : Nat
  degree : Nat
  recordSlots : Nat
  levels : Nat
  upperDegree : Nat
  runVocab0 : Option Nat
  runVocab1 : Option Nat
  labelCount : Nat
  shards : Nat
  shardIndex : Nat
  seamMask : Nat
  flatThreshold : Nat
  defaultBeam : Nat
  defaultStrands : Nat
  expandWidth : Nat
  upperChannel : Nat
  upperFirst : Nat
  upperBytes : Nat
  shardModules : Nat
  chans : List PitChan
deriving DecidableEq, Repr

/-- A formula slot (R209). -/
structure FSlot where
  source : Nat
  transform : Nat
  e : Nat
  w : Option Nat
  f : Nat
  weight : F32
  lo : B16
  hi : B16
deriving DecidableEq, Repr

/-- A LEDGER section (R188). -/
structure LedgerSec where
  key : Nat
  resident : Bool
  scatter : Bool
  pit : Option Nat
  vocab : Option Nat
  hotThreshold : Nat
  maxRows : Nat
  maxRowBytes : Nat
  seamMask : Nat
  areas : List Region
  formulas : List (List FSlot)
deriving DecidableEq, Repr

/-- A MODEL section (R232). -/
structure ModelSec where
  kind : Nat
  vocab : Nat
  weightFormat : Nat
  layers : Nat
  dModel : Nat
  ffnDim : Nat
  qHeads : Nat
  kvHeads : Nat
  headDim : Nat
  kvFormat : Nat
  pair : Option Nat
  seqLimit : Nat
  crossover : Nat
  decodePass : Nat
  prefillChunk : Nat
  draftLen : Nat
  adapterMaxRank : Nat
  embedLedger : Nat
  pool : Nat
  outDim : Nat
  ropeBase : F32
  normEps : F32
  kvScale : F32
  frame0 : Option Nat
  frame1 : Option Nat
  frame2 : Option Nat
  weightBytes : Nat
  weightDigest : List Byte
deriving DecidableEq, Repr

/-- A policer or stream profile (R371). -/
structure Profile where
  rate : Nat
  burst : Nat
deriving DecidableEq, Repr

/-- An egress record of a SHAPER section (R371): the link and a profile for each of the eight message classes. -/
structure Egress where
  link : Nat
  classes : List Profile
deriving DecidableEq, Repr

/-- A SHAPER section (R371). -/
structure ShaperSec where
  refillUs : Nat
  policerMap : List Byte
  police : List Profile
  stream : List Profile
  egress : List Egress
deriving DecidableEq, Repr

/-- A gate list (R376): the link and its windows, duration in ns and open mask. -/
structure GateList where
  link : Nat
  windows : List (Nat × Nat)
deriving DecidableEq, Repr

/-- A name record of a WATCHNAMES section (R442). -/
structure WatchName where
  name : List Byte
  recipe : Nat
  stepNo : Nat
  point : Nat
  layer : Nat
deriving DecidableEq, Repr

/-- A domain record of a POWER_PLAN (R404). -/
structure DomPlan where
  vMin : Nat
  vMax : Nat
  vNom : Nat
deriving DecidableEq, Repr

/-- A spare record of a POWER_PLAN (R404). -/
structure SpareRec where
  claim : Nat
  cls : Nat
  idx : Nat
deriving DecidableEq, Repr

/-- A POWER_PLAN section (R404). -/
structure PowerPlan where
  capW : Nat
  passMs : Nat
  hotC : Nat
  domains : List DomPlan
  spares : List SpareRec
deriving DecidableEq, Repr

/-- A section in force: its ADJUSTABLE bit (R37), its length in bytes, its contents, and the version it is: the ADJ_SEQ at
whose commit it came (R279). -/
structure Inst (α : Type) where
  adj : Bool
  len : Nat
  sec : α
  ver : Nat := 0
deriving DecidableEq, Repr

/-- The configuration of one claim (R36). Per-claim sections by INSTANCE; `pools` gives PAGES by POOL_KIND (R41). -/
structure ClaimCfg where
  own : ClaimSec
  pools : AMap Nat
  roster : Option (Inst RosterSec)
  recipes : AMap (Inst RecipeSec)
  vocabs : AMap (Inst VocabSec)
  merges : AMap (Inst MergesSec)
  classes : AMap (Inst ClassesSec)
  grammars : AMap (Inst GrammarSec)
  templates : AMap (Inst TemplateSec)
  pits : AMap (Inst PitSec)
  ledgers : AMap (Inst LedgerSec)
  models : AMap (Inst ModelSec)
  shaper : Option (Inst ShaperSec)
  gates : Option (Inst (List GateList))
  watch : Option (Inst (List WatchName))
deriving DecidableEq, Repr

/-- The configuration of the module: each claim's, and the POWER_PLAN in force if an image carries one (R405). -/
structure ModuleCfg where
  claims : List (Option ClaimCfg)
  plan : Option (Inst PowerPlan)
deriving DecidableEq, Repr

end Sys2Proof.Machine
end

