-- ==== Sys2Proof/Machine/PartsFrame.lean ====
section
/-! DEFINITION. The state of Headframe, of the claims, of Hoistlink with its rings and of the record keeping that
every command shares (02, 03, 18, 21). A field's default is its value after RESET_N (R18); where the spec gives
none, log 2 names it. -/

namespace Sys2Proof.Machine

/-- Where a descriptor came from and where its one completion record goes (R74, R78): claim (4 for the management
ring), submission ring, SUB_CONSUMED before it was taken, and what the record repeats. -/
structure Origin where
  claim : Nat
  ring : Nat
  index : Nat
  opcode : Nat
  req : Nat
  cookie : Nat
  tenant : Nat
  cpl : Nat
deriving DecidableEq, Repr

/-- A completion record's own fields (R78); `result` is bytes 32 to 63. -/
structure CplRec where
  o : Origin
  status : Nat
  flags : Nat := 0
  tokensIn : Nat := 0
  tokensOut : Nat := 0
  detail : Nat := 0
  result : List Byte := []
deriving DecidableEq, Repr

/-- What a committed DELTA or MODULE image still waits for before its completion is written (R54, R55). -/
inductive Effect where
  | shaper (claim : Nat)
  | gate (link : Nat)
  | plan
  | pool (claim kind : Nat)
deriving DecidableEq, Repr

/-- An image load between its steps (R44): by IMAGE_LOAD, or by IMAGE_ADJUST of a claim. `phase` is 1 READING,
4 VERIFYING (D1 formed), 2 APPLYING (the signature verified), 3 committed and waiting for its sections to take effect (R55). -/
structure LoadJob where
  origin : Origin
  mgmt : Bool
  phase : Nat
  kind : Nat
  claim : Nat
  len : Nat
  imageId : Nat
  header : List Byte
  d1 : List Byte
  sig : List Byte
  keySlot : Nat
  waits : List Effect
deriving DecidableEq, Repr

/-- A CLAIM_START that waits (R357, R474): for an image load, then for the recovery of the claim's Seams. `step`
is the step of R357 it waits at, 0 for an image load. -/
structure StartJob where
  origin : Origin
  step : Nat
deriving DecidableEq, Repr

/-- One claim (R47). `st` is 0 ABSENT, 1 LOADED, 2 RUNNING, 3 ENDING. -/
structure Claim where
  st : Nat := 0
  adjSeq : Nat := 0
  imageId : Nat := 0
  cfg : Option ClaimCfg := none
  adjust : Option LoadJob := none
  starting : Option StartJob := none
  ending : Option Origin := none
deriving DecidableEq, Repr

/-- A unit's fence (R421): STATE 0 IN SERVICE, 1 FENCING, 2 FENCED, 3 TESTING; cause, requests ended, credits
returned (HF_FENCE_INFO). -/
structure Fence where
  st : Nat := 0
  cause : Nat := 0
  ended : Nat := 0
  returned : Nat := 0
deriving DecidableEq, Repr

/-- The counters of a unit's isolation gates (R420). -/
structure Gate where
  issued : W32 := 0
  returned : W32 := 0
deriving DecidableEq, Repr

/-- Headframe (02, 18, 21). -/
structure HfState where
  /-- HF_IMAGE_STATUS -/
  loadState : Nat := 0
  imgKind : Nat := 0
  sections : Nat := 0
  refuseCode : Nat := 0
  /-- HF_IMAGE_DIGEST0..7 -/
  digest : List Byte := []
  /-- HF_ADJUST_STATUS.CODE and CLAIM -/
  adjCode : Nat := 0
  adjClaim : Nat := 0
  /-- HF_MODULE_IMAGE, HF_MODULE_ADJ_SEQ and whether a MODULE image is in force (R52) -/
  moduleImage : Nat := 0
  moduleAdjSeq : Nat := 0
  moduleInForce : Bool := false
  /-- the IMAGE_LOAD between its steps (R44), and DELTAs of it that wait to take effect (R53) -/
  load : Option LoadJob := none
  waiting : List LoadJob := []
  /-- the POWER_PLAN of the image in force, none for the default plan, and the plan that the passes follow (R405, R406) -/
  plan : Option (Inst PowerPlan) := none
  planNow : Option PowerPlan := none
  /-- HF_FENCE_SEL -/
  fenceSel : BitVec 16 := 0
  fences : KMap UnitId Fence := []
  gates : KMap UnitId Gate := []
  /-- spare lines used of each hub SRAM, by the first unit of its block (R418) -/
  sramUsed : KMap UnitId Nat := []
  /-- UNFENCE in its self-test, and FENCE commands that wait for one (R474) -/
  unfences : KMap UnitId Origin := []
  fenceWaits : List (UnitId × Origin) := []
  /-- HF_FAULT_LAST, HF_FAULT_COUNTS, HF_AUDIT -/
  faultClass : Nat := 0
  faultUnit : Nat := 0
  cntUnit : Nat := 0
  cntShared : Nat := 0
  cntRequest : Nat := 0
  cntLink : Nat := 0
  audits : Nat := 0
  lastReturned : Nat := 0
deriving DecidableEq, Repr

/-- Headframe's latch, bring-up, pins and sideband (18, 21). -/
structure BootState where
  /-- HF_FATAL -/
  fatalCause : Nat := 0
  fatalUnit : Nat := 0
  /-- HF_RESET: 1 POWER, 2 RESET_N -/
  resetKind : Nat := 2
  /-- HF_ERR -/
  err : BitVec 4 := 0
  /-- HF_BRINGUP -/
  holdupUs : Nat := 0
  pwrOkMs : Nat := 0
  stage : Nat := 0
  /-- HF_PINS: the levels, and the W1C bits 5:0 -/
  leakN : Bool := true
  resetN : Bool := false
  refclk : BitVec 4 := 0xF
  alertStuck : Bool := false
  pwrOkStuck : Bool := false
  pinErr : BitVec 6 := 0
  /-- HF_STRAPS -/
  eid : Byte := 0
  dynAddr : Byte := 0
  staticAddr : Byte := 0
  strapValid : Bool := false
  strapCode : BitVec 4 := 0
  /-- the I3C bus is held (R468) -/
  busHeld : Bool := false
deriving DecidableEq, Repr

/-- A ring by its place (R68): claim (4 for the management rings), kind and number. -/
structure RingId where
  claim : Nat
  cpl : Bool
  idx : Nat
deriving DecidableEq, Repr

/-- An enabled or draining ring (R68 to R74). `st` is 0 DISABLED, 1 ENABLED, 2 DRAINING. `n` is SUB_CONSUMED or W,
`head` CPL_HEAD and `v` V; `fetched` are descriptor lines taken by the watch that the Foreman has not taken, and `ahead` the line after
the one watched, where the copy held of it is written and waits for the watch to reach it (R72, R87). -/
structure Ring where
  st : Nat
  base : Nat
  lines : Nat
  cplRing : Nat
  rcb : Nat
  n : W32
  head : W32
  v : Nat
  fetched : List (Bool × List Byte)
  ahead : Option (Bool × List Byte) := none
deriving DecidableEq, Repr

/-- The credits of one virtual channel (R64, HL_VC_CREDITSn): issued to the module, returned by it, those the module has free, and
the claim of each it holds out, oldest first (4 where none of the claims does). -/
structure Credits where
  issued : W32 := 0
  returned : W32 := 0
  avail : Nat := 0
  held : List Nat := []
deriving DecidableEq, Repr

/-- Hoistlink (03). -/
structure HlState where
  /-- HL_LINK_STATUS: 0 DOWN, 1 TRAINING, 2 UP, 3 RETRAINING, 4 DOWN_WIDTH, 5 NO_VERSION -/
  st : Nat := 0
  laneMask : BitVec 16 := 0
  polFix : BitVec 16 := 0
  reversed : Bool := false
  refclkSrc : Bool := false
  /-- HL_LINK_CTL -/
  laneDisable : BitVec 16 := 0
  /-- HL_VERSION -/
  peerSet : BitVec 8 := 0
  chosen : BitVec 8 := 0
  windowBase : W64 := 0
  /-- HL_VC_CREDITS0..2 -/
  vc : List Credits := [{}, {}, {}]
  /-- HL_ERR_STATUS -/
  err : BitVec 6 := 0
  fecCorrected : Nat := 0
  crcRetry : Nat := 0
  /-- failures of the flit in hand in a row (R86) -/
  crcRun : Nat := 0
  /-- HL_MGMT_ERR -/
  mgmtErrCode : Nat := 0
  mgmtErrOffset : BitVec 26 := 0
  /-- HL_RING_TABLE0..3, HL_MGMT_RING_TABLE, HL_RING_CMD_STATUS -/
  ringTable : List W64 := [0, 0, 0, 0]
  mgmtRingTable : W64 := 0
  ringCmdStatus : Nat := 0
  /-- the rings that are not DISABLED, and records that wait for the link or for a credit (R64, R86) -/
  rings : KMap RingId Ring := []
  stalled : List CplRec := []
  /-- answers to management accesses that wait for a management credit (R64): offset, code, data -/
  answers : List (Nat × Nat × W64) := []
deriving DecidableEq, Repr

/-- The Foreman's registers (04). -/
structure FmState where
  slotSel : BitVec 16 := 0
  /-- the claim served last, and the submission ring of each claim served last (R356) -/
  lastClaim : Nat := 3
  lastRing : List Nat := [255, 255, 255, 255]
  bad : Nat := 0
  policed : Nat := 0
  noSlot : Nat := 0
deriving DecidableEq, Repr

end Sys2Proof.Machine
end

