-- ==== Sys2Proof/Machine/PartsHaul.lean ====
section
/-! DEFINITION. The state of rosters and Haulage (15). -/

namespace Sys2Proof.Machine

/-- A command on a unit's queue (R361, R364): the request's slot or none, the roster class, and the recipe step. -/
structure RCmd where
  slot : Option Nat
  cls : Nat
  step : Nat
deriving DecidableEq, Repr

/-- The unit of a roster: claim, engine class and unit (RS_SEL). -/
structure RUnit where
  claim : Nat
  engine : Nat
  unit : Nat
deriving DecidableEq, Repr

/-- A unit's roster (R364): the entry being served, a deficit an entry, SHIFTS, the units given to each class in
this shift and in the last complete one, the request last served of each class, and the ready commands. -/
structure RosterRun where
  entry : Nat := 0
  deficits : AMap Int := []
  shifts : Nat := 0
  served : AMap Nat := []
  lastServed : AMap Nat := []
  rotation : AMap Nat := []
  queue : List RCmd := []
deriving DecidableEq, Repr

/-- A tenant's policer (R373): micro-tokens, the profile in force and HA_POLICER.REFUSED. -/
structure Policer where
  micro : Nat := 0
  profile : Nat := 0
  refused : Nat := 0
deriving DecidableEq, Repr

/-- A stream shaper in use (R370, R374): its claim, its group and its signed bucket of micro-tokens. -/
structure Shaper where
  claim : Nat
  group : Nat
  micro : Int
deriving DecidableEq, Repr

/-- A frame that waits for egress (R375, R377): its length in bytes, whether it is the last of its message, and the
message. -/
structure Frame where
  len : Nat
  last : Bool
  msg : AdMsg
deriving DecidableEq, Repr

/-- A gate list that runs (R376, R377): its windows, the window now running, the time in ps that frames have taken of it,
CYCLES and OVERRUN. -/
structure GateRun where
  windows : List (Nat × Nat) := []
  pos : Nat := 0
  spent : Nat := 0
  cycles : Nat := 0
  overrun : Nat := 0
deriving DecidableEq, Repr

/-- Rosters and Haulage (15). -/
structure HaulState where
  /-- RS_SEL -/
  rsSel : BitVec 24 := 0
  rosters : KMap RUnit RosterRun := []
  /-- HA_CAL, HA_CLOCK -/
  calState : Nat := 0
  errPpm : Nat := 0
  clock : W64 := 0
  /-- HA_POLICER_SEL, HA_GATE_SEL, HA_ERR -/
  policerSel : BitVec 20 := 0
  gateSel : BitVec 6 := 0
  err : BitVec 3 := 0
  /-- the SHAPER sections whose rates are in force (R372) -/
  shapers : AMap ShaperSec := []
  policers : KMap (Nat × Nat) Policer := []
  streams : AMap Shaper := []
  streamWaits : List Nat := []
  egress : KMap (Nat × Nat) Int := []
  frames : KMap (Nat × Nat) (List Frame) := []
  gates : AMap GateRun := []
deriving DecidableEq, Repr

end Sys2Proof.Machine
end

