-- ==== Sys2Proof/Config.lean ====
section
/-! DEFINITION. What an implementation of the block fixes and the spec does not, and the free values: constants
without a body, so that no proof can rest on a value of theirs. -/

namespace Sys2Proof

/-- The ordering code: true for BVT-4815-H, false for BVT-4815-S (R4, log 7). -/
opaque Config.orderH : Bool

/-- A fresh free value, taken at the state's counter (log 5). -/
opaque Config.free : Nat → Nat

/-- The sign and the payload of a NaN that an operation produces (log 8). -/
opaque Config.nanSign : Bool
opaque Config.nanPayload : Nat

/-- Which of the two FP32 neighbours of an exact result EXP, LOG2 and INVERSE give: true for the upper in
magnitude (R210, R268, R296: within 1 unit in the last place, the same for the same input; log 9). -/
opaque Config.expUp : F32 → Bool
opaque Config.log2Up : F32 → Bool
opaque Config.invUp : F32 → Bool

/-- The FP32 rotation of ROPE: the cosine and the sine for a position, a pair and a base (R296, log 9). -/
opaque Config.ropeCos : Nat → Nat → F32 → F32
opaque Config.ropeSin : Nat → Nat → F32 → F32

/-- The two hash functions of the visited filter (R153, log 10). -/
opaque Config.filterHash : Nat → Nat → Nat

/-- The BF16 element of a query for a finite value that rounds beyond the BF16 range, and the score of a query whose norm
rounds to infinity with a stored vector (R145, R146, log 97). -/
opaque Config.bfOver : F32 → B16
/-- The INT8 element that CVT gives for a NaN (log 98). -/
opaque Config.cvtNan : F32 → BitVec 8
opaque Config.openScore : List Byte → List Byte → F32

/-- Where prefix handles start (R222, log 11). -/
opaque Config.prefixBase : Nat
/-- The logical page of the flash copy of page `i` of a pit's allocation map of a channel (R179 gives no place; log 86). -/
opaque Config.mapPage : Nat → Nat → Nat → Nat
/-- The pages of one checkpoint (log 101). -/
opaque Config.ckptPages : Nat

/-- The digest over an opaque object (the h of R240) that spreads a prefix's pages over the Lodes (log 12). -/
opaque Config.pageHash : Nat → Nat

/-- The device identification of JTAG IDCODE (R459, log 13). -/
opaque Config.idcode : Nat
/-- The IANA private enterprise number that the sideband returns (R467, log 13). -/
opaque Config.iana : Nat

/-- The signature of the device key over bytes, r then s in 66 bytes each (R455, log 14). -/
opaque Config.deviceSign : List Byte → List Byte
/-- The public device key, the three certificates of its chain, and the Rentoson image key of slot 0 (R451, R455, log 14). -/
opaque Config.deviceKey : List Byte
opaque Config.certificate : Nat → List Byte
opaque Config.slot0Key : List Byte
/-- The serial number of the module (R455, log 14). -/
opaque Config.serial : W64

/-- The places of an MX weight element, in bits, and of a block's scale, in bytes, in a row of a tensor, by format and row length; and
whether MXFP6 elements are E3M2 and MXFP8 elements E5M2 (R234 gives neither, log 120). -/
opaque Config.mxElemBit : Nat → Nat → Nat → Nat
opaque Config.mxScaleByte : Nat → Nat → Nat → Nat
opaque Config.mx6E3M2 : Bool
opaque Config.mx8E5M2 : Bool

/-- A byte of Lode DRAM as debug reads it, by Lode, address and the state's counter (R460, log 5). -/
opaque Config.lodeByte : Nat → Nat → Nat → Byte

end Sys2Proof
end

