-- ==== Sys2Proof/Machine/Arith.lean ====
section
/-! DEFINITION. Floating-point arithmetic of the block: exact values as sign, mantissa and exponent, the one
rounding to nearest even (RN), and the operations on FP32, BF16 and FP16 bit patterns. -/

namespace Sys2Proof.Machine

/-- What a floating-point pattern stands for: a NaN, an infinity, or (−1)^neg × m × 2^e. -/
inductive FV where
  | nan
  | inf (neg : Bool)
  | fin (neg : Bool) (m : Nat) (e : Int)
deriving DecidableEq, Repr

/-- The number of bits of a natural number. -/
def bitLen (m : Nat) : Nat := if m = 0 then 0 else Nat.log2 m + 1

/-- The pattern, without sign, of m × 2^e (with something below it when `sticky`) rounded to nearest even in a
format of `mb` mantissa and `eb` exponent bits; beyond the range it is the infinity's. -/
def rnMag (mb eb : Nat) (m : Nat) (e : Int) (sticky : Bool) : Nat :=
  if m = 0 then 0
  else
    let emin : Int := 2 - 2 ^ (eb - 1)
    let top : Int := e + (bitLen m : Int) - 1
    let q : Int := max (top - mb) (emin - mb)
    let n : Nat :=
      if q ≤ e then m <<< (e - q).toNat
      else
        let sh := (q - e).toNat
        let n := m >>> sh
        let r := m % 2 ^ sh
        let half := 2 ^ (sh - 1)
        if half < r || (r == half && (sticky || n % 2 == 1)) then n + 1 else n
    min ((2 ^ eb - 1) <<< mb) (((q - (emin - mb)).toNat <<< mb) + n)

/-- The FP32 pattern of a NaN that an operation produces: some NaN (log 8). -/
def nan32 : F32 :=
  BitVec.ofNat 32 ((if Config.nanSign then 0xFF800001 else 0x7F800001) + Config.nanPayload % (2 ^ 23 - 1))

/-- An FP32 pattern of sign and magnitude. -/
def mk32 (neg : Bool) (mag : Nat) : F32 := BitVec.ofNat 32 ((if neg then 2 ^ 31 else 0) + mag)

/-- The value of a pattern of `mb` mantissa and `eb` exponent bits with infinities and NaNs (IEEE 754). -/
def decIeee (mb eb : Nat) (x : Nat) : FV :=
  let neg := x.testBit (mb + eb)
  let f := x % 2 ^ mb
  let ex := (x >>> mb) % 2 ^ eb
  let emin : Int := 2 - 2 ^ (eb - 1)
  if ex = 2 ^ eb - 1 then (if f = 0 then .inf neg else .nan)
  else if ex = 0 then .fin neg f (emin - mb)
  else .fin neg (f + 2 ^ mb) (emin - mb + (ex : Int) - 1)

/-- The value of an FP32 pattern. -/
def dec32 (x : F32) : FV := decIeee 23 8 x.toNat

/-- The FP32 pattern of a value by RN. -/
def enc32 (v : FV) : F32 :=
  match v with
  | .nan => nan32
  | .inf neg => mk32 neg (255 <<< 23)
  | .fin neg m e => mk32 neg (rnMag 23 8 m e false)

/-- Whether a value is a NaN. -/
def FV.isNan (v : FV) : Bool := v == .nan

/-- Whether an FP32 pattern is a NaN. -/
def isNan32 (x : F32) : Bool := (dec32 x).isNan

/-- Whether an FP32 pattern is an infinity. -/
def isInf32 (x : F32) : Bool :=
  match dec32 x with
  | .inf _ => true
  | _ => false

/-- A value as a signed mantissa and an exponent. -/
def sgn (neg : Bool) (m : Nat) : Int := if neg then -(m : Int) else m

/-- The exact sum of two finite values; an exact zero is +0 unless both are −0. -/
def finAdd (n1 : Bool) (m1 : Nat) (e1 : Int) (n2 : Bool) (m2 : Nat) (e2 : Int) : FV :=
  let e := min e1 e2
  let s := sgn n1 (m1 <<< (e1 - e).toNat) + sgn n2 (m2 <<< (e2 - e).toNat)
  if s = 0 then .fin (n1 && n2) 0 e else .fin (decide (s < 0)) s.natAbs e

/-- The exact sum of two values, by the special-value rules of IEEE 754. -/
def FV.add (a b : FV) : FV :=
  match a, b with
  | .nan, _ => .nan
  | _, .nan => .nan
  | .inf x, .inf y => if x = y then .inf x else .nan
  | .inf x, _ => .inf x
  | _, .inf y => .inf y
  | .fin n1 m1 e1, .fin n2 m2 e2 => finAdd n1 m1 e1 n2 m2 e2

/-- The negation of a value. -/
def FV.neg (a : FV) : FV :=
  match a with
  | .nan => .nan
  | .inf x => .inf (!x)
  | .fin n m e => .fin (!n) m e

/-- The exact product of two values, by the special-value rules of IEEE 754. -/
def FV.mul (a b : FV) : FV :=
  match a, b with
  | .nan, _ => .nan
  | _, .nan => .nan
  | .inf x, .inf y => .inf (x != y)
  | .inf x, .fin n m _ => if m = 0 then .nan else .inf (x != n)
  | .fin n m _, .inf y => if m = 0 then .nan else .inf (n != y)
  | .fin n1 m1 e1, .fin n2 m2 e2 => .fin (n1 != n2) (m1 * m2) (e1 + e2)

/-- FP32 addition by RN. -/
def fadd (a b : F32) : F32 := enc32 ((dec32 a).add (dec32 b))
/-- FP32 subtraction by RN. -/
def fsub (a b : F32) : F32 := enc32 ((dec32 a).add (dec32 b).neg)
/-- FP32 multiplication by RN. -/
def fmul (a b : F32) : F32 := enc32 ((dec32 a).mul (dec32 b))

/-- FP32 division by RN. -/
def fdiv (a b : F32) : F32 :=
  match dec32 a, dec32 b with
  | .nan, _ => nan32
  | _, .nan => nan32
  | .inf _, .inf _ => nan32
  | .inf x, .fin n _ _ => mk32 (x != n) (255 <<< 23)
  | .fin n _ _, .inf y => mk32 (n != y) 0
  | .fin n1 m1 e1, .fin n2 m2 e2 =>
    if m2 = 0 then (if m1 = 0 then nan32 else mk32 (n1 != n2) (255 <<< 23))
    else
      let w := m1 <<< 64
      mk32 (n1 != n2) (rnMag 23 8 (w / m2) (e1 - e2 - 64) (w % m2 != 0))

/-- The integer square root, found bit by bit from bit `k` down. -/
def isqrtFrom (k n r : Nat) : Nat :=
  let r' := r + 2 ^ k
  let r2 := if r' * r' ≤ n then r' else r
  match k with
  | 0 => r2
  | k + 1 => isqrtFrom k n r2

/-- The FP32 square root by RN; below 0 it is a NaN. -/
def fsqrt (a : F32) : F32 :=
  match dec32 a with
  | .nan => nan32
  | .inf neg => if neg then nan32 else a
  | .fin neg m e =>
    if m = 0 then a
    else if neg then nan32
    else
      let k := if e % 2 = 0 then 64 else 65
      let w := m <<< k
      let r := isqrtFrom 64 w 0
      mk32 false (rnMag 23 8 r ((e - k) / 2) (r * r != w))

/-- The largest finite FP32 value of a sign. -/
def maxFin32 (neg : Bool) : F32 := mk32 neg 0x7F7FFFFF

/-- An FP32 result with an infinity replaced by the largest finite value of its sign (R265, R266, R267). -/
def satInf32 (x : F32) : F32 :=
  match dec32 x with
  | .inf neg => maxFin32 neg
  | _ => x

/-- −0 as +0. -/
def posZero (x : F32) : F32 := if x = 0x80000000 then 0 else x

/-- The key of a score (R262). -/
def scoreKey (s : F32) : Nat :=
  let s := posZero s
  if s.toNat < 2 ^ 31 then s.toNat + 2 ^ 31 else 2 ^ 32 - 1 - s.toNat

/-- Whether one FP32 score is below another, by key (R262). -/
def flt (a b : F32) : Bool := decide (scoreKey a < scoreKey b)

/-- The sign of an FP32 pattern. -/
def isNeg32 (x : F32) : Bool := x.toNat.testBit 31

/-- The FP32 value of a BF16 pattern. -/
def bfTo32 (b : B16) : F32 := BitVec.ofNat 32 (b.toNat <<< 16)

/-- The BF16 pattern of an FP32 value by RN. -/
def toBf (x : F32) : B16 :=
  match dec32 x with
  | .nan => BitVec.ofNat 16 (x.toNat >>> 16 ||| 0x40)
  | .inf neg => BitVec.ofNat 16 ((if neg then 0x8000 else 0) + 0x7F80)
  | .fin neg m e => BitVec.ofNat 16 ((if neg then 0x8000 else 0) + rnMag 7 8 m e false)

/-- The BF16 pattern by RN, saturating at the largest finite value (R296, R297). -/
def toBfSat (x : F32) : B16 :=
  let b := toBf x
  if b.toNat % 2 ^ 15 = 0x7F80 then BitVec.ofNat 16 (b.toNat - 1) else b

/-- The FP16 pattern of an FP32 value by RN. -/
def toFp16 (x : F32) : B16 :=
  match dec32 x with
  | .nan => BitVec.ofNat 16 0x7E00
  | .inf neg => BitVec.ofNat 16 ((if neg then 0x8000 else 0) + 0x7C00)
  | .fin neg m e => BitVec.ofNat 16 ((if neg then 0x8000 else 0) + rnMag 10 5 m e false)

/-- The FP32 value of an FP16 pattern. -/
def fp16To32 (b : B16) : F32 := enc32 (decIeee 10 5 b.toNat)

/-- An integer as FP32 by RN. -/
def intTo32 (i : Int) : F32 := mk32 (decide (i < 0)) (rnMag 23 8 i.natAbs 0 false)

/-- The integer of a two's-complement byte. -/
def sbyte (b : Byte) : Int := b.toInt

/-- The larger of two FP32 values; a NaN where either is one (log 8). -/
def fmax (a b : F32) : F32 := if isNan32 a || isNan32 b then nan32 else if flt a b then b else a
/-- The smaller of two FP32 values; a NaN where either is one (log 8). -/
def fmin (a b : F32) : F32 := if isNan32 a || isNan32 b then nan32 else if flt b a then b else a

/-- The floor of an FP32 value times 2^k; 0 for what is not finite and positive. -/
def floorScaled (x : F32) (k : Nat) : Nat :=
  match dec32 x with
  | .fin false m e =>
    let e' := e + (k : Int)
    if 0 ≤ e' then m <<< e'.toNat else m >>> (-e').toNat
  | _ => 0

/-! ### Functions given within one unit in the last place -/

/-- The FP32 neighbour of m × 2^e that a choice names: rounded towards zero, or away from it where something lies
below the last place. -/
def faithful (up : Bool) (neg : Bool) (m : Nat) (e : Int) : F32 :=
  if m = 0 then mk32 neg 0
  else
    let emin : Int := -126
    let top : Int := e + (bitLen m : Int) - 1
    let q : Int := max (top - 23) (emin - 23)
    if q ≤ e then mk32 neg (rnMag 23 8 m e false)
    else
      let sh := (q - e).toNat
      let n := (m >>> sh) + (if up && m % 2 ^ sh != 0 then 1 else 0)
      mk32 neg (rnMag 23 8 n q false)

/-- The Taylor terms of exp of a fixed-point argument of `p` fraction bits, term `k` first. -/
def expTaylor (n p r k t : Nat) : Nat :=
  match n with
  | 0 => 0
  | n + 1 => t + expTaylor n p r (k + 1) (t * r / (2 ^ p * k))

/-- A mantissa and exponent squared `k` times, cut to 200 bits each time. -/
def sqTimes (k m : Nat) (e : Int) : Nat × Int :=
  match k with
  | 0 => (m, e)
  | k + 1 =>
    let m2 := m * m
    let sh := bitLen m2 - 200
    sqTimes k (m2 >>> sh) (2 * e + sh)

/-- exp within 1 unit in the last place, the same output for the same input; exp of a zero is 1 (R268). -/
def fexp (x : F32) : F32 :=
  match dec32 x with
  | .nan => nan32
  | .inf neg => if neg then 0 else x
  | .fin neg m e =>
    if m = 0 then 0x3F800000
    else if 8 ≤ e + (bitLen m : Int) then (if neg then 0 else mk32 false (255 <<< 23))
    else
      -- |x| < 2^8 is cut to |x| / 2^16 with 200 fraction bits, and squared back
      let fe := e - 16 + 200
      let r := if 0 ≤ fe then m <<< fe.toNat else m >>> (-fe).toNat
      let (em, ee) := sqTimes 16 (expTaylor 24 200 r 1 (2 ^ 200)) (-200)
      if neg then faithful (Config.expUp x) false (2 ^ 400 / em) (-400 - ee)
      else faithful (Config.expUp x) false em ee

/-- The first `n` binary digits of log2 of a fixed-point number in [1, 2) of 256 fraction bits. -/
def log2Digits (n f acc : Nat) : Nat :=
  match n with
  | 0 => acc
  | n + 1 =>
    let g := (f * f) >>> 256
    if 2 ^ 257 ≤ g then log2Digits n (g >>> 1) (2 * acc + 1) else log2Digits n g (2 * acc)

/-- log2 of a positive finite value within 1 unit in the last place (R210). -/
def flog2 (x : F32) : F32 :=
  match dec32 x with
  | .fin false m e =>
    if m = 0 then mk32 true (255 <<< 23)
    else
      let l := Nat.log2 m
      let ip : Int := e + l
      let f := m <<< (256 - l)
      let d := log2Digits 96 f 0
      let exact := m == 2 ^ l
      let v : Int := ip * 2 ^ 96 + (d : Int)
      -- a number that is no power of two has a logarithm with no finite expansion: one bit stands below
      let v2 : Int := 2 * v + (if exact then 0 else 1)
      faithful (Config.log2Up x) (decide (v2 < 0)) v2.natAbs (-97)
  | .inf false => x
  | _ => nan32

/-- 1 / x within 1 unit in the last place (R210). -/
def finv (x : F32) : F32 :=
  match dec32 x with
  | .nan => nan32
  | .inf neg => mk32 neg 0
  | .fin neg m e =>
    if m = 0 then mk32 neg (255 <<< 23)
    else
      let w := 2 ^ 128
      let q := w / m
      faithful (Config.invUp x) neg (2 * q + (if w % m = 0 then 0 else 1)) (-129 - e)

end Sys2Proof.Machine
end

