-- ==== Sys2Proof/Machine/ArrayMath.lean ====
section
/-! DEFINITION. What the matrix arrays compute (12): element formats, one exact tile, the other accumulations, the
combination of tiles, and the element-wise operations. -/

namespace Sys2Proof.Machine

/-- Numeric events of array work that AR_NUMERIC and AR_BANK_BEATS count (R288, R289, R290, R294). -/
structure NumEv where
  span : Nat
  overflow : Nat
  nanOut : Bool
  useful : Nat
  gated : Nat
deriving DecidableEq, Repr

/-- No event. -/
def NumEv.zero : NumEv := ⟨0, 0, false, 0, 0⟩

/-- The events of two pieces of work together. -/
def NumEv.plus (a b : NumEv) : NumEv :=
  ⟨a.span + b.span, a.overflow + b.overflow, a.nanOut || b.nanOut, a.useful + b.useful, a.gated + b.gated⟩

/-- The value of a small-format element without infinities or NaNs: `mb` mantissa, `eb` exponent bits, bias. -/
def decSmall (mb eb bias : Nat) (x : Nat) : FV :=
  let neg := x.testBit (mb + eb)
  let f := x % 2 ^ mb
  let ex := (x >>> mb) % 2 ^ eb
  if ex = 0 then .fin neg f (1 - (bias : Int) - mb)
  else .fin neg (f + 2 ^ mb) ((ex : Int) - bias - mb)

/-- The value of an element of a format (R286). -/
def decElem (f : NumFmt) (x : BitVec 16) : FV :=
  match f with
  | .e4m3 | .mxE4m3 => if x.toNat % 128 = 127 then .nan else decSmall 3 4 7 (x.toNat % 256)
  | .e5m2 | .mxE5m2 => decIeee 2 5 (x.toNat % 256)
  | .mxE2m3 => decSmall 3 2 1 (x.toNat % 64)
  | .mxE3m2 => decSmall 2 3 3 (x.toNat % 64)
  | .mxE2m1 => decSmall 1 2 1 (x.toNat % 16)
  | .int8 => .fin (x.toNat.testBit 7) ((BitVec.ofNat 8 x.toNat).toInt.natAbs) 0
  | .fp16 => decIeee 10 5 x.toNat
  | .bf16 => decIeee 7 8 x.toNat

/-- The exponent of the least significant bit of an element of a format (R289). -/
def lsExp (f : NumFmt) : Int :=
  match f with
  | .e4m3 | .mxE4m3 => -9
  | .e5m2 | .mxE5m2 => -16
  | .mxE2m3 => -3
  | .mxE3m2 => -4
  | .mxE2m1 => -1
  | .int8 => 0
  | .fp16 => -24
  | .bf16 => -133

/-- Whether a format carries block scales. -/
def hasScale (f : NumFmt) : Bool :=
  match f with
  | .mxE4m3 | .mxE5m2 | .mxE2m3 | .mxE3m2 | .mxE2m1 => true
  | _ => false

/-- The scale exponent of term `k` of an operand; `none` for the NaN scale 0xFF. -/
def scaleExp (t : TileOp) (k : Nat) : Option Int :=
  if hasScale t.fmt then
    let s := (t.scales.getD (k / 32) 0).toNat
    if s = 255 then none else some ((s : Int) - 127)
  else some 0

/-- The sum of the two scale exponents of the block of term `k` (e_b of R289), NaN scales left out. -/
def blockExp (a b : TileOp) (k : Nat) : Int := (scaleExp a k).getD 0 + (scaleExp b k).getD 0

/-- A dyadic number rounded to nearest even at weight 2^q, as a multiple of 2^q. -/
def rnAt (neg : Bool) (m : Nat) (e q : Int) : Int :=
  if q ≤ e then sgn neg (m <<< (e - q).toNat)
  else
    let sh := (q - e).toNat
    let n := m >>> sh
    let r := m % 2 ^ sh
    let half := 2 ^ (sh - 1)
    sgn neg (if half < r || (r == half && n % 2 == 1) then n + 1 else n)

/-- The term of a tile: the product's value without scales, or NaN by a scale (R290). -/
def tileTerm (a b : TileOp) (k : Nat) : FV :=
  match scaleExp a k, scaleExp b k with
  | some _, some _ => (decElem a.fmt (a.elems.getD k 0)).mul (decElem b.fmt (b.elems.getD k 0))
  | _, _ => .nan

/-- Whether a term is gated: one operand an exact zero, the other finite (R294). -/
def gatedTerm (a b : TileOp) (k : Nat) : Bool :=
  match tileTerm a b k with
  | .fin _ 0 _ => true
  | _ => false

/-- One exact tile of formats 0x00 to 0x06 (R288 to R290): the FP32 result and its events. -/
def exactTile (a b : TileOp) : F32 × NumEv :=
  let n := min a.elems.length b.elems.length
  let ks := List.range n
  let terms := ks.map (fun k => (k, tileTerm a b k))
  let blocks := List.range ((n + 31) / 32)
  let emax := blocks.foldl (fun acc i => max acc (blockExp a b (32 * i))) (blockExp a b 0)
  let p := lsExp a.fmt + lsExp b.fmt
  let q := emax + p - 96
  let spans := (blocks.filter (fun i => decide (blockExp a b (32 * i) < emax - 96))).length
  let gated := (ks.filter (gatedTerm a b)).length
  let ev : NumEv := ⟨spans, 0, false, n - gated, gated⟩
  if terms.any (fun t => t.2.isNan) then (nan32, { ev with nanOut := true })
  else
    let posInf := terms.any (fun t => t.2 == .inf false)
    let negInf := terms.any (fun t => t.2 == .inf true)
    if posInf && negInf then (nan32, { ev with nanOut := true })
    else if posInf then (mk32 false (255 <<< 23), ev)
    else if negInf then (mk32 true (255 <<< 23), ev)
    else
      let s : Int := terms.foldl (fun acc t => match t.2 with
        | .fin neg m e => acc + rnAt neg m (e + blockExp a b t.1) q
        | _ => acc) 0
      let r := mk32 (decide (s < 0)) (rnMag 23 8 s.natAbs q false)
      (r, if isInf32 r then { ev with overflow := 1 } else ev)

/-- One FP16 or BF16 tile: exact products added to an FP32 accumulator in term order (R292). -/
def orderedTile (a b : TileOp) : F32 × NumEv :=
  let n := min a.elems.length b.elems.length
  let ks := List.range n
  let r := ks.foldl (fun acc k =>
    enc32 ((dec32 acc).add ((decElem a.fmt (a.elems.getD k 0)).mul (decElem b.fmt (b.elems.getD k 0))))) 0
  let gated := (ks.filter (gatedTerm a b)).length
  let inf := ks.any (fun k => match tileTerm a b k with
    | .inf _ => true
    | _ => false)
  (r, ⟨0, if isInf32 r && !inf then 1 else 0, isNan32 r, n - gated, gated⟩)

/-- One INT8 tile: the exact sum, modulo 2^32, as an INT32 pattern (R291). -/
def int8Tile (a b : TileOp) : F32 × NumEv :=
  let n := min a.elems.length b.elems.length
  let ks := List.range n
  let el := fun (t : TileOp) (k : Nat) => (BitVec.ofNat 8 (t.elems.getD k 0).toNat).toInt
  let s : Int := ks.foldl (fun acc k => acc + el a k * el b k) 0
  let gated := (ks.filter (gatedTerm a b)).length
  (BitVec.ofInt 32 s, ⟨0, 0, false, n - gated, gated⟩)

/-- Whether two operand formats may pair (R287). -/
def fmtsPair (a b : NumFmt) : Bool :=
  match a, b with
  | .int8, .int8 => true
  | .fp16, .fp16 => true
  | .bf16, .bf16 => true
  | .int8, _ => false
  | _, .int8 => false
  | .fp16, _ => false
  | _, .fp16 => false
  | .bf16, _ => false
  | _, .bf16 => false
  | _, _ => true

/-- One tile by the format of its operands. -/
def tile (a b : TileOp) : F32 × NumEv :=
  match a.fmt with
  | .int8 => int8Tile a b
  | .fp16 | .bf16 => orderedTile a b
  | _ => exactTile a b

/-- Tile results of one output element added in order of arrival (R291, R293). -/
def combineTiles (int : Bool) (rs : List (F32 × NumEv)) : F32 × NumEv :=
  match rs with
  | [] => (0, NumEv.zero)
  | r :: rest => rest.foldl (fun acc t =>
      if int then (acc.1 + t.1, acc.2.plus t.2)
      else
        let v := fadd acc.1 t.1
        let ov := isInf32 v && !isInf32 acc.1 && !isInf32 t.1
        (v, (acc.2.plus t.2).plus ⟨0, if ov then 1 else 0, false, 0, 0⟩)) r

/-- Results in their order of arrival; one that is no order of them stands for that of issue. -/
def arrive {α : Type} (order : List Nat) (l : List α) : List α :=
  if order.isPerm (List.range l.length) then order.filterMap (l[·]?) else l

/-- A BF16 operand. -/
def bfOp (l : List B16) : TileOp := { fmt := .bf16, elems := l, scales := [] }

/-- An FP32 product in three BF16 passes (R297): the operands' parts. -/
def fp32sParts (xs : List F32) : List B16 × List B16 :=
  let hi := xs.map toBfSat
  (hi, (xs.zip hi).map (fun p => toBf (fsub p.1 (bfTo32 p.2))))

/-- The three passes of one tile of an FP32S product, in the order of issue. -/
def fp32sPasses (a b : List F32) : List (F32 × NumEv) :=
  let (a1, a2) := fp32sParts a
  let (b1, b2) := fp32sParts b
  [orderedTile (bfOp a1) (bfOp b1), orderedTile (bfOp a1) (bfOp b2), orderedTile (bfOp a2) (bfOp b1)]

/-- An FP32S dot product (R297): the passes of its tiles added as they arrive (R293). -/
def fp32sDot (tiles : List (List F32 × List F32)) (order : List Nat) : F32 × NumEv :=
  combineTiles false (arrive order ((tiles.map (fun t => fp32sPasses t.1 t.2)).flatten))

/-- A complex dot product in three real passes (R299): real part, imaginary part and events. -/
def cpx3Dot (ar ai br bi : List B16) (half : Bool) : F32 × F32 × NumEv :=
  let up := fun (x : B16) => if half then fp16To32 x else bfTo32 x
  let down := fun (x : F32) => if half then toFp16 x else toBf x
  let zip2 := fun (f : F32 → F32 → F32) (x y : List B16) => (x.zip y).map (fun p => down (f (up p.1) (up p.2)))
  let fmt : NumFmt := if half then .fp16 else .bf16
  let op := fun (l : List B16) => ({ fmt := fmt, elems := l, scales := [] } : TileOp)
  let k1 := orderedTile (op (zip2 fadd ar ai)) (op br)
  let k2 := orderedTile (op ar) (op (zip2 fsub bi br))
  let k3 := orderedTile (op ai) (op (zip2 fadd br bi))
  (fsub k1.1 k3.1, fadd k1.1 k2.1, (k1.2.plus k2.2).plus k3.2)

/-! ### The conversion of a BF16 activation block to an MX format (R287) -/

/-- The greatest element exponent of a format (emax of R287). -/
def fmtEmax (f : NumFmt) : Int :=
  match f with
  | .e4m3 | .mxE4m3 => 8
  | .e5m2 | .mxE5m2 => 15
  | .mxE2m3 => 2
  | .mxE3m2 => 4
  | _ => 2

/-- The mantissa and exponent widths, the bias and the largest finite magnitude pattern of an element format. -/
def fmtShape (f : NumFmt) : Nat × Nat × Nat × Nat :=
  match f with
  | .e4m3 | .mxE4m3 => (3, 4, 7, 0x7E)
  | .e5m2 | .mxE5m2 => (2, 5, 15, 0x7B)
  | .mxE2m3 => (3, 2, 1, 0x1F)
  | .mxE3m2 => (2, 3, 3, 0x1F)
  | _ => (1, 2, 1, 0x7)

/-- An element rounded to nearest even in a small format, saturating at the largest finite element. -/
def encSmall (f : NumFmt) (neg : Bool) (m : Nat) (e : Int) : BitVec 16 :=
  let (mb, eb, bias, top) := fmtShape f
  let emin : Int := 1 - (bias : Int)
  let q : Int := max (e + (bitLen m : Int) - 1 - mb) (emin - mb)
  let n := (rnAt false m e q).natAbs
  let mag := if m = 0 then 0 else min top (((q - (emin - mb)).toNat <<< mb) + n)
  BitVec.ofNat 16 ((if neg then 2 ^ (mb + eb) else 0) + mag)

/-- A block of 32 values converted to an MX block: its scale and its elements (R287). -/
def convertBlock (f : NumFmt) (vs : List FV) : Byte × List (BitVec 16) :=
  if vs.any (fun v => match v with
    | .fin _ _ _ => false
    | _ => true) then (0xFF, vs.map (fun _ => 0))
  else
    let lg := vs.filterMap (fun v => match v with
      | .fin _ m e => if m = 0 then none else some (e + (bitLen m : Int) - 1)
      | _ => none)
    match lg with
    | [] => (0, vs.map (fun _ => 0))
    | l :: ls =>
      let x : Int := ls.foldl max l - fmtEmax f
      let sc := max 0 (x + 127)
      (BitVec.ofNat 8 (min 254 sc.toNat), vs.map (fun v => match v with
        | .fin neg m e => encSmall f neg m (e - (sc - 127))
        | _ => 0))

/-- The blocks of 32 of a row, each converted. -/
def convertRow (f : NumFmt) (vs : List FV) : List (Byte × List (BitVec 16)) :=
  (List.range ((vs.length + 31) / 32)).map (fun i => convertBlock f ((vs.drop (32 * i)).take 32))

/-- The format that a BF16 activation takes against a weight: MXFP8 with E4M3 elements for an FP8 E4M3 weight without
scales (R287), and so for E5M2 (log 98); the weight's own otherwise. -/
def mxOf (f : NumFmt) : NumFmt :=
  match f with
  | .e4m3 => .mxE4m3
  | .e5m2 => .mxE5m2
  | f => f

/-- Whether a format is one of codes 0x00 to 0x06 (R286). -/
def smallFmt (f : NumFmt) : Bool :=
  match f with
  | .int8 | .fp16 | .bf16 => false
  | _ => true

/-- An operand as it enters the array against another: a BF16 activation that meets a weight of formats 0x00 to 0x06 is
converted by the bank feeder, block by block (R287). -/
def feed (a w : TileOp) : TileOp :=
  if a.fmt = .bf16 && smallFmt w.fmt then
    let bs := convertRow (mxOf w.fmt) (a.elems.map (fun x => decIeee 7 8 x.toNat))
    { fmt := mxOf w.fmt, elems := (bs.map (·.2)).flatten, scales := bs.map (·.1) }
  else a

/-! ### Element-wise operations (R296) -/

/-- One round of a pairwise reduction: neighbours combined (log 15). -/
def pairUp (f : F32 → F32 → F32) (l : List F32) : List F32 :=
  match l with
  | a :: b :: r => f a b :: pairUp f r
  | l => l

/-- A row reduced in fixed pairwise order, with a bound on the rounds (log 15). -/
def pairReduce (fuel : Nat) (f : F32 → F32 → F32) (l : List F32) : F32 :=
  match fuel with
  | 0 => l.headD 0
  | fuel + 1 =>
    match l with
    | [] => 0
    | [a] => a
    | l => pairReduce fuel f (pairUp f l)

/-- ROW_SUM. -/
def rowSum (l : List F32) : F32 := pairReduce (l.length + 1) fadd l
/-- ROW_MAX. -/
def rowMax (l : List F32) : F32 := pairReduce (l.length + 1) fmax l
/-- ROW_SUMSQ. -/
def rowSumSq (l : List F32) : F32 := rowSum (l.map (fun x => fmul x x))

/-- The rotation of one pair of ROPE. -/
def ropePairs (pos : Nat) (base : F32) (i : Nat) (l : List F32) : List F32 :=
  match l with
  | x :: y :: r =>
    let c := Config.ropeCos pos i base
    let s := Config.ropeSin pos i base
    fsub (fmul x c) (fmul y s) :: fadd (fmul x s) (fmul y c) :: ropePairs pos base (i + 1) r
  | l => l

/-- A value in a format without block scales, rounded to nearest even and saturating at the largest finite element (CVT
of R296). -/
def cvtElem (f : NumFmt) (x : F32) : F32 :=
  let top := fun (neg : Bool) => enc32 (decElem f (encSmall f neg 1 200))
  match f with
  | .fp16 =>
    let y := fp16To32 (toFp16 x)
    if isInf32 y then fp16To32 (if isNeg32 y then 0xFBFF else 0x7BFF) else y
  | .bf16 => bfTo32 (toBfSat x)
  | .int8 =>
    let lim := fun (i : Int) => max (-128) (min 127 i)
    match dec32 x with
    | .nan => intTo32 (Config.cvtNan x).toInt
    | .inf neg => intTo32 (lim (if neg then -128 else 127))
    | .fin neg m e => intTo32 (lim (rnAt neg m e 0))
  | f =>
    match dec32 x with
    | .nan => nan32
    | .inf neg => top neg
    | .fin neg m e => enc32 (decElem f (encSmall f neg m e))

/-- A row converted to a format, as the values of its elements, with their block scales in MX formats (CVT of R296). -/
def cvtRow (f : NumFmt) (a : List F32) : List F32 :=
  if hasScale f then
    ((convertRow f (a.map dec32)).map (fun b =>
      let op : TileOp := { fmt := f, elems := b.2, scales := [b.1] }
      (List.range b.2.length).map (fun k => match scaleExp op k, decElem f (b.2.getD k 0) with
        | some x, .fin neg m e => enc32 (.fin neg m (e + x))
        | _, _ => nan32))).flatten
  else a.map (cvtElem f)

/-- An element-wise operation on one row `a`, with a second input `b` where it takes one. A value in FP32S is an FP32 number
(log 121), a CVT to it saturates. -/
def ewRow (op : EwOp) (a b : List F32) : List F32 :=
  let zip2 := fun (f : F32 → F32 → F32) => (a.zip b).map (fun p => f p.1 p.2)
  let out := fun (bf : Bool) (l : List F32) => if bf then l.map (fun x => bfTo32 (toBf x)) else l
  match op with
  | .add bf => out bf (zip2 fadd)
  | .sub bf => out bf (zip2 fsub)
  | .mul bf => out bf (zip2 fmul)
  | .scale k bf => out bf (a.map (fun x => fmul x k))
  | .siluGate => zip2 (fun g u => fdiv (fmul g u) (fadd 0x3F800000 (fexp (fsub 0 g))))
  | .exp => a.map fexp
  | .rope pos base => ropePairs pos base 0 a
  | .rowMax => [rowMax a]
  | .rowSum => [rowSum a]
  | .rowSumSq => [rowSumSq a]
  | .rmsNorm eps =>
    let d := fsqrt (fadd (fdiv (rowSumSq a) (intTo32 a.length)) eps)
    zip2 (fun x w => fdiv (fmul x w) d)
  | .softmax =>
    let m := rowMax a
    let e := a.map (fun x => fexp (fsub x m))
    let r := finv (rowSum e)
    e.map (fun x => fmul x r)
  | .cvt f => cvtRow f a
  | .cvtFp32s => a.map satInf32
  | .cvtInt32 => a.map (fun x => intTo32 x.toInt)
  | .poolMean n =>
    let cols := a.length / n
    (List.range cols).map (fun c =>
      let s := (List.range n).foldl (fun acc r => fadd acc (a.getD (r * cols + c) 0)) 0
      fmul s (fdiv 0x3F800000 (intTo32 n)))

/-- The longest row of a row-wise operation (R296). -/
def ewFits (op : EwOp) (a : List F32) : Bool :=
  match op with
  | .rowMax | .rowSum | .rowSumSq | .rmsNorm _ | .softmax => decide (a.length ≤ 65536)
  | _ => true

/-- Whether an operand has a length. -/
def ofLen (k : Nat) (o : TileOp) : Bool := o.elems.length == k

/-- Whether a tile has a shape of R295: M rows and N columns of one length K, in formats that pair; the four groups of MMA_SK4 are
added in the 192-bit accumulators of formats 0x00 to 0x06. -/
def mmaOk (sk4 : Bool) (t : List TileOp × List TileOp) : Bool :=
  let k := ((t.1.head?).map (·.elems.length)).getD 0
  decide (1 ≤ t.1.length) && decide (t.1.length ≤ if sk4 then 32 else 128) && decide (1 ≤ t.2.length) && decide (t.2.length ≤ 128)
    && decide (1 ≤ k) && decide (k ≤ 4096) && (!sk4 || k % 4 == 0) && t.1.all (ofLen k) && t.2.all (ofLen k)
    && t.1.all (fun a => t.2.all (fun b =>
      let x := (feed a b).fmt
      fmtsPair x (feed b a).fmt && (!sk4 || smallFmt x)))

/-- One output element of a block: its tiles combined as they arrive. -/
def blockElem (tiles : List (List TileOp × List TileOp)) (i j : Nat) : F32 × NumEv :=
  let ts := tiles.filterMap (fun t => match t.1[i]?, t.2[j]? with
    | some a, some b => some (feed a b, feed b a)
    | _, _ => none)
  combineTiles (ts.any (fun t => t.1.fmt == .int8)) (ts.map (fun t => tile t.1 t.2))

/-- An output block by rows, and its events: nothing where a tile has no shape of R295, or the tiles differ in M or N. -/
def mmaBlock (sk4 : Bool) (tiles : List (List TileOp × List TileOp)) : List F32 × NumEv :=
  match tiles with
  | [] => ([], NumEv.zero)
  | t :: _ =>
    if tiles.all (fun x => mmaOk sk4 x && x.1.length == t.1.length && x.2.length == t.2.length) then
      let out := ((List.range t.1.length).map (fun i => (List.range t.2.length).map (fun j => blockElem tiles i j))).flatten
      (out.map (·.1), (out.map (·.2)).foldl NumEv.plus NumEv.zero)
    else ([], NumEv.zero)

/-- A dot product of BF16 activations with a weight row, in tiles of up to 4,096 terms that arrive in an order. -/
def dotTiles (x : List B16) (w : TileOp) (order : List Nat) : F32 :=
  let n := (x.length + 4095) / 4096
  let cut := fun (i : Nat) => ({ w with elems := (w.elems.drop (4096 * i)).take 4096, scales := (w.scales.drop (128 * i)).take 128 } : TileOp)
  let one := fun (i : Nat) => tile (feed (bfOp ((x.drop (4096 * i)).take 4096)) (cut i)) (cut i)
  (combineTiles false (arrive order ((List.range n).map one))).1

/-- The work of a completing command (R295): what it writes and its events. The products of `weights` and `adapter` are formed from
what the Lodes hold (`stateWork`). -/
def bankWork (w : BankWork) : List F32 × NumEv :=
  match w with
  | .none | .weights .. | .adapter .. => ([], NumEv.zero)
  | .mma sk4 _ tiles => mmaBlock sk4 tiles
  | .elementwise op a b => (if ewFits op a then ewRow op a b else [], NumEv.zero)
  | .fp32s tiles order =>
    if tiles.all (fun t => decide (t.1.length ≤ 4096) && t.1.length == t.2.length) then
      let r := fp32sDot tiles order
      ([r.1], r.2)
    else ([], NumEv.zero)
  | .cpx3 ar ai br bi half =>
    if decide (ar.length ≤ 4096) && [ai, br, bi].all (fun l => l.length == ar.length) then
      let r := cpx3Dot ar ai br bi half
      ([r.1, r.2.1], r.2.2)
    else ([], NumEv.zero)

end Sys2Proof.Machine
end

