-- ==== Sys2Proof/Machine/Score.lean ====
section
/-! DEFINITION. Scores (06 R145 to R147), stored vectors, and the formula of Assay stage 1 (08 R209, R210), as
functions on data. -/

namespace Sys2Proof.Machine

/-! ### Exact dyadic numbers -/

/-- m × 2^e. -/
structure Dy where
  m : Int
  e : Int
deriving DecidableEq, Repr

/-- The exact sum. -/
def Dy.add (a b : Dy) : Dy :=
  let e := min a.e b.e
  ⟨a.m * 2 ^ (a.e - e).toNat + b.m * 2 ^ (b.e - e).toNat, e⟩
/-- The exact product. -/
def Dy.mul (a b : Dy) : Dy := ⟨a.m * b.m, a.e + b.e⟩
/-- The negation. -/
def Dy.neg (a : Dy) : Dy := ⟨-a.m, a.e⟩
/-- Zero. -/
def Dy.zero : Dy := ⟨0, 0⟩

/-- The value of an FP32 pattern; what is not finite counts as 0. -/
def dyOf (x : F32) : Dy :=
  match dec32 x with
  | .fin n m e => ⟨sgn n m, e⟩
  | _ => .zero

/-- A score: a dyadic number rounded once by RN, saturating, −0 as +0 (R146). -/
def scoreOf (d : Dy) : F32 := posZero (satInf32 (mk32 (decide (d.m < 0)) (rnMag 23 8 d.m.natAbs d.e false)))

/-- A quotient of dyadic numbers rounded once by RN, saturating, −0 as +0. -/
def scoreQuot (a b : Dy) : F32 :=
  if b.m = 0 then 0
  else
    let k := 64 + bitLen b.m.natAbs
    let w := a.m.natAbs <<< k
    let q := w / b.m.natAbs
    posZero (satInf32 (mk32 (decide (a.m < 0) != decide (b.m < 0))
      (rnMag 23 8 q (a.e - b.e - k) (w % b.m.natAbs != 0))))

/-- The correctly rounded FP32 square root of a dyadic number that is not negative. -/
def sqrtDy (d : Dy) : F32 :=
  let m := d.m.natAbs
  if m = 0 then 0
  else
    let k := if d.e % 2 = 0 then 64 else 65
    let w := m <<< k
    let r := isqrtFrom (bitLen w / 2 + 1) w 0
    mk32 false (rnMag 23 8 r ((d.e - k) / 2) (r * r != w))

/-! ### Vectors in a pit's format -/

/-- A vector in a pit's format: its bytes, its scale and its norm (R139, R145). -/
structure QVec where
  bytes : List Byte
  scale : F32
  norm : F32
deriving DecidableEq, Repr

/-- The bytes of a vector (V of R137). -/
def vecBytes (p : PitSec) : Nat := if p.vecFormat = 2 then 2 * p.dim else p.dim

/-- The elements of a vector: the stored integers for INT8, the element values otherwise. -/
def vecElems (fmt : Nat) (bs : List Byte) : List Dy :=
  if fmt = 2 then
    (chunks bs.length 2 bs).map (fun c =>
      match decIeee 7 8 (leNat c) with
      | .fin n m e => ⟨sgn n m, e⟩
      | _ => .zero)
  else if fmt = 1 then
    bs.map (fun b =>
      match decElem .e4m3 (BitVec.ofNat 16 b.toNat) with
      | .fin n m e => ⟨sgn n m, e⟩
      | _ => .zero)
  else bs.map (fun b => ⟨b.toInt, 0⟩)

/-- Whether every element of a vector is finite (R172). -/
def vecFinite (fmt : Nat) (bs : List Byte) : Bool :=
  if fmt = 2 then
    (chunks bs.length 2 bs).all (fun c => (leNat c >>> 7) % 256 != 255)
  else if fmt = 1 then bs.all (fun b => b.toNat % 128 != 127)
  else true

/-- The exact sum of products of elements. -/
def dotDy (a b : List Dy) : Dy := (a.zip b).foldl (fun acc p => acc.add (p.1.mul p.2)) .zero

/-- The correctly rounded norm of a vector after scaling (R145, R172). -/
def vecNorm (fmt : Nat) (bs : List Byte) (scale : F32) : F32 :=
  let l := vecElems fmt bs
  let s := dyOf scale
  sqrtDy ((s.mul s).mul (dotDy l l))

/-- The integer nearest a quotient of dyadic numbers, ties to even. -/
def rneQuot (a b : Dy) : Int :=
  if b.m = 0 then 0
  else
    let e := a.e - b.e
    let n := if 0 ≤ e then a.m.natAbs <<< e.toNat else a.m.natAbs
    let d := if 0 ≤ e then b.m.natAbs else b.m.natAbs <<< (-e).toNat
    let q := n / d
    let r := n % d
    let q' := if d < 2 * r || (2 * r == d && q % 2 == 1) then q + 1 else q
    if decide (a.m < 0) != decide (b.m < 0) then -(q' : Int) else q'

/-- The query of FP32 values converted to a pit's format (R145). -/
def convertQuery (fmt : Nat) (xs : List F32) : QVec :=
  if fmt = 0 then
    let mx := xs.foldl (fun acc x => fmax acc (BitVec.ofNat 32 (x.toNat % 2 ^ 31))) 0
    let s := fdiv mx (intTo32 127)
    let q := xs.map (fun x =>
      if s = 0 then (0 : Byte) else BitVec.ofInt 8 (max (-127) (min 127 (rneQuot (dyOf x) (dyOf s)))))
    ⟨q, s, vecNorm 0 q s⟩
  else if fmt = 1 then
    let q := xs.map (fun x =>
      match dec32 x with
      | .fin n m e => BitVec.ofNat 8 (encSmall .e4m3 n m e).toNat
      | _ => 0)
    ⟨q, 0x3F800000, vecNorm 1 q 0x3F800000⟩
  else
    let el := fun (x : F32) => if (toBf x).toNat % 2 ^ 15 = 0x7F80 then Config.bfOver x else toBf x
    let q := (xs.map (fun x => leBytes 2 (el x).toNat)).flatten
    ⟨q, 0x3F800000, vecNorm 2 q 0x3F800000⟩

/-- A score that the spec leaves open, of a query whose norm rounds to infinity (log 97): any but the no-score code (R147). -/
def openScoreOf (q v : QVec) : F32 :=
  let x := Config.openScore q.bytes v.bytes
  if x = 0xFFFFFFFF then 0 else x

/-- The score of a query and a stored vector in one format (R146). -/
def vecScore (fmt metric : Nat) (q v : QVec) : F32 :=
  let a := vecElems fmt q.bytes
  let b := vecElems fmt v.bytes
  let sq := dyOf q.scale
  let sv := dyOf v.scale
  let d := (sq.mul sv).mul (dotDy a b)
  if metric = 0 then scoreOf d
  else if metric = 1 then
    (if isInf32 q.norm then openScoreOf q v
      else if posZero q.norm = 0 || posZero v.norm = 0 then 0 else scoreQuot d ((dyOf q.norm).mul (dyOf v.norm)))
  else
    let q2 := (sq.mul sq).mul (dotDy a a)
    let v2 := (sv.mul sv).mul (dotDy b b)
    scoreOf ((q2.add v2).add (Dy.mul ⟨-2, 0⟩ d)).neg

/-- The sign bits of a vector: true for a negative element (R146). -/
def signBits (fmt : Nat) (bs : List Byte) : List Bool :=
  if fmt = 2 then (chunks bs.length 2 bs).map (fun c => (leNat c).testBit 15)
  else bs.map (fun b => b.toNat.testBit 7)

/-- The sign-bit score of the upper walk: DIM − 2 × popcount of the difference (R146). -/
def signScore (a b : List Bool) : Int :=
  (a.length : Int) - 2 * (((a.zip b).filter (fun p => p.1 != p.2)).length : Int)

/-! ### The formula of Assay stage 1 -/

/-- One operation of a formula slot's TRANSFORM (R209, R210). -/
def transformOf (s : FSlot) (x : F32) : F32 :=
  if s.transform = 1 then flog2 (fadd 0x3F800000 (fmax x 0))
  else if s.transform = 2 then fmin (fmax x (bfTo32 s.lo)) (bfTo32 s.hi)
  else if s.transform = 3 then finv (fadd 0x3F800000 (fmax x 0))
  else x

/-- The source value of a slot. `pol` is the policy row where a policy ledger is bound; a PRODUCT without one has
no stated value and takes `open_` (log 17). -/
def sourceOf (s : FSlot) (score : F32) (feat : Nat → F32) (pol : Option (Nat → F32)) (open_ : F32) : F32 :=
  if s.source = 1 then score
  else if s.source = 2 then feat s.e
  else if s.source = 3 then
    match pol with
    | some p => fmul (feat s.e) (p s.f)
    | none => open_
  else 0x3F800000

/-- The stage-1 score of a candidate (R210). -/
def formulaScore (slots : List FSlot) (score : F32) (feat : Nat → F32) (pol : Option (Nat → F32)) (open_ : F32) : F32 :=
  slots.foldl (fun acc s =>
    if s.source = 0 then acc
    else
      let t := transformOf s (sourceOf s score feat pol open_)
      let w := match pol, s.w with
        | some p, some i => p i
        | _, _ => s.weight
      fadd acc (fmul w t)) 0

/-- An element of a row as FP32 (R192): the element format, the count of elements, and the row's bytes. -/
def rowElem (fmt elements : Nat) (row : List Byte) (i : Nat) : F32 :=
  if elements ≤ i then 0
  else if fmt = 0 then intTo32 (BitVec.ofNat 8 (fld row i 1)).toInt
  else if fmt = 1 then enc32 (decElem .e4m3 (BitVec.ofNat 16 (fld row i 1)))
  else if fmt = 2 then bfTo32 (BitVec.ofNat 16 (fld row (2 * i) 2))
  else if fmt = 3 then BitVec.ofNat 32 (fld row (4 * i) 4)
  else if fmt = 4 then intTo32 (BitVec.ofNat 32 (fld row (4 * i) 4)).toInt
  else intTo32 (BitVec.ofNat 64 (fld row (8 * i) 8)).toInt

/-- The bytes of an element of a format (R191). -/
def elemSize (fmt : Nat) : Nat :=
  if fmt = 0 || fmt = 1 then 1 else if fmt = 2 then 2 else if fmt = 5 then 8 else 4

/-- A row of deltas added to a row, element by element (R195), and whether a delta was dropped. -/
def scatterRow (fmt elements : Nat) (row deltas : List Byte) : List Byte × Bool :=
  let sz := elemSize fmt
  let n := row.length / sz
  let el := fun (l : List Byte) (i : Nat) => fld l (sz * i) sz
  let out := (List.range n).map (fun i =>
    if elements ≤ i then slice row (sz * i) sz
    else if fmt = 3 then leBytes 4 (fadd (BitVec.ofNat 32 (el row i)) (BitVec.ofNat 32 (el deltas i))).toNat
    else leBytes sz (el row i + el deltas i))
  let beyond := (List.range (deltas.length / sz)).any (fun i => decide (elements ≤ i) && el deltas i != 0)
  (out.flatten ++ row.drop (sz * n), beyond)

end Sys2Proof.Machine
end

