-- ==== Sys2Proof/Machine/Select.lean ====
section
/-! DEFINITION. The Selector's order, list selection and draw (R262 to R271) and Timber's automaton (R275 to R277),
as functions on data. -/

namespace Sys2Proof.Machine

/-! ### Order and list selection -/

/-- Whether an entry (score, index) comes before another: higher key, then lower index (R262). -/
def before (a b : F32 × Nat) : Bool :=
  decide (scoreKey b.1 < scoreKey a.1) || (scoreKey a.1 == scoreKey b.1 && decide (a.2 < b.2))

/-- The best `k` entries of a list under their score and index, and the tie count of the cut, at most 15 (R263). -/
def selectBest {α : Type} (key : α → F32 × Nat) (k : Nat) (l : List α) : List α × Nat :=
  let s := sortBy (fun a b => before (key a) (key b)) l
  let kept := s.take k
  match kept.getLast? with
  | none => (kept, 0)
  | some e => (kept, (((s.drop k).take 15).filter
      (fun a => scoreKey (key a).1 == scoreKey (key e).1)).length)

/-! ### The random stream (R269) -/

/-- One round of Philox 4x32 (log 6). -/
def philoxRound (k0 k1 : W32) (c : W32 × W32 × W32 × W32) : W32 × W32 × W32 × W32 :=
  let (c0, c1, c2, c3) := c
  let p0 := 0xD2511F53 * c0.toNat
  let p1 := 0xCD9E8D57 * c2.toNat
  let hi := fun (p : Nat) => BitVec.ofNat 32 (p / 2 ^ 32)
  let lo := fun (p : Nat) => BitVec.ofNat 32 p
  (hi p1 ^^^ c1 ^^^ k0, lo p1, hi p0 ^^^ c3 ^^^ k1, lo p0)

/-- `n` rounds with the key schedule. -/
def philoxRounds (n : Nat) (k0 k1 : W32) (c : W32 × W32 × W32 × W32) : W32 × W32 × W32 × W32 :=
  match n with
  | 0 => c
  | n + 1 => philoxRounds n (k0 + 0x9E3779B9) (k1 + 0xBB67AE85) (philoxRound k0 k1 c)

/-- The 64-bit value r of the draw for a generated-token index under a request's SEED (R269). -/
def drawRandom (seed : W64) (g : Nat) : Nat :=
  let k0 := BitVec.ofNat 32 seed.toNat
  let k1 := BitVec.ofNat 32 (seed.toNat / 2 ^ 32)
  let (x0, x1, _, _) := philoxRounds 10 k0 k1 (BitVec.ofNat 32 g, 0, 1, 0)
  x1.toNat * 2 ^ 32 + x0.toNat

/-! ### The draw (R264 to R268) -/

/-- The parameters of a GENERATE draw (R264, 10). -/
structure DrawParams where
  temperature : F32
  topK : Nat
  topP : F32
  minP : F32
  repetition : F32
  presence : F32
  frequency : F32
  countPrompt : Bool
deriving DecidableEq, Repr

/-- What a draw gives: the token, or none with the DETAIL of a dead end (R278); the NaN logits removed; whether
the prefix was capped and a top-k tie split; the two masses and the final set with its weights, in ascending ID (R268,
R446). -/
structure DrawRes where
  tok : Option Nat
  detail : Nat
  nans : Nat
  capped : Bool
  tie : Bool
  selMass : Nat
  leftMass : Nat
  final : List (Nat × Nat)
deriving DecidableEq, Repr

/-- Penalties on one logit, given its count (R265). -/
def penalize (p : DrawParams) (c : Nat) (x : F32) : F32 :=
  if c = 0 then x
  else
    let pos := !isNeg32 x && x != 0
    let a := satInf32 (if pos then fdiv x p.repetition else fmul x p.repetition)
    let b := satInf32 (fsub a (satInf32 (fmul p.frequency (intTo32 c))))
    satInf32 (fsub b p.presence)

/-- Whether num / 2^64-free sums reach a FP32 fraction of a mass: sum ≥ f × z, compared exactly (R268). -/
def reaches (f : F32) (sum z : Nat) : Bool :=
  match dec32 f with
  | .fin false m e => if 0 ≤ e then decide ((m <<< e.toNat) * z ≤ sum) else decide (m * z ≤ sum <<< (-e).toNat)
  | _ => true

/-- The shortest prefix of weighted tokens that reaches a fraction of a mass, never empty. -/
def topPrefix (f : F32) (z acc : Nat) (l : List (Nat × F32 × Nat)) : List (Nat × F32 × Nat) :=
  match l with
  | [] => []
  | a :: r => if reaches f (acc + a.2.2) z then [a] else a :: topPrefix f z (acc + a.2.2) r

/-- The first token, in the order given, whose running sum exceeds a target (R269). -/
def pickAt (t acc : Nat) (l : List (Nat × F32 × Nat)) : Option Nat :=
  match l with
  | [] => none
  | a :: r => if t < acc + a.2.2 then some a.1 else pickAt t (acc + a.2.2) r

/-- A draw at a generated-token index over the logits, one FP32 a token (R264). `allowed` is Timber's mask;
`counts` gives GEN_COUNT and PROMPT_COUNT of an entered token. -/
def draw (p : DrawParams) (seed : W64) (g : Nat) (allowed : Nat → Bool) (counts : AMap (Nat × Nat))
    (logits : List F32) : DrawRes :=
  let toks := (List.range logits.length).zip logits
  let open_ := toks.filter (fun t => allowed t.1)
  let good := open_.filter (fun t => !isNan32 t.2)
  let nans := open_.length - good.length
  let pen := good.map (fun t =>
    let c := kgetD counts t.1 (0, 0)
    (t.1, penalize p (c.1 + (if p.countPrompt then c.2 else 0)) (satInf32 t.2)))
  let ord := sortBy (fun (a b : Nat × F32) => before (a.2, a.1) (b.2, b.1)) pen
  match ord with
  | [] => ⟨none, if open_.isEmpty then 0 else 1, nans, false, false, 0, 0, []⟩
  | best :: _ =>
    if posZero p.temperature = 0 then ⟨some best.1, 0, nans, false, false, 2 ^ 40, 0, [(best.1, 2 ^ 40)]⟩
    else
      let sc := pen.map (fun t => (t.1, satInf32 (fdiv t.2 p.temperature)))
      let so := sortBy (fun (a b : Nat × F32) => before (a.2, a.1) (b.2, b.1)) sc
      let m := (so.headD best).2
      let w := so.map (fun t => (t.1, t.2, floorScaled (fexp (fsub t.2 m)) 40))
      let sum := fun (l : List (Nat × F32 × Nat)) => l.foldl (fun acc a => acc + a.2.2) 0
      let all := sum w
      let k := if p.topK = 0 then w else w.take p.topK
      let tie := p.topK != 0 &&
        (match k.getLast?, w.drop p.topK with
          | some a, b :: _ => scoreKey a.2.1 == scoreKey b.2.1
          | _, _ => false)
      let z := sum k
      let full := flt p.topP 0x3F800000
      let win := if full then k.take 2048 else k
      let capped := full && decide (2048 < k.length) && !reaches p.topP (sum win) z
      let tp := if full then topPrefix p.topP z 0 win else k
      let mp := if posZero p.minP = 0 then tp
        else (tp.take 1) ++ (tp.drop 1).filter (fun a => reaches p.minP a.2.2 (2 ^ 40))
      let f := sum mp
      let byId := sortBy (fun (a b : Nat × F32 × Nat) => decide (a.1 < b.1)) mp
      ⟨pickAt (drawRandom seed g * f / 2 ^ 64) 0 byId, 0, nans, capped, tie, f, all - f,
        byId.map (fun a => (a.1, a.2.2))⟩

/-- Whether draw parameters are legal (R271). -/
def drawParamsOk (p : DrawParams) : Bool :=
  let fin := fun (x : F32) => !isNan32 x && !isInf32 x
  let unit := fun (x : F32) => fin x && (posZero x == 0 || (!isNeg32 x && !flt 0x3F800000 x))
  fin p.temperature && (posZero p.temperature == 0 || !isNeg32 p.temperature) &&
    unit p.topP && unit p.minP &&
    fin p.repetition && posZero p.repetition != 0 && !isNeg32 p.repetition &&
    fin p.presence && fin p.frequency && decide (p.topK ≤ 2048)

/-! ### Timber -/

/-- Timber's state of a request: the state and the stack, top first (R260). -/
structure TimberSt where
  q : Nat
  stack : List Nat
deriving DecidableEq, Repr

/-- The class of a token. -/
def tokClass (g : GrammarSec) (t : Nat) : Nat := g.classMap.getD t 0

/-- Whether an edge can be taken with a stack: its TOP holds and its OP can be carried out (R275). -/
def edgeFits (g : GrammarSec) (e : GEdge) (stack : List Nat) : Bool :=
  let top := match stack with
    | [] => e.top == 0xFE || e.top == 0xFF
    | x :: _ => e.top == 0xFF || e.top == x
  let op := if e.op = 1 then decide (stack.length < g.maxDepth)
    else if e.op = 0 then true else !stack.isEmpty
  top && op

/-- The edges of a state. -/
def stateEdges (g : GrammarSec) (q : Nat) : List GEdge :=
  match g.states[q]? with
  | none => []
  | some st => (g.edges.drop st.first).take st.count

/-- The edge a token takes in a state, if any (R275). -/
def edgeFor (g : GrammarSec) (t : TimberSt) (tok : Nat) : Option GEdge :=
  let c := tokClass g tok
  if c = 0 then none
  else (stateEdges g t.q).find? (fun e => e.cls == c && edgeFits g e t.stack)

/-- Whether EOS is allowed (R275). -/
def eosAllowed (g : GrammarSec) (t : TimberSt) : Bool :=
  t.stack.isEmpty && (match g.states[t.q]? with
    | none => false
    | some st => st.accept)

/-- The mask of a position: whether a token is allowed (R275, R276). -/
def timberAllows (g : GrammarSec) (eos : Nat) (t : TimberSt) (tok : Nat) : Bool :=
  if tok = eos then eosAllowed g t else (edgeFor g t tok).isSome

/-- Timber's state after a token; a token without an edge leaves no state. -/
def timberAdvance (g : GrammarSec) (t : TimberSt) (tok : Nat) : Option TimberSt :=
  (edgeFor g t tok).map (fun e =>
    let st := if e.op = 1 then e.symbol :: t.stack
      else if e.op = 2 then t.stack.drop 1
      else if e.op = 3 then e.symbol :: t.stack.drop 1
      else t.stack
    ⟨e.next, st⟩)

end Sys2Proof.Machine
end

