-- ==== Sys2Proof/Machine/Text.lean ====
section
/-! DEFINITION. What the Crusher computes (05), as functions on data: UTF-8 assembly, pre-split, merges,
truncation, detokenizing, stop strings and the cut of text into records. -/

namespace Sys2Proof.Machine

/-! ### UTF-8 assembly (R114, R115) -/

/-- A unit of a byte stream: a well-formed character with its bytes, or a maximal invalid subpart. -/
inductive U8 where
  | ch (cp : Nat) (bs : List Byte)
  | bad (bs : List Byte)
deriving DecidableEq, Repr

/-- What a lead byte needs: how many bytes follow, the range of the second, and the bits it carries. -/
def u8Lead (b : Nat) : Option (Nat × Nat × Nat × Nat) :=
  if b < 0x80 then some (0, 0, 0, b)
  else if 0xC2 ≤ b && b ≤ 0xDF then some (1, 0x80, 0xBF, b % 32)
  else if b = 0xE0 then some (2, 0xA0, 0xBF, 0)
  else if b = 0xED then some (2, 0x80, 0x9F, 13)
  else if 0xE1 ≤ b && b ≤ 0xEF then some (2, 0x80, 0xBF, b % 16)
  else if b = 0xF0 then some (3, 0x90, 0xBF, 0)
  else if 0xF1 ≤ b && b ≤ 0xF3 then some (3, 0x80, 0xBF, b % 8)
  else if b = 0xF4 then some (3, 0x80, 0x8F, 4)
  else none

/-- The continuation bytes taken after a lead: how many, the range of the next, what was taken and its value. -/
def u8Cont (need lo hi : Nat) (cp : Nat) (taken rest : List Byte) : Option (Nat × List Byte × List Byte) ⊕ (List Byte × List Byte) :=
  match need, rest with
  | 0, rest => .inl (some (cp, taken, rest))
  | _ + 1, [] => .inl none
  | need + 1, b :: r =>
    if lo ≤ b.toNat && b.toNat ≤ hi then u8Cont need 0x80 0xBF (cp * 64 + b.toNat % 64) (taken ++ [b]) r
    else .inr (taken, b :: r)

/-- The first unit of a stream and the bytes after it; `none` when the bytes are incomplete and may continue. -/
def u8One (eof : Bool) (bs : List Byte) : Option (U8 × List Byte) :=
  match bs with
  | [] => none
  | b :: r =>
    match u8Lead b.toNat with
    | none => some (.bad [b], r)
    | some (need, lo, hi, cp) =>
      match u8Cont need lo hi cp [b] r with
      | .inl (some (c, t, rest)) => some (.ch c t, rest)
      | .inl none => if eof then some (.bad (b :: r), []) else none
      | .inr (t, rest) => some (.bad t, rest)

/-- The units of a stream, with the bytes that carry over (R114); `fuel` bounds their number. -/
def u8All (fuel : Nat) (eof : Bool) (bs : List Byte) : List U8 × List Byte :=
  match fuel with
  | 0 => ([], bs)
  | fuel + 1 =>
    match u8One eof bs with
    | none => ([], bs)
    | some (u, rest) =>
      let (us, c) := u8All fuel eof rest
      (u :: us, c)

/-- The units of a whole buffer. -/
def u8Units (eof : Bool) (bs : List Byte) : List U8 × List Byte := u8All (bs.length + 1) eof bs

/-- The bytes of U+FFFD. -/
def fffd : List Byte := [0xEF, 0xBF, 0xBD]

/-- The number of invalid subparts among units. -/
def badCount (us : List U8) : Nat :=
  (us.filter (fun u => match u with
    | .bad _ => true
    | _ => false)).length

/-- Whether bytes are well-formed UTF-8. -/
def utf8Ok (bs : List Byte) : Bool :=
  let (us, _) := u8Units true bs
  badCount us == 0

/-! ### Pre-split (R118, R119) -/

/-- The class of a code point in a CLASSES section. -/
def charClass (c : ClassesSec) (cp : Nat) : Nat :=
  let page := c.pageIndex.getD (cp / 256) 0
  let b := (c.pages.getD (128 * page + cp % 256 / 2) 0).toNat
  if cp % 2 = 0 then b % 16 else b / 16

/-- A piece of input: text to merge, or byte-fallback bytes. -/
inductive Piece where
  | text (bs : List Byte)
  | bytes (bs : List Byte)
deriving DecidableEq, Repr

/-- Whether a boundary lies between two characters (R119); without CLASSES every pair joins. -/
def splitBetween (c : Option ClassesSec) (x y : Nat) : Bool :=
  match c with
  | none => false
  | some c => c.matrix.getD (16 * charClass c x + charClass c y) 0 == 1

/-- The pieces of a sequence of units; `cur` is the piece being formed with its last character. -/
def piecesOf (c : Option ClassesSec) (mx : Nat) (fallback : Bool) (cur : Option (List Byte × Nat)) (us : List U8) :
    List Piece :=
  let flush := match cur with
    | none => []
    | some (b, _) => [Piece.text b]
  match us with
  | [] => flush
  | u :: r =>
    let step := fun (cp : Nat) (bs : List Byte) =>
      match cur with
      | none => piecesOf c mx fallback (some (bs, cp)) r
      | some (b, last) =>
        if splitBetween c last cp || decide (mx < b.length + bs.length) then
          .text b :: piecesOf c mx fallback (some (bs, cp)) r
        else piecesOf c mx fallback (some (b ++ bs, cp)) r
    match u with
    | .ch cp bs => step cp bs
    | .bad bs => if fallback then flush ++ .bytes bs :: piecesOf c mx fallback none r else step 0xFFFD fffd

/-! ### Merges (R123, R125) -/

/-- The probe of a merge table from a slot, for at most `fuel` slots. -/
def mergeProbe (m : MergesSec) (a b : Nat) (fuel slot : Nat) : Option Nat :=
  match fuel with
  | 0 => none
  | fuel + 1 =>
    match kget m.table slot with
    | none => none
    | some e => if e.left = a && e.right = b then some e.result else mergeProbe m a b fuel ((slot + 1) % m.slots)

/-- The home slot of a pair (R123). -/
def mergeHome (slots a b : Nat) : Nat :=
  ((a * 2 ^ 18 + b) * 0x9E3779B97F4A7C15 % 2 ^ 64) >>> (64 - Nat.log2 slots)

/-- The token a pair merges into, if any (R123). -/
def mergeLookup (m : MergesSec) (a b : Nat) : Option Nat := mergeProbe m a b m.slots (mergeHome m.slots a b)

/-- The rank of a token. -/
def tokRank (v : VocabSec) (t : Nat) : Nat :=
  match v.toks[t]? with
  | none => 0x3FFFF
  | some e => e.rank

/-- The best merge of a sequence: lowest rank, leftmost among equals, with its place and its result. -/
def bestMerge (v : VocabSec) (m : MergesSec) (i : Nat) (best : Option (Nat × Nat)) (l : List Nat) : Option (Nat × Nat) :=
  match l with
  | a :: b :: r =>
    let best' := match mergeLookup m a b with
      | none => best
      | some t =>
        match best with
        | none => some (i, t)
        | some (_, bt) => if tokRank v t < tokRank v bt then some (i, t) else best
    bestMerge v m (i + 1) best' (b :: r)
  | _ => best

/-- Merges applied until none is left; each shortens the sequence, so its length bounds their number. -/
def mergeAll (v : VocabSec) (m : MergesSec) (fuel : Nat) (l : List Nat) : List Nat :=
  match fuel with
  | 0 => l
  | fuel + 1 =>
    match bestMerge v m 0 none l with
    | none => l
    | some (i, t) => mergeAll v m fuel (l.take i ++ t :: l.drop (i + 2))

/-- The tokens of a piece (R116, R125); without MERGES the byte tokens (R119). -/
def pieceTokens (v : VocabSec) (m : Option MergesSec) (p : Piece) : List Nat :=
  match p with
  | .bytes bs => bs.map (fun b => v.byteBase + b.toNat)
  | .text bs =>
    let l := bs.map (fun b => v.byteBase + b.toNat)
    match m with
    | none => l
    | some m => mergeAll v m l.length l

/-- The tokens of a whole input and the invalid subparts seen (R111 to R125). -/
def tokenize (v : VocabSec) (m : Option MergesSec) (c : Option ClassesSec) (fallback : Bool) (input : List Byte) :
    List Nat × Nat :=
  let (us, _) := u8Units true input
  let mx := match c with
    | none => 256
    | some c => c.maxPiece
  (((piecesOf c mx fallback none us).map (pieceTokens v m)).flatten, badCount us)

/-- The cut of R126: the tokens kept and whether any was dropped. -/
def truncTokens (limit head : Nat) (ts : List Nat) : List Nat × Bool :=
  let n := ts.length
  if limit < n then
    let h := min head limit
    (ts.take h ++ ts.drop (n - (limit - h)), true)
  else (ts, false)

/-! ### Detokenizing (R127 to R132) -/

/-- The detokenizing state of a request (R109): bytes carried over, characters held, and the stop string that
ended the output. -/
structure Detok where
  carry : List Byte
  held : List (List Byte)
  stop : Option Nat
deriving DecidableEq, Repr

/-- Nothing carried, nothing held. -/
def Detok.empty : Detok := ⟨[], [], none⟩

/-- Whether one byte string ends another. -/
def endsWith (u s : List Byte) : Bool := decide (s.length ≤ u.length) && u.drop (u.length - s.length) == s

/-- Whether one byte string is a proper beginning of another. -/
def properStart (p s : List Byte) : Bool := decide (p.length < s.length) && s.take p.length == p

/-- The stop strings, numbered, that end the held text; the longest first, the lowest index among equals (R129). -/
def stopHit (stops : List (List Byte)) (u : List Byte) : Option (Nat × Nat) :=
  let hits := ((List.range stops.length).zip stops).filter (fun s => endsWith u s.2)
  (leastBy (fun (a b : Nat × List Byte) => decide (b.2.length < a.2.length)) hits).map (fun h => (h.1, h.2.length))

/-- The characters kept back: the longest suffix that is a proper prefix of a stop string (R128). -/
def keepBack (stops : List (List Byte)) (u : List (List Byte)) : List (List Byte) :=
  match u with
  | [] => []
  | c :: r => if stops.any (fun s => properStart (c :: r).flatten s) then c :: r else keepBack stops r

/-- The characters of `u` whose bytes lie within the first `n`. -/
def takeBytes (n : Nat) (u : List (List Byte)) : List (List Byte) :=
  match u with
  | [] => []
  | c :: r => if c.length ≤ n then c :: takeBytes (n - c.length) r else []

/-- One character appended: the state and the characters released (R128, R129). -/
def detokChar (stops : List (List Byte)) (incl : Bool) (d : Detok) (c : List Byte) : Detok × List (List Byte) :=
  if d.stop.isSome then (d, [])
  else
    let u := d.held ++ [c]
    match stopHit stops u.flatten with
    | some (i, n) =>
      (⟨[], [], some i⟩, if incl then u else takeBytes (u.flatten.length - n) u)
    | none =>
      let keep := keepBack stops u
      ({ d with held := keep }, u.take (u.length - keep.length))

/-- A unit as a character: an invalid subpart is U+FFFD (R116). -/
def unitChar (u : U8) : List Byte :=
  match u with
  | .ch _ bs => bs
  | .bad _ => fffd

/-- The invalid subparts of a unit. -/
def unitBad (u : U8) : Nat :=
  match u with
  | .ch .. => 0
  | .bad _ => 1

/-- Units appended in order until a stop string completes: the state, the characters released and the invalid
subparts replaced (log 78). -/
def detokUnits (stops : List (List Byte)) (incl : Bool) (d : Detok) (us : List U8) :
    Detok × List (List Byte) × Nat :=
  match us with
  | [] => (d, [], 0)
  | u :: r =>
    if d.stop.isSome then (d, [], 0)
    else
      let (d1, o1) := detokChar stops incl d (unitChar u)
      let (d2, o2, n2) := detokUnits stops incl d1 r
      (d2, o1 ++ o2, unitBad u + n2)

/-- The bytes a token renders (R127); EOS renders nothing. -/
def tokText (v : VocabSec) (t : Nat) : List Byte :=
  if t = v.eos then []
  else
    match v.toks[t]? with
    | none => []
    | some e => if e.special && !e.render then [] else e.str

/-- One token appended: the state, the characters released and the invalid subparts seen. -/
def detokToken (v : VocabSec) (stops : List (List Byte)) (incl : Bool) (d : Detok) (t : Nat) :
    Detok × List (List Byte) × Nat :=
  if d.stop.isSome then (d, [], 0)
  else
    let (us, c) := u8Units false (d.carry ++ tokText v t)
    detokUnits stops incl { d with carry := c } us

/-- Tokens appended in order. -/
def detokTokens (v : VocabSec) (stops : List (List Byte)) (incl : Bool) (d : Detok) (ts : List Nat) :
    Detok × List (List Byte) × Nat :=
  match ts with
  | [] => (d, [], 0)
  | t :: r =>
    let (d1, o1, n1) := detokToken v stops incl d t
    let (d2, o2, n2) := detokTokens v stops incl d1 r
    (d2, o1 ++ o2, n1 + n2)

/-- What the end of a request by EOS or MAX_TOKENS releases: the held text, and the carried bytes as U+FFFD (R131);
and the invalid subparts replaced. -/
def detokFlush (d : Detok) : List (List Byte) × Nat :=
  let (us, _) := u8Units true d.carry
  (d.held ++ us.map unitChar, badCount us)

/-- Text cut into records of at most 96 bytes that divide no character (R132), filled in order (log 16). -/
def cutRecords (cur : List Byte) (cs : List (List Byte)) : List (List Byte) :=
  match cs with
  | [] => [cur]
  | c :: r => if cur.length + c.length ≤ 96 then cutRecords (cur ++ c) r else cur :: cutRecords c r

/-! ### The SRAM lines that a step reads (R110, R418)

A line is 128 bytes of a section: (0 VOCAB, 1 MERGES, 2 CLASSES; line). -/

/-- The slots that a look-up of a pair probes (R123). -/
def probeSlots (m : MergesSec) (a b : Nat) (fuel slot : Nat) : List Nat :=
  match fuel with
  | 0 => []
  | fuel + 1 =>
    match kget m.table slot with
    | none => [slot]
    | some e => if e.left = a && e.right = b then [slot] else slot :: probeSlots m a b fuel ((slot + 1) % m.slots)

/-- The lines that one look for the best merge of a sequence reads: the slots probed, and the ranks of what they give. -/
def mergeLines (m : MergesSec) (l : List Nat) : List (Nat × Nat) :=
  match l with
  | a :: b :: r =>
    (probeSlots m a b m.slots (mergeHome m.slots a b)).map (fun k => (1, (64 + 8 * k) / 128)) ++
      ((mergeLookup m a b).map (fun t => (0, (64 + 8 * t) / 128))).toList ++ mergeLines m (b :: r)
  | _ => []

/-- The lines that the merging of a piece reads. -/
def mergeAllLines (v : VocabSec) (m : MergesSec) (fuel : Nat) (l : List Nat) : List (Nat × Nat) :=
  match fuel with
  | 0 => []
  | fuel + 1 =>
    mergeLines m l ++ (match bestMerge v m 0 none l with
      | none => []
      | some (i, t) => mergeAllLines v m fuel (l.take i ++ t :: l.drop (i + 2)))

/-- The lines of CLASSES that a character's class, and its pair with another, are read from (R118). -/
def classLines (c : ClassesSec) (x y : Nat) : List (Nat × Nat) :=
  [(2, 0), (2, (320 + 2 * (y / 256)) / 128), (2, (9024 + 128 * c.pageIndex.getD (y / 256) 0 + y % 256 / 2) / 128),
   (2, (64 + 16 * charClass c x + charClass c y) / 128)]

/-- The lines that the tokenizing of an input reads (R119, R125). -/
def tokenizeLines (v : VocabSec) (m : Option MergesSec) (c : Option ClassesSec) (fallback : Bool) (input : List Byte) :
    List (Nat × Nat) :=
  let (us, _) := u8Units true input
  let cps := us.filterMap (fun u => match u with
    | .ch cp _ => some cp
    | .bad _ => if fallback then none else some 0xFFFD)
  let mx := match c with
    | none => 256
    | some c => c.maxPiece
  (if us.isEmpty then [] else [(0, 0)]) ++
  (match c with
    | none => []
    | some c => ((cps.zip (cps.take 1 ++ cps)).map (fun p => classLines c p.2 p.1)).flatten) ++
  (match m with
    | none => []
    | some m => ((piecesOf c mx fallback none us).map (fun p => match p with
        | .bytes _ => []
        | .text bs => (1, 0) :: mergeAllLines v m bs.length (bs.map (fun b => v.byteBase + b.toNat)))).flatten)

/-- The lines of bytes `a` up to but not at `b` of a VOCAB section. -/
def vocabLines (a b : Nat) : List (Nat × Nat) :=
  if b ≤ a then [] else (List.range ((b - 1) / 128 + 1 - a / 128)).map (fun i => (0, a / 128 + i))

/-- The lines that the rendering of tokens reads: the header, each token's entry and its string. -/
def detokLines (v : VocabSec) (ts : List Nat) : List (Nat × Nat) :=
  let area := 64 + 8 * v.toks.length
  (0, 0) :: (ts.map (fun t => (0, (64 + 8 * t) / 128) :: (match v.toks[t]? with
    | none => []
    | some e => vocabLines (area + e.off) (area + e.off + (tokText v t).length)))).flatten

/-- The lines of a stop set (R120, R122). -/
def stopLines (v : VocabSec) (k : Nat) : List (Nat × Nat) :=
  let a := 64 + 8 * v.toks.length + roundUp v.strBytes 64 + 1088 * k
  if k < v.stopsets.length then vocabLines a (a + 1088) else []

end Sys2Proof.Machine
end

