-- ==== Sys2Proof/Machine/PartsWork.lean ====
section
/-! DEFINITION. The state of request slots and of the work a request does: recipes, searches, packing and
generation (04, 05, 06, 09, 10, 11). -/

namespace Sys2Proof.Machine

/-- An entry of a retrieved list (R158), with the slot of the node's primary record where this module holds it. -/
structure ListEnt where
  handle : Nat
  score : F32
  chan : Nat
  slot : Nat
  module : Nat
deriving DecidableEq, Repr

/-- A retrieved list (R157, R158): K, the entries, the search flags, the epoch and the counts of its header. -/
structure RList where
  k : Nat
  ents : List ListEnt
  flags : Nat
  epoch : Nat
  ties : Nat
  dups : Nat
  visited : Nat
deriving DecidableEq, Repr

/-- A location of a node record (R140): primary channel and slot, and the replica if there is one. -/
structure Loc where
  chan : Nat
  slot : Nat
  alt : Option (Nat × Nat)
deriving DecidableEq, Repr

/-- An entry of a strand's list (R151): the location, its score or estimate, and whether it is resolved and
expanded. An initial entry's estimate is above every score. -/
structure WalkEnt where
  loc : Loc
  est : F32
  initial : Bool
  resolved : Bool
  expanded : Bool
deriving DecidableEq, Repr

/-- A strand (R149 to R155). `waiting` while it waits in its buffer for a place on its engine; `filter` holds the
bits of the visited filter that are set. -/
structure Strand where
  engine : Nat
  waiting : Bool
  list : List WalkEnt
  results : List ListEnt
  filter : List Nat
  visits : Nat
  done : Bool
  hit : Bool
deriving DecidableEq, Repr

/-- Who asked for a search: a request's step, or a peer's QUERY (R392). -/
inductive SearchOwner where
  | request (slot step : Nat)
  | peer (claim link src home handle : Nat) (peerSeq : Nat)
deriving DecidableEq, Repr

/-- A search (R148 to R162). `kind` is 0 a walk, 1 a label scan, 2 a FLAT_SCAN; `scans` are the channels a scan has
still to read, `scanOn` those where a FLAT_SCAN has a place of the engine; `shards` are the peers whose list has not come. -/
structure Search where
  owner : SearchOwner
  claim : Nat
  pit : Nat
  epoch : Nat
  query : QVec
  k : Nat
  beam : Nat
  nStrands : Nat
  width : Nat
  limit : Nat
  label : Option Nat
  budget : Nat
  flat : Bool
  started : Bool := false
  kind : Nat := 0
  buffers : Nat := 0
  strands : List Strand := []
  scans : List Nat := []
  scanOn : List Nat := []
  scanLists : List (List ListEnt) := []
  scanVisits : Nat := 0
  shards : List Nat := []
  shardLists : List (List ListEnt) := []
  shardVisits : Nat := 0
  shardFlags : Nat := 0
  shardDups : Nat := 0
deriving DecidableEq, Repr

/-- The fields of a request's descriptor (R90, R91). -/
structure ReqDesc where
  streamBase : Nat := 0
  streamLines : Nat := 0
  noSpec : Bool := false
  inputAddr : Nat := 0
  inputBytes : Nat := 0
  maxNew : Nat := 0
  seed : W64 := 0
  historyAddr : Nat := 0
  historyTokens : Nat := 0
  label : Option Nat := none
  resultAddr : Nat := 0
  resultBytes : Nat := 0
  filterBudget : Nat := 0
  k : Nat := 0
  beam : Nat := 0
deriving DecidableEq, Repr

/-- What admission bound (R100): the recipe with its PARAM words taken, its templates and grammar, the adapter
version, the prefix and its length, the pit and its epoch. -/
structure ReqBind where
  recipeNo : Option Nat := none
  recipe : Option RecipeSec := none
  templates : AMap TemplateSec := []
  grammar : Option GrammarSec := none
  /-- the number and the version of that grammar (R279) -/
  grammarVer : Nat × Nat := (0, 0)
  adapter : Option Nat := none
  pfx : Option Nat := none
  pfxLen : Nat := 0
  pit : Option Nat := none
  epoch : Nat := 0
  order : Nat := 0
deriving DecidableEq, Repr

/-- What the completion record reports (R78, R93, R94), beside the status. -/
structure ReqOut where
  flags : Nat := 0
  detail : Nat := 0
  tokensIn : Nat := 0
  tokensOut : Nat := 0
  passages : Nat := 0
  ties : Nat := 0
  visited : Nat := 0
  dups : Nat := 0
  invalid : Nat := 0
  accepted : Nat := 0
  short : Bool := false
deriving DecidableEq, Repr

/-- A batch of committed tokens on its way through the Crusher (R128); `last` when it ends the output. -/
structure Batch where
  first : Nat
  toks : List Nat
  last : Bool
deriving DecidableEq, Repr

/-- Generation of a request (R238 to R251, R258): the prompt, the reservation, the committed lengths of both models, the
generated tokens, the count table, Timber, the attention output last merged, the position up to which the pass under way has written
the KV of a layer (R244), the batches on their way, and how it ended:
0 EOS, 1 stop string, 2 MAX_TOKENS, 3 LENGTH_LIMIT, 4 dead end, with DETAIL. -/
structure ReqGen where
  prompt : List Nat := []
  resvAsked : Option Nat := none
  resv : Nat := 0
  granted : Bool := false
  prefilled : Nat := 0
  committed : Nat := 0
  draftCommitted : Nat := 0
  toks : List Nat := []
  counts : AMap (Nat × Nat) := []
  timber : Option TimberSt := none
  attn : List F32 := []
  kvDone : AMap Nat := []
  batches : List Batch := []
  ended : Option (Nat × Nat) := none
deriving DecidableEq, Repr

/-- A TEXT record that a stream shaper or a full ring holds (R81, R374): its text, tokens and first token. -/
structure TextRec where
  text : List Byte
  tokens : Nat
  first : Nat
deriving DecidableEq, Repr

/-- A request's token stream (R79 to R83): its detokenizing state, the records written and held, HEAD, the tokens
taken whose records are not written, and the END record: 0 not due, 1 due, 2 written. -/
structure ReqStream where
  detok : Detok := Detok.empty
  w : W32 := 0
  head : W32 := 0
  held : List TextRec := []
  granted : Bool := false
  endSt : Nat := 0
deriving DecidableEq, Repr

/-- A ledger row as a step holds it (R191, R207): ELEM_FORMAT, ELEMENTS and its bytes. -/
structure FeatRow where
  fmt : Nat
  elements : Nat
  bytes : List Byte
deriving DecidableEq, Repr

/-- One step of a request: 0 waiting for its dependencies, 1 issued, 2 complete; its staging group and the bytes it takes of
it (R304), held until its results have been consumed; the tokens, the vector, the list, the feature rows by handle and the
policy row it produced. -/
structure StepSt where
  st : Nat := 0
  staging : Option Nat := none
  bytes : Nat := 0
  tokens : List Nat := []
  vec : List F32 := []
  list : Option RList := none
  feats : AMap FeatRow := []
  pol : Option FeatRow := none
deriving DecidableEq, Repr

/-- A request in its slot (R96 to R98). `commit` is the status once committed, `released` once its resources are
released (step 3 of R97); `cur` is the current retrieved list (R105). `tail` are the records of commands that wait for its record (R106, R447). -/
structure Req where
  claim : Nat
  tenant : Nat
  opcode : Nat
  origin : Origin
  desc : ReqDesc
  bind : ReqBind
  steps : List StepSt
  out : ReqOut := {}
  gen : ReqGen := {}
  stream : ReqStream := {}
  commit : Option Nat := none
  released : Bool := false
  cur : Option RList := none
  tail : List CplRec := []
deriving DecidableEq, Repr

/-- A request slot (R96): its generation and its occupant. A slot not listed is FREE with generation 0. -/
structure Slot where
  gen : BitVec 16 := 0
  occ : Option Req := none
deriving DecidableEq, Repr

/-- A prefix (R219 to R224). -/
structure PrefixRec where
  claim : Nat
  tenant : Nat
  model : Nat
  len : Nat
  adapter : Option Nat
  refs : Nat
  released : Bool
deriving DecidableEq, Repr

/-- An adapter version slot (R254): its generation, and the version in it. -/
structure AdapterVer where
  claim : Nat
  tenant : Nat
  model : Nat
  rank : Nat
  source : Nat
  bytes : Nat
  header : List Byte := []
  current : Bool
  refs : Nat
deriving DecidableEq, Repr

/-- An adapter slot. -/
structure AdapterSlot where
  gen : BitVec 18 := 0
  ver : Option AdapterVer := none
deriving DecidableEq, Repr

/-- Drift's registers (06). -/
structure DriftState where
  /-- DR_ENG_COUNT: records and hand-offs of each engine -/
  records : AMap Nat := []
  handoffs : AMap Nat := []
  /-- DR_ERR of each seam die: the count and the W1C bits -/
  unreadable : List Nat := [0, 0, 0, 0]
  err : List (BitVec 3) := [0, 0, 0, 0]
  /-- DR_XBAR.PEAK -/
  peak : List Nat := [0, 0, 0, 0]
  /-- the searches, and the number of the next -/
  searches : AMap Search := []
  next : Nat := 0
deriving DecidableEq, Repr

/-- Crusher's, Packer's, Assay's, Selector's and Timber's registers (05, 08, 09, 11). -/
structure EngineState where
  /-- CR_COUNTS, CR_ERR -/
  crInvalid : Nat := 0
  crTrunc : Nat := 0
  crStops : Nat := 0
  crCe : Nat := 0
  crErr : BitVec 2 := 0
  /-- bad lines of 128 bytes of the Crusher's sections (R418): vocabulary, section (0 VOCAB, 1 MERGES, 2 CLASSES), line; and the
  grammars with a bad line -/
  badLines : List (Nat × Nat × Nat) := []
  badGrammars : List (Nat × Nat) := []
  /-- the parts of output blocks combined in hub staging (R285, R293), by request and output: how many have arrived, and their sum -/
  sums : KMap (Nat × Nat) (Nat × List F32) := []
  /-- PK_COUNTS, PK_ERR -/
  pkPassages : Nat := 0
  pkCut : Nat := 0
  pkHistoryCut : Nat := 0
  pkDropped : Nat := 0
  pkErr : BitVec 1 := 0
  /-- AS_COUNTS, AS_ERR -/
  asCandidates : Nat := 0
  asPairs : Nat := 0
  asDropped : Nat := 0
  asErr : BitVec 2 := 0
  /-- SL_COUNTS, SL_ERR -/
  slDraws : Nat := 0
  slCapped : Nat := 0
  slTies : Nat := 0
  slNan : Nat := 0
  slErr : BitVec 3 := 0
  /-- TB_SRAM_USE.CE, TB_GRAMMAR_SEL, TB_COUNTS -/
  tbCe : Nat := 0
  tbSel : BitVec 12 := 0
  tbMasks : Nat := 0
  tbDeadEnds : Nat := 0
  tbSpecPeak : Nat := 0
deriving DecidableEq, Repr

/-- Face's and the Packer's objects and registers (09, 10). -/
structure FaceState where
  /-- FC_MODEL_SEL -/
  modelSel : BitVec 12 := 0
  /-- models: 1 LOADING, 2 READY, 3 BAD; a model in force and not listed is LOADING (R234) -/
  models : KMap (Nat × Nat) Nat := []
  /-- FC_SPEC -/
  drafted : List Nat := [0, 0, 0, 0]
  accepted : List Nat := [0, 0, 0, 0]
  /-- FC_ERR -/
  countFull : Nat := 0
  err : BitVec 4 := 0
  adapters : AMap AdapterSlot := []
  prefixes : AMap PrefixRec := []
  nextPrefix : Nat := 0
  admitted : Nat := 0
deriving DecidableEq, Repr

end Sys2Proof.Machine
end

