-- ==== Sys2Proof/Machine/PartsStore.lean ====
section
/-! DEFINITION. The state of pits, ledgers, the Cage and the Seams (06, 07, 08, 13, 14). -/

namespace Sys2Proof.Machine

/-! ### Pits -/

/-- A primary node record (R139 to R141). KIND 0 EMPTY records are not listed. A forward has `kind` 2 and its target
in `edges`. -/
structure NodeRec where
  kind : Nat
  passage : Nat
  ins : Nat
  del : Nat
  vec : QVec
  labels : List Nat
  textOff : Nat
  textLen : Nat
  edges : List Loc
deriving DecidableEq, Repr

/-- A replica record: a copy of the primary at a location, or a forward to it (R141, R184, R185). -/
structure RepRec where
  chan : Nat
  slot : Nat
  forward : Bool
deriving DecidableEq, Repr

/-- An entry of an upper level (R144): the level-0 location, DOWN, the sign bits and the neighbours. -/
structure UpNode where
  loc : Loc
  down : Nat
  bits : List Bool
  nbrs : List Nat
deriving DecidableEq, Repr

/-- The contents of a pit on this module: P, records by channel and slot, replicas by channel and index, text
extents by channel and offset, postings by channel and label with the byte offset of each list in its region, label populations, upper levels by level and index,
the entry table, and the items committed since the last publish. -/
structure PitData where
  p : Nat := 0
  recs : KMap (Nat × Nat) NodeRec := []
  reps : KMap (Nat × Nat) RepRec := []
  texts : KMap (Nat × Nat) (List Byte) := []
  posts : KMap (Nat × Nat) (List Nat) := []
  postAt : KMap (Nat × Nat) Nat := []
  pops : AMap Nat := []
  upper : KMap (Nat × Nat) UpNode := []
  entries : List (Option Loc) := List.replicate 64 none
  topEntries : List (Option Nat) := List.replicate 64 none
  pend : Nat := 0
deriving DecidableEq, Repr

/-- A page group of a Seam (R337), by its number in the order of issue. -/
structure GroupId where
  seam : Nat
  ticket : Nat
deriving DecidableEq, Repr

/-- A compaction sweep (R181): 1 SWEEPING, 2 FREEING; the channel and the records of it still to visit; the deleted
nodes that were compactable at its start. -/
structure Sweep where
  st : Nat
  chan : Nat
  left : List (Nat × Nat)
  dead : List (Nat × Nat)
deriving DecidableEq, Repr

/-- A pit of a claim on this module: its contents, its contents as durable in flash, changes whose groups are not
yet durable, what the last publish wrote of its upper area and allocation maps (R179), the sweep, the read counts that the table of
most-read slots carries from window to window and those of this window, and the reads of each channel (R183). `layout` is the
section that laid it out in flash. -/
structure PitStore where
  layout : Option PitSec := none
  live : PitData := {}
  dur : PitData := {}
  snaps : List (List GroupId × PitData) := []
  published : PitData := {}
  sweep : Option Sweep := none
  hot : KMap (Nat × Nat) Nat := []
  window : KMap (Nat × Nat) Nat := []
  reads : AMap Nat := []
  migrated : Nat := 0
deriving DecidableEq, Repr

/-! ### Ledgers -/

/-- A table header (R191). -/
structure LTable where
  rows : Nat := 0
  rowBytes : Nat := 8
  fmt : Nat := 0
  elements : Nat := 0
  version : Nat := 0
deriving DecidableEq, Repr

/-- A row: the slot that holds its contents, and the contents of the two slots (R191). A row not listed is in slot 0
with zeros. -/
structure LRow where
  slot : Nat := 0
  cur : List Byte := []
  other : List Byte := []
deriving DecidableEq, Repr

/-- The contents of a ledger: the active area (0 A, 1 B), the header and the rows. -/
structure LedgerData where
  active : Nat := 0
  hdr : LTable := {}
  rows : AMap LRow := []
deriving DecidableEq, Repr

/-- A ledger of a claim: contents with the Lode copy, contents in flash, row writes not yet durable; STATE of
LG_TABLE (1 IDLE, 2 WRITING, 3 COPYING, 4 PAUSED); bins moved from their CLAIM_START place, fetches of each bin in
the window, fetches of each Lode in the last, the bin that migrates with its Lodes, bins moved (R200, R201). `layout` is the
section that laid it out in flash. -/
structure LedgerStore where
  layout : Option LedgerSec := none
  live : LedgerData := {}
  dur : LedgerData := {}
  snaps : List (List GroupId × LedgerData) := []
  st : Nat := 1
  bins : AMap Nat := []
  fetches : AMap Nat := []
  lastLoads : AMap Nat := []
  moves : List (Nat × Nat) := []
  binsMoved : Nat := 0
deriving DecidableEq, Repr

/-- A row cache entry (R198). -/
structure CacheEnt where
  ledger : Nat
  row : Nat
  area : Nat
  slot : Nat
  used : Nat
  pinned : Bool
deriving DecidableEq, Repr

/-- The gather state of a claim: the row cache, the sketch, the look-ups since its last halving, the fetches of the
window, and LG_CACHE (R198 to R200). -/
structure GatherClaim where
  cache : List CacheEnt := []
  sketch : AMap Nat := []
  lookups : Nat := 0
  clock : Nat := 0
  fetches : Nat := 0
  hits : Nat := 0
  misses : Nat := 0
deriving DecidableEq, Repr

/-- An entry of a coalescer window (R196): the look-ups attached, and the scatter-adds combined into it, in order of arrival. -/
structure CoalEnt where
  claim : Nat
  ledger : Nat
  row : Nat
  attached : Nat
  adds : List (List Byte) := []
deriving DecidableEq, Repr

/-- A batch at a gather port (R194, R196, R204): the request whose it is, where it is one's; whether it has started; its look-ups,
or its scatter pairs, that have still to go; and the look-ups that went, in batch order, with their rows where these have
arrived. -/
structure PortBatch where
  claim : Nat
  ledger : Nat
  port : Nat
  slot : Option Nat := none
  started : Bool := false
  rows : List Nat
  pairs : List (Nat × List Byte)
  got : List (Nat × Option (List Byte)) := []
deriving DecidableEq, Repr

/-- Ledgers' and pits' stores, and the gather units' registers (07, 08). -/
structure StoreState where
  pits : KMap (Nat × Nat) PitStore := []
  ledgers : KMap (Nat × Nat) LedgerStore := []
  gather : List GatherClaim := [{}, {}, {}, {}]
  windows : List (List CoalEnt) := [[], []]
  /-- the batches at gather ports, in order, and the rows of the last batch that each port delivered, in batch order (R194) -/
  batches : List PortBatch := []
  delivered : AMap (List (List Byte)) := []
  /-- LG_SEL, LG_COALESCE.MERGED, LG_ERR -/
  lgSel : BitVec 12 := 0
  merged : List Nat := [0, 0]
  oor : Nat := 0
  cacheCe : Nat := 0
  cacheUe : Nat := 0
  lgErr : BitVec 5 := 0
  /-- DR_PIT_SEL -/
  pitSel : BitVec 20 := 0
deriving DecidableEq, Repr

/-! ### The Cage -/

/-- The states of a page (R310). -/
inductive PageSt where
  | unloaded
  | resident
  | promoting
  | demoting
  | lower
  | invalid
  | quarantined
deriving DecidableEq, Repr

/-- Who waits for a page: a request with the deadline of its wait in µs, 0 for none (R319), or a command by its
origin. -/
inductive Waiter where
  | request (slot deadline : Nat)
  | command (o : Origin)
deriving DecidableEq, Repr

/-- Where the load in flight reads (R306, R311): the lower copy, the alternate, or the recorded address. -/
inductive LoadSrc where
  | lower
  | alternate
  | address
deriving DecidableEq, Repr

/-- A page (R310 to R318). `frame` is the Lode and the frame on it, `host` the HOST frame; `valid` and `dirty` are
masks of 512 granules; `again` the granules written again during write-back; `bind` and `cmd` the pins of objects
bound and of commands; `passes` the requests whose pass waited for it and has it pinned; `perm` a permanent pin; `wbStart`
whether write-back has begun and `cancel` whether a
reference came since; `loaded` whether a load of it has completed; `buf` the Lode whose page buffer holds a copy of it, `copying`
whether that copy is under way, and `copied` the requests whose pass has used such a copy (R245, R330); `old` the frame that a
moved page leaves once the fetches issued to it have completed (R201); `data` the contents of a page of KV, WEIGHT, ADAPTER or
PREFIX, zeros where it is shorter than the page. A KV, ADAPTER or PREFIX page that
waits for its first frame is `unloaded`. -/
structure Page where
  st : PageSt
  frame : Option (Nat × Nat) := none
  host : Option Nat := none
  valid : Nat := 0
  dirty : Nat := 0
  again : Nat := 0
  wbStart : Bool := false
  cancel : Bool := false
  stamp : Nat := 0
  bind : Nat := 0
  cmd : Nat := 0
  perm : Bool := false
  fails : Nat := 0
  addr : Nat := 0
  src : LoadSrc := .lower
  waiters : List Waiter := []
  loaded : Bool := false
  passes : List Nat := []
  buf : Option Nat := none
  copying : Bool := false
  copied : List Nat := []
  old : Option (Nat × Nat) := none
  data : List Byte := []
deriving DecidableEq, Repr

/-- A Lode engine (13): staging peak, FUNCTION, the rows of its last product in hub staging (R246), LD_ECC. -/
structure LodeState where
  peak : Nat := 0
  waiting : List Nat := []
  fn : Nat := 0
  staged : List F32 := []
  ce : Nat := 0
  ue : Nat := 0
  err : BitVec 2 := 0
deriving DecidableEq, Repr

/-- The Cage (13). -/
structure CageState where
  pages : KMap PageKey Page := []
  ages : KMap (Nat × Nat) Nat := []
  /-- steps that wait for an allocation from a pool, first in first out -/
  allocs : List PageKey := []
  /-- CG_POOL_SEL, CG_HOST_BASE, CG_DEADLINE -/
  poolSel : BitVec 12 := 0
  hostBase : List W64 := [0, 0, 0, 0]
  flashUs : List Nat := [5000, 5000, 5000, 5000]
  hostUs : List Nat := [500, 500, 500, 500]
  /-- CG_QUAR, CG_QUAR_ID, CG_ERR -/
  quar : W64 := 0
  quarId : W64 := 0
  ueLoads : Nat := 0
  late : Nat := 0
  err : BitVec 4 := 0
  lodes : List LodeState := List.replicate 12 {}
  /-- requests that wait for staging buffers (R304), and staging groups in use by request steps -/
  staging : List (Nat × Nat) := []
deriving DecidableEq, Repr

/-! ### The Seams -/

/-- A map entry (R335): 1 MAPPED with its place and SEQ, 2 LOST. UNWRITTEN pages are not listed. -/
structure MapEnt where
  st : Nat
  place : FlashPlace
  seq : Nat
deriving DecidableEq, Repr

/-- A page queued for programming (R336, R337): KIND, LPN, its place and its WATER. It stays queued until its stripe is
complete. -/
structure QPage where
  kind : Nat
  lpn : Nat
  place : FlashPlace
  done : Bool
  water : Nat
deriving DecidableEq, Repr

/-- A page of a group: LPN, SEQ and place. -/
structure GPage where
  lpn : Nat
  seq : Nat
  place : FlashPlace
deriving DecidableEq, Repr

/-- A group awaiting durability (R337 to R339): its number, its logical pages, its pages once queued (its GROUP is the
SEQ of the first), and for a collection copy the place it copies. -/
structure WGroup where
  ticket : Nat
  lpns : List Nat
  pages : List GPage
  queued : Bool
  copyOf : Option FlashPlace
deriving DecidableEq, Repr

/-- A superblock in use (R332, R344): 1 open, 2 closed; the stripe being filled and the data pages queued in it; the
reads of its blocks by die since their erase; and whether it closes at the end of its stripe. -/
structure Sb where
  st : Nat
  stripe : Nat
  fill : Nat
  reads : AMap Nat := []
  closing : Bool := false
deriving DecidableEq, Repr

/-- A die group (R331, R344 to R348). `erases` are the erase counts of superblocks' own blocks, 0 where not listed, and `blocks` those
of the blocks that replaced one of them, by superblock and die; `victim` the superblock under collection; `gone` the superblocks
dismantled, `spare` the erase counts of the blocks they left for each die; `dead` the mask of retired dies. -/
structure DieGroup where
  sbs : AMap Sb := []
  erases : AMap Nat := []
  blocks : KMap (Nat × Nat) Nat := []
  victim : Option Nat := none
  gone : List Nat := []
  spare : AMap (List Nat) := []
  retired : Nat := 0
  dead : Nat := 0
deriving DecidableEq, Repr

/-- A Seam (14): the map, groups awaiting durability in order of issue, pages queued by SEQ, pages under rebuild,
durable collection copies whose map entry has not been changed, and the die groups. -/
structure SeamSt where
  map : AMap MapEnt := []
  tickets : Nat := 0
  groups : List WGroup := []
  queue : AMap QPage := []
  rebuilds : List Nat := []
  copies : List (GPage × FlashPlace) := []
  dgs : List DieGroup := [{}, {}]
deriving DecidableEq, Repr

/-- A synchronous journal record whose event waits for it (R349): the OPEN of a superblock, the RETIRE of a block, the CKPT_START of a
Seam, or the CKPT_END of the Seam whose checkpoint is being written. -/
inductive SyncRec where
  | opened (seam group sb : Nat)
  | retire (seam group die sb : Nat)
  | ckptStart (seam : Nat)
  | ckptEnd
deriving DecidableEq, Repr

/-- A seam die (14): SM_STATUS, SM_SEQ, SM_WATER, SM_JOURNAL, SM_ERR. `st` is 0 OFF, 1 RECOVERING, 2 RUN; `journal`
the bytes in the buffer, `syncs` the synchronous records in it, `spanPages` and `spanStripes` the pages and journal
stripes programmed since the last CKPT_START, `todo` the Seams to be checkpointed, `tailClosed` whether the last stop
ended with TAIL_CLOSE, `admits` whether new groups are taken (R351), `star` the highest WATER in a complete stripe, W* (R352). -/
structure SeamDie where
  st : Nat := 0
  recovery : Nat := 0
  progress : Nat := 0
  seq : Nat := 1
  water : Nat := 0
  star : Nat := 0
  journal : Nat := 0
  syncs : List SyncRec := []
  ckpt : Option Nat := none
  todo : List Nat := []
  spanPages : Nat := 0
  spanStripes : Nat := 0
  tailClosed : Bool := true
  admits : Bool := true
  rebuilt : Nat := 0
  lost : Nat := 0
  err : BitVec 7 := 0
deriving DecidableEq, Repr

/-- The four seam dies and the Seams that hold anything. -/
structure FlashState where
  dies : List SeamDie := [{}, {}, {}, {}]
  seams : AMap SeamSt := []
deriving DecidableEq, Repr

end Sys2Proof.Machine
end

