-- ==== Sys2Proof/Machine/PartsRest.lean ====
section
/-! DEFINITION. The state of the array banks, Adit, power and Canary, Tally, Lamp, Watch, the security store, and of
the commands taken and not completed (12, 16, 17, 19, 20). -/

namespace Sys2Proof.Machine

/-! ### Arrays -/

/-- An array bank (12): products performed and skipped, AR_NUMERIC and AR_BANK_ERR, and what its last
command wrote to hub staging (R284). -/
structure BankState where
  useful : Nat := 0
  gated : Nat := 0
  span : Nat := 0
  overflow : Nat := 0
  numErr : BitVec 4 := 0
  ce : Nat := 0
  err : BitVec 3 := 0
  staged : List F32 := []
deriving DecidableEq, Repr

/-! ### Adit -/

/-- A message on its way to a peer, sent and not acknowledged (R391), or one held in its receive buffer, with, for a QUERY, the
epoch of its pit when it arrived (R164). -/
structure SentMsg where
  link : Nat
  cls : Nat
  msg : AdMsg
  epoch : Nat := 0
deriving DecidableEq, Repr

/-- A peer of a claim by GANG_MODULE_ID (R391): the next PEER_SEQ to give, the messages not acknowledged, the
lowest PEER_SEQ not accepted and those marked above it, and the incarnation last seen. -/
structure PeerState where
  nextSeq : W32 := 0
  unacked : List SentMsg := []
  lowest : W32 := 0
  marked : List W32 := []
  incarnation : Option (BitVec 16) := none
  serial : W64 := 0
deriving DecidableEq, Repr

/-- An entry of the remote-work table (R392): the class served, who asked, and the search it runs. -/
structure RemoteWork where
  link : Nat
  cls : Nat
  msg : AdMsg
  search : Option Nat
deriving DecidableEq, Repr

/-- An Adit link (16). `st` is 0 OFF, 1 TRAINING, 2 UP, 3 RETRAINING, 4 DOWN, 5 NO_VERSION, 6 MISWIRED.
`avail` are the flit credits this end may still use, by message class (R390). -/
structure AditLink where
  st : Nat := 0
  laneMask : BitVec 4 := 0
  polFix : BitVec 4 := 0
  reversed : Bool := false
  refclkSrc : Bool := false
  peerSet : BitVec 8 := 0
  chosen : BitVec 8 := 0
  laneDisable : BitVec 4 := 0
  miswire : Nat := 0
  peer : Option AdIdentity := none
  expLink : Nat := 0xFF
  expModule : Nat := 0xFF
  issued : W32 := 0
  returned : W32 := 0
  avail : List Nat := []
  fecCorrected : Nat := 0
  crcRetry : Nat := 0
  crcRun : Nat := 0
  err : BitVec 8 := 0
  calibrating : Bool := false
deriving DecidableEq, Repr

/-- A claim's gang registers and its peers (16). -/
structure GangState where
  tag : W64 := 0
  incarnation : BitVec 16 := 0
  lossUs : Nat := 10000
  lost : Nat := 0
  late : Nat := 0
  peers : AMap PeerState := []
  remote : List RemoteWork := []
deriving DecidableEq, Repr

/-- What a home request awaits from a peer (R393, R394): the message class sent, its peer and its step. -/
structure Await where
  slot : Nat
  step : Nat
  cls : Nat
  peer : Nat
  what : List Nat
deriving DecidableEq, Repr

/-- Adit (16). `fetched` are the rows and extents that came for a request's steps; `held` the messages that stay in their
receive buffers with their credits (R392). -/
structure AditState where
  links : List AditLink := List.replicate 48 {}
  gangs : List GangState := [{}, {}, {}, {}]
  awaits : List Await := []
  fetched : KMap (Nat × Nat) (List Byte) := []
  held : List SentMsg := []
deriving DecidableEq, Repr

/-! ### Power and Canary -/

/-- A power domain (17): whether it is on; supply in 0.1 mV steps of 2.5 mV kept in mV times 10; Canary's readings;
whether a pass has planned it. -/
structure Domain where
  on : Bool := false
  v10 : Nat := 0
  vNeed : Nat := 0
  power : Nat := 0
  rate : Nat := 0
  drift : Nat := 0
  margin : Nat := 0
  late : Nat := 0
  planned : Bool := false
deriving DecidableEq, Repr

/-- A self-test asked for (R410 to R412): the unit, FORCE, and the command that waits (none for a deferred one). -/
structure TestReq where
  unit : UnitId
  claim : Nat
  force : Bool
  o : Option Origin
deriving DecidableEq, Repr

/-- Power, Canary and self-tests (17). -/
structure PowerState where
  /-- PW_STATUS: 0 NORMAL, 1 HOT, 2 LIMIT, 3 SHEDDING -/
  st : Nat := 0
  inputMv : Nat := 0
  powerW : Nat := 0
  domains : List Domain := List.replicate 80 {}
  passes : Nat := 0
  tjMax : Nat := 0
  tjDomain : Nat := 0
  inlet : Nat := 0
  outlet : Nat := 0
  err : BitVec 8 := 0
  /-- REPLAN commands that wait for a pass -/
  replans : List Origin := []
  /-- switch groups still to do: domains and whether on (R401) -/
  switching : List (Nat × Bool) := []
  tests : List TestReq := []
  testing : List TestReq := []
  deferred : List (UnitId × Nat) := []
  /-- the retirement record (R408) -/
  retired : List UnitId := []
  spares : AMap Nat := [(9, 79), (10, 87), (11, 95), (12, 103), (13, 111), (14, 119), (15, 127), (16, 135)]
  /-- banks whose spare has been called and becomes ACTIVE at their next shift boundary (R409) -/
  joins : List Nat := []
  /-- the plan's spares that serve, by claim and class: the unit that is spare now -/
  classSpares : KMap (Nat × Nat) Nat := []
  /-- units that their claim's spare replaced (R409) -/
  replaced : List UnitId := []
  /-- the input is within its range (R402), and an assertion of ALERT_N that persists -/
  inputOk : Bool := true
  coolantBad : Bool := false
  sensorBad : Bool := false
  capBad : Bool := false
  limitBad : Bool := false
deriving DecidableEq, Repr

/-! ### Tally, Lamp and Watch -/

/-- A claim's counters (R433): completions by status, tokens, output wait in ns, late answers. -/
structure TallyClaim where
  status : AMap Nat := []
  tokensIn : Nat := 0
  tokensOut : Nat := 0
  outputWait : Nat := 0
  late : Nat := 0
deriving DecidableEq, Repr

/-- A unit's time counters (R434): busy, stalled, idle, and stalled by reason. -/
structure UnitTime where
  busy : Nat := 0
  stalled : Nat := 0
  idle : Nat := 0
  reasons : AMap Nat := []
deriving DecidableEq, Repr

/-- A set of Tally's counters: live, or in the snapshot bank (R437). -/
structure TallyBank where
  claims : List TallyClaim := [{}, {}, {}, {}]
  units : KMap RUnit UnitTime := []
  completions : Nat := 0
deriving DecidableEq, Repr

/-- Lamp of a claim (R438 to R441): its registers, the records that wait to be written, and SEQ. -/
structure LampClaim where
  enable : Bool := false
  sampleLog2 : Nat := 4
  base : W64 := 0
  lines : Nat := 0
  head : W32 := 0
  dropped : Nat := 0
  written : W32 := 0
  seq : W32 := 0
  queue : List (List Byte) := []
  issues : KMap (Nat × Nat) Nat := []
deriving DecidableEq, Repr

/-- An arm of Watch (R444 to R447). `fired` is the dump once the tensor was produced. -/
structure Arm where
  claim : Nat
  slot : Nat
  o : Origin
  name : Nat
  wname : WatchName
  step : Nat
  addr : Nat
  bytes : Nat
  fired : Option (List Byte × Nat)
deriving DecidableEq, Repr

/-- Tally, Lamp and Watch (19). -/
structure WatchState where
  /-- TL_SEL, TL_SNAP.SEQ -/
  tlSel : BitVec 25 := 0
  snapSeq : W64 := 0
  live : TallyBank := {}
  snap : TallyBank := {}
  lamp : List LampClaim := [{}, {}, {}, {}]
  arms : List Arm := []
  dumps : List Nat := [0, 0, 0, 0]
  wtErr : BitVec 2 := 0
deriving DecidableEq, Repr

/-! ### Security -/

/-- An image key slot (R451): 0 EMPTY, 1 PROGRAMMED, 2 REVOKED. -/
structure KeySlot where
  st : Nat := 0
  key : List Byte := []
deriving DecidableEq, Repr

/-- The TAP (R459). `attached` since it left Test-Logic-Reset. -/
structure Tap where
  attached : Bool := false
  instr : Nat := 0
deriving DecidableEq, Repr

/-- The security store (20). -/
structure SecState where
  bootCount : Nat := 0
  attaches : Nat := 0
  keys : List KeySlot := [⟨1, Config.slot0Key⟩, {}, {}, {}, {}, {}, {}, {}]
  m : List Byte := List.replicate 64 0
  log : List (List Byte) := []
  logCount : Nat := 0
  keyData : List W64 := List.replicate 17 0
  keyStatus : Nat := 0
  dbgReads : Nat := 0
  dbgPoison : Bool := false
  dbgState : Nat := 0
  dbgBuf : List Byte := List.replicate 4096 0
  tap : Tap := {}
deriving DecidableEq, Repr

/-! ### Commands taken and not completed -/

/-- What a command that waits still does (R89). -/
inductive CmdBody where
  | prefixCreate (model : Nat) (adapter : Option Nat) (tokens : List Nat) (handle : Nat)
  | adapterPublish (slot : Nat)
  | pitInsert (pit addr : Nat) (items : List Byte)
  | pitDelete (pit addr : Nat) (items : List Byte)
  | pitPublish (pit : Nat)
  | ledgerWrite (ledger addr : Nat) (items : List Byte)
  | ledgerSwap (ledger : Nat) (table : List Byte)
  | cagePin (pages : List PageKey)
  | cageEvict (pages : List PageKey)
  | cageLoad (pages : List PageKey)
deriving DecidableEq, Repr

/-- A command taken and not completed: whether it has begun, the groups it waits for, its counts, and whether it still
reads its list. -/
structure Cmd where
  o : Origin
  body : CmdBody
  begun : Bool
  needs : List GroupId
  count : Nat
  total : Nat
  /-- items of its list are still to be read from companion memory (R480) -/
  reading : Bool := false
deriving DecidableEq, Repr

end Sys2Proof.Machine
end

