-- ==== Sys2Proof/Machine/State.lean ====
section
/-! DEFINITION. The state of the block: everything the spec gives it, as plain data, and its value after reset. -/

namespace Sys2Proof.Machine

/-- Why the block stops. No command stops it: every fault the spec names is a status, a register bit, a fence or the
fatal latch of R430, and so a next state. No meaning answers with this constructor (safe). -/
inductive Fault where
  | unreachable
deriving DecidableEq, Repr

/-- Why a command has no meaning. -/
inductive Refusal where
  /-- Raised by an arm of `exec` whose row has no meaning yet (safe: nothing is said of such a row). -/
  | notModelled (mnemonic : String)
deriving DecidableEq, Repr

/-- What the block answered or sent, newest last in `State.out`: a management read's data or an error code (R85), a
sideband response (R467), bits shifted out of the TAP (R459), a message on an Adit link (R389), or the answer to a
snoop (R67), with whether the module held a copy of the line. -/
inductive OutMsg where
  | mgmt (offset : Nat) (code : Nat) (data : W64)
  | sideband (bytes : List Byte)
  | tdo (width : Nat) (value : Nat)
  | adit (link cls : Nat) (m : AdMsg)
  | snoop (addr : W64) (held : Bool)
deriving DecidableEq, Repr

/-- The state. `cmds` are the commands taken and not completed, `host` companion memory as the module has written
it, `out` what the block has answered or sent, `freeCtr` the model's own counter of free values (log 5), `pending` the
queue of commands. -/
structure State where
  hf : HfState := {}
  boot : BootState := {}
  claims : List Claim := [{}, {}, {}, {}]
  hl : HlState := {}
  fm : FmState := {}
  slots : AMap Slot := []
  drift : DriftState := {}
  eng : EngineState := {}
  face : FaceState := {}
  store : StoreState := {}
  cage : CageState := {}
  flash : FlashState := {}
  haul : HaulState := {}
  banks : List BankState := List.replicate 17 {}
  adit : AditState := {}
  power : PowerState := {}
  watch : WatchState := {}
  sec : SecState := {}
  cmds : List Cmd := []
  host : List Host.Cell := []
  out : List OutMsg := []
  freeCtr : Nat := 0
  pending : List Instr := []
deriving DecidableEq, Repr

/-- The state after reset (R18): every field at its Reset value; where the spec gives none, at the value log 2
names; the queue empty. -/
def State.reset : State := {}

end Sys2Proof.Machine
end

