-- ==== Sys2Proof/Machine/Ops.lean ====
section
/-! DEFINITION. Named operations over the state that the families share: who is alive, claims, slots, companion
memory, rings, completion records, free values (03, 04, 18). -/

namespace Sys2Proof.Machine

/-! ### The block as a whole -/

/-- Whether the block runs: out of reset, brought up (R470), without a fatal cause latched (R430), and its power not shed
(R402). -/
def alive (s : State) : Bool := s.boot.resetN && s.boot.stage == 3 && s.boot.fatalCause == 0 && s.power.st != 3

/-- Whether Hoistlink carries traffic (R86: accesses to the companion stall while it does not). -/
def linkUp (s : State) : Bool := s.hl.st == 2

/-- Whether the block runs and reaches the companion. -/
def reach (s : State) : Bool := alive s && linkUp s

/-- The next free value and the state that has used it (log 5). -/
def takeFree (s : State) : Nat × State := (Config.free s.freeCtr, { s with freeCtr := s.freeCtr + 1 })

/-- Fresh bytes that nothing constrains: activations, which the model does not compute (log 5). -/
def freeBytes (s : State) (k : Nat) : List Byte × State :=
  ((List.range k).map (fun i => BitVec.ofNat 8 (Config.free (s.freeCtr + i))), { s with freeCtr := s.freeCtr + k })

/-- The state with something answered or sent. -/
def emit (s : State) (m : OutMsg) : State := { s with out := s.out ++ [m] }

/-- The state with bytes written to companion memory. -/
def putHost (s : State) (a : Nat) (bs : List Byte) : State := { s with host := hostWriteBytes s.host a bs }

/-! ### Claims and their configuration -/

/-- A claim. -/
def claimOf (s : State) (c : Nat) : Claim := s.claims.getD c {}

/-- The state with one claim changed. -/
def modClaim (s : State) (c : Nat) (f : Claim → Claim) : State := { s with claims := lmod s.claims c f }

/-- The configuration of a claim. -/
def cfgOf (s : State) (c : Nat) : Option ClaimCfg := (claimOf s c).cfg

/-- Whether a claim is RUNNING or ENDING (R47). -/
def claimRuns (s : State) (c : Nat) : Bool := (claimOf s c).st == 2 || (claimOf s c).st == 3

/-- A section of a claim by its instance. -/
def secOf {α : Type} (m : AMap (Inst α)) (i : Nat) : Option α := (kget m i).map (·.sec)

/-- A vocabulary of a claim. -/
def vocabOf (s : State) (c v : Nat) : Option VocabSec := (cfgOf s c).bind (fun g => secOf g.vocabs v)
/-- A model of a claim. -/
def modelOf (s : State) (c m : Nat) : Option ModelSec := (cfgOf s c).bind (fun g => secOf g.models m)
/-- A pit section of a claim. -/
def pitSecOf (s : State) (c p : Nat) : Option PitSec := (cfgOf s c).bind (fun g => secOf g.pits p)
/-- A ledger section of a claim. -/
def ledgerSecOf (s : State) (c l : Nat) : Option LedgerSec := (cfgOf s c).bind (fun g => secOf g.ledgers l)
/-- The PAGES of a pool of a claim. -/
def poolPages (s : State) (c kind : Nat) : Nat := ((cfgOf s c).map (fun g => kgetD g.pools kind 0)).getD 0

/-! ### Credits of Hoistlink (R63 to R65, R356)

A message of the module takes one credit of its channel and holds it until the companion returns it; one of several
granules holds that of its last, a read none once it is answered, and writes whose acknowledgement the module awaits
(R84) none once they are acknowledged (log 107). -/

/-- A virtual channel: 0 control, 1 data, 2 management. -/
def vcOf (s : State) (vc : Nat) : Credits := s.hl.vc.getD vc {}

/-- The credits each end grants on a channel (R64). -/
def vcGrant (vc : Nat) : Nat := if vc = 0 then 1024 else if vc = 1 then 6144 else 128

/-- HOIST_SHARE of a claim (R363); 64 where it has no ROSTER section. -/
def hoistShare (s : State) (c : Nat) : Nat := (((cfgOf s c).bind (·.roster)).map (fun i => i.sec.hoistShare)).getD 64

/-- The credits of a channel that a claim may hold at once (R356). -/
def shareLimit (s : State) (vc c : Nat) : Nat := (vcGrant vc * hoistShare s c + 63) / 64

/-- Whether a message of a claim on a channel finds a credit (R64, R356); on the management channel 32 are Headframe's alone,
which sends as number 5. -/
def hlCan (s : State) (vc c : Nat) : Bool :=
  let v := vcOf s vc
  if vc = 2 then (if c = 5 then decide (0 < v.avail) else decide (32 < v.avail))
  else decide (0 < v.avail) && decide ((v.held.filter (· == c)).length < shareLimit s vc c)

/-- The state with a channel changed. -/
def modVc (s : State) (vc : Nat) (f : Credits → Credits) : State := { s with hl := { s.hl with vc := lmod s.hl.vc vc f } }

/-- A message sent on a channel. -/
def hlUse (s : State) (vc c : Nat) : State := modVc s vc (fun v => { v with avail := v.avail - 1, held := v.held ++ [c] })

/-- Granules received on a channel: their credits return to the companion (R65). -/
def hlGot (s : State) (vc n : Nat) : State := modVc s vc (fun v => { v with returned := v.returned + BitVec.ofNat 32 n })

/-- The granules of a number of bytes. -/
def granules (n : Nat) : Nat := (n + 127) / 128

/-- The channel of a ring: a claim's on the control channel, the management ring on its own (R63, R75). -/
def ringVc (c : Nat) : Nat := if c = 4 then 2 else 0

/-- Whether the data channel carries a claim's traffic. -/
def dataUp (s : State) (c : Nat) : Bool := linkUp s && hlCan s 1 c

/-! ### Slots and requests (R96) -/

/-- A slot. -/
def slotOf (s : State) (n : Nat) : Slot := kgetD s.slots n {}

/-- The request in a slot. -/
def reqOf (s : State) (n : Nat) : Option Req := (slotOf s n).occ

/-- The state with one slot set; a FREE slot of generation 0 is not listed. -/
def setSlot (s : State) (n : Nat) (v : Slot) : State :=
  { s with slots := if v.occ.isNone && v.gen == 0 then kdel s.slots n else kset s.slots n v }

/-- The state with the request in a slot changed, if there is one. -/
def modReq (s : State) (n : Nat) (f : Req → Req) : State :=
  match reqOf s n with
  | none => s
  | some r => setSlot s n { slotOf s n with occ := some (f r) }

/-- A request that is RUNNING. -/
def running (s : State) (n : Nat) : Option Req := (reqOf s n).filter (fun r => r.commit.isNone)

/-- The requests in the slots, with their slots. -/
def requests (s : State) : List (Nat × Req) := s.slots.filterMap (fun p => p.2.occ.map (fun r => (p.1, r)))

/-- The handle of a slot's occupant (R14). -/
def handleOf (s : State) (n : Nat) : Nat := (slotOf s n).gen.toNat * 65536 + n

/-- A request with flags set. -/
def Req.flag (r : Req) (m : Nat) : Req := { r with out := { r.out with flags := r.out.flags ||| m } }

/-- Completion flags by their bit (R93). -/
def flTrunc : Nat := 1
def flUtf8 : Nat := 2
def flTie : Nat := 4
def flDup : Nat := 8
def flBudget : Nat := 16
def flStop : Nat := 32
def flEos : Nat := 64
def flMax : Nat := 128
def flSpec : Nat := 256
def flFlat : Nat := 512
def flAlt : Nat := 1024

/-! ### Rings (R68 to R74) -/

/-- The address of a ring control block (R68). -/
def rcbAddr (s : State) (r : RingId) : Nat :=
  if r.claim = 4 then s.hl.mgmtRingTable.toNat + (if r.cpl then 128 else 0)
  else (s.hl.ringTable.getD r.claim 0).toNat + 128 * (r.idx + if r.cpl then 256 else 0)

/-- CAP of a ring (R69). -/
def Ring.cap (r : Ring) (cpl : Bool) : Nat := if cpl then 2 * r.lines else r.lines

/-- Free entries of a completion ring (R74); none unless it is ENABLED. -/
def cplFree (s : State) (c i : Nat) : Nat :=
  match kget s.hl.rings ⟨c, true, i⟩ with
  | none => 0
  | some r => if r.st = 1 then r.cap true - (r.n - r.head).toNat - r.v else 0

/-- The value PHASE takes in entry `n` of a ring of `cap` entries (R70). -/
def phaseAt (cap n : Nat) : Nat := if n / cap % 2 = 0 then 1 else 0

/-- The state with one ring changed. -/
def modRing (s : State) (r : RingId) (f : Ring → Ring) : State := { s with hl := { s.hl with rings := kmod s.hl.rings r f } }

/-- The ring a row names: submission unless it says completion. -/
def ringIdOf (g : RingSel) (cpl : Bool) : RingId :=
  match g with
  | .claim c r => ⟨c, cpl, r⟩
  | .mgmt => ⟨4, cpl, 0⟩

/-- The bytes of a completion record (R78) with a PHASE. -/
def cplBytes (r : CplRec) (phase : Nat) : List Byte :=
  leBytes 1 r.status ++ leBytes 1 phase ++ leBytes 2 r.flags ++ leBytes 4 r.o.req ++ leBytes 4 r.o.cookie
    ++ leBytes 1 r.o.opcode ++ leBytes 1 0 ++ leBytes 2 (if r.o.claim = 4 then 0xFFFF else r.o.ring)
    ++ leBytes 4 r.o.index ++ leBytes 4 r.tokensIn ++ leBytes 4 r.tokensOut ++ leBytes 4 r.detail
    ++ padTo 32 r.result

/-- The Foreman's refusal counters (FM_REFUSALS). -/
def countRefusal (s : State) (status : Nat) : State :=
  if status = 0x0C then { s with fm := { s.fm with bad := satAdd 21 s.fm.bad 1 } }
  else if status = 0x03 then { s with fm := { s.fm with policed := satAdd 21 s.fm.policed 1 } }
  else if status = 0x04 then { s with fm := { s.fm with noSlot := satAdd 21 s.fm.noSlot 1 } }
  else s

/-- Tally's counts of a completion record (R433): the module's, and its claim's by status and tokens. -/
def tallyRecord (s : State) (r : CplRec) : State :=
  let b := s.watch.live
  let b1 := { b with completions := satAdd 64 b.completions 1 }
  let f := fun (t : TallyClaim) => { t with
    status := kset t.status r.status (satAdd 64 (kgetD t.status r.status 0) 1)
    tokensIn := satAdd 64 t.tokensIn r.tokensIn, tokensOut := satAdd 64 t.tokensOut r.tokensOut }
  { s with watch := { s.watch with live := { b1 with claims := lmod b1.claims r.o.claim f } } }

/-- Whether a record can be written now: Hoistlink is UP, its channel has a credit, and no earlier record of its ring waits
(R64, R84, R86). -/
def recordGoes (s : State) (r : CplRec) : Bool :=
  linkUp s && hlCan s (ringVc r.o.claim) r.o.claim
    && !s.hl.stalled.any (fun x => x.o.claim == r.o.claim && x.o.cpl == r.o.cpl)

/-- One completion record written to its ring: the record and its PHASE in one write, W up, V down (R74, R78), with a credit of
its channel. Where it cannot be written now it waits (R64, R86). -/
def putRecord (s : State) (r : CplRec) : State :=
  match kget s.hl.rings ⟨r.o.claim, true, r.o.cpl⟩ with
  | none => s
  | some g =>
    if !recordGoes s r then { s with hl := { s.hl with stalled := s.hl.stalled ++ [r] } }
    else
    let cap := g.cap true
    let pos := g.n.toNat % cap
    let s1 := putHost (hlUse s (ringVc r.o.claim) r.o.claim) (g.base + 64 * pos) (cplBytes r (phaseAt cap g.n.toNat))
    let s2 := modRing s1 ⟨r.o.claim, true, r.o.cpl⟩ (fun g => { g with n := g.n + 1, v := g.v - 1 })
    tallyRecord (countRefusal s2 r.status) r

/-- The records that wait, written in their order as far as they can be. -/
def flushRecords (s : State) : State := s.hl.stalled.foldl putRecord { s with hl := { s.hl with stalled := [] } }

/-- An answer to a management access over Hoistlink, on a management credit; without one it waits (R64, R85). -/
def answerMgmt (s : State) (off code : Nat) (data : W64) : State :=
  if s.hl.answers.isEmpty && hlCan s 2 4 then emit (hlUse s 2 4) (.mgmt off code data)
  else { s with hl := { s.hl with answers := s.hl.answers ++ [(off, code, data)] } }

/-- The answers that wait, sent in their order as far as they can be. -/
def flushAnswers (s : State) : State :=
  s.hl.answers.foldl (fun s a => answerMgmt s a.1 a.2.1 a.2.2) { s with hl := { s.hl with answers := [] } }

/-- A command's record with a status and DETAIL alone. -/
def done (s : State) (o : Origin) (status detail : Nat) : State := putRecord s { o := o, status := status, detail := detail }

/-- A command's record with DONE and its OPCODE_RESULT. -/
def doneWith (s : State) (o : Origin) (result : List Byte) : State := putRecord s { o := o, status := 0, result := result }

/-- A refusal with BAD_DESCRIPTOR. -/
def bad (s : State) (o : Origin) (reason : Nat) : State := done s o 0x0C reason

/-- Whether descriptors are admitted at all: the input in range (R402), and no fatal cause. -/
def admits (s : State) : Bool := reach s

/-- A descriptor line taken from a submission ring (R72 to R74): its origin and the state after SUB_CONSUMED has
advanced, the line having been received and the write of SUB_CONSUMED sent on the ring's channel. None where the line is not
taken: the ring or its completion ring is not ENABLED, no entry is free, PHASE is not new, or the channel has no credit. A
line the watch took already comes first, and only it. -/
def takeLine (s : State) (id : RingId) (poison : Bool) (line : List Byte) : Option (Origin × State) :=
  match kget s.hl.rings id with
  | none => none
  | some g =>
    let o : Origin :=
      { claim := id.claim, ring := id.idx, index := g.n.toNat, opcode := byteAt line 0
        req := if poison then 0xFFFFFFFF else fld line 4 4, cookie := if poison then 0 else fld line 12 4
        tenant := fld line 8 2, cpl := g.cplRing }
    let vc := ringVc id.claim
    let s1 := putHost (hlUse (hlGot s vc 1) vc id.claim) (g.rcb + 64) (leBytes 4 (g.n + 1).toNat)
    if !hlCan s vc id.claim then none
    else match g.fetched with
    | f :: rest =>
      if f = (poison, line) then some (o, modRing s1 id (fun g => { g with n := g.n + 1, fetched := rest })) else none
    | [] =>
      if g.st = 1 && cplFree s id.claim g.cplRing ≥ 1
          && (poison || byteAt line 2 % 2 == phaseAt (g.cap false) g.n.toNat) then
        some (o, modRing (modRing s1 id (fun g => { g with n := g.n + 1 })) ⟨id.claim, true, g.cplRing⟩
          (fun g => { g with v := g.v + 1 }))
      else none

/-- The origin of a poisoned line: its OPCODE was not read, so the record's OPCODE is a free value (log 20). -/
def poisonOrigin (s : State) (o : Origin) : Origin × State :=
  let (f, s1) := takeFree s
  ({ o with opcode := f % 256 }, s1)

/-- Whether the reserved part of the common descriptor is 0 (R13, R76): byte 2 above PHASE, byte 3, bytes 10 and 11,
and the tenant's bits above those used (R12). -/
def commonZero (line : List Byte) : Bool :=
  byteAt line 2 / 2 == 0 && byteAt line 3 == 0 && zeroAt line 10 2 && decide (fld line 8 2 < 4096)

/-- Whether a claim's TENANT_MAP admits a tenant (R40). -/
def tenantOk (s : State) (c t : Nat) : Bool :=
  match cfgOf s c with
  | none => false
  | some g => bit (byteAt g.own.tenantMap (t / 8)) (t % 8)

/-- The first of some numbers, in ascending order, after the one served last, or else the least. -/
def nextInTurn (ready : List Nat) (last : Option Nat) : Option Nat :=
  let up := sortBy (fun a b => decide (a < b)) ready
  match last with
  | none => up.head?
  | some l => (up.find? (fun n => decide (l < n))).orElse (fun _ => up.head?)

/-- The submission rings of a claim with a descriptor that the watch has taken and the Foreman has not. -/
def readyRings (s : State) (c : Nat) : List Nat :=
  s.hl.rings.filterMap (fun p => if p.1.claim = c && !p.1.cpl && !p.2.fetched.isEmpty then some p.1.idx else none)

/-- Whether the rotation of admission has come to a ring: among the claims that run and have a descriptor ready, and within the
claim among its rings (R356). -/
def turnOf (s : State) (c r : Nat) : Bool :=
  let cs := (List.range 4).filter (fun x => x == c || (claimRuns s x && !(readyRings s x).isEmpty))
  nextInTurn cs (some s.fm.lastClaim) == some c
    && nextInTurn (dedup (r :: readyRings s c)) (s.fm.lastRing[c]?) == some r

/-- The rotation moved on past a ring. -/
def takeTurn (s : State) (c r : Nat) : State :=
  { s with fm := { s.fm with lastClaim := c, lastRing := lmod s.fm.lastRing c (fun _ => r) } }

/-- A descriptor of a claim ring through the checks of R77 and R108. `codes` says whether OPCODE is the row's; `ends`
whether the opcode acts while the claim is ENDING. `body` acts on a descriptor that passes. A descriptor whose turn in the
rotation of admission has not come waits (R356). -/
def claimHead (s : State) (d : Desc) (codes : Nat → Bool) (ends : Bool) (body : State → Origin → List Byte → State) : State :=
  if !(admits s && claimRuns s d.claim && decide (d.claim < 4) && d.line.length == 128
      && turnOf s d.claim d.ring && (d.poison || codes (byteAt d.line 0))) then s
  else
    match takeLine (takeTurn s d.claim d.ring) ⟨d.claim, false, d.ring⟩ d.poison d.line with
    | none => s
    | some (o, s1) =>
      if d.poison then
        let (o', s2) := poisonOrigin s1 o
        bad s2 o' 0x03
      else if byteAt d.line 1 != 1 then bad s1 o 0x01
      else if o.opcode = 0 || o.opcode ≥ 0x80 then bad s1 o 0x02
      else if (claimOf s d.claim).st == 3 && !ends then bad s1 o 0x19
      else body s1 o d.line

/-- A descriptor of a claim ring up to step 3 of R99 (R77, R108, R479); `reserved` says whether the opcode's own
reserved bytes are 0. -/
def claimDesc (s : State) (d : Desc) (codes : Nat → Bool) (reserved : List Byte → Bool) (ends : Bool)
    (body : State → Origin → List Byte → State) : State :=
  claimHead s d codes ends (fun s o line =>
    if !(commonZero line && reserved line) then bad s o 0x10
    else if !tenantOk s d.claim o.tenant then bad s o 0x11
    else body s o line)

/-- A command descriptor whose REQUEST R88 gives as all ones (R479). -/
def plainCommand (s : State) (d : Desc) (code : Nat) (reserved : List Byte → Bool)
    (body : State → Origin → List Byte → State) : State :=
  claimDesc s d (· == code) reserved false (fun s o line =>
    if o.req != 0xFFFFFFFF then bad s o 0x10 else body s o line)

/-- A descriptor of the management ring (R77, R471): DVER, OPCODE, then the reserved bytes with REQUEST and
TENANT. -/
def mgmtDesc (s : State) (m : MDesc) (codes : Nat → Bool) (reserved : List Byte → Bool)
    (body : State → Origin → List Byte → State) : State :=
  if !(admits s && m.line.length == 128 && (m.poison || codes (byteAt m.line 0))) then s
  else
    match takeLine s ⟨4, false, 0⟩ m.poison m.line with
    | none => s
    | some (o, s1) =>
      if m.poison then
        let (o', s2) := poisonOrigin s1 o
        bad s2 o' 0x03
      else if byteAt m.line 1 != 1 then bad s1 o 0x01
      else if o.opcode < 0x80 then bad s1 o 0x02
      else if !(commonZero m.line && reserved m.line && o.req == 0xFFFFFFFF && o.tenant == 0) then bad s1 o 0x10
      else body s1 o m.line

end Sys2Proof.Machine
end

