-- ==== Sys2Proof/Machine/Send.lean ====
section
/-! DEFINITION. Sending over Adit: the link a message takes, its frames, and what a peer still holds for a request
(16 R387 to R393). -/

namespace Sys2Proof.Machine

/-- A claim's gang state. -/
def gangOf (s : State) (c : Nat) : GangState := s.adit.gangs.getD c {}

/-- The state with a claim's gang changed. -/
def modGang (s : State) (c : Nat) (f : GangState → GangState) : State :=
  { s with adit := { s.adit with gangs := lmod s.adit.gangs c f } }

/-- The state with an Adit link changed. -/
def modLink (s : State) (l : Nat) (f : AditLink → AditLink) : State :=
  { s with adit := { s.adit with links := lmod s.adit.links l f } }

/-- An Adit link. -/
def linkOf (s : State) (l : Nat) : AditLink := s.adit.links.getD l {}

/-- The claim that owns an Adit link (R40), if any. -/
def linkOwner (s : State) (l : Nat) : Option Nat :=
  (List.range 4).find? (fun c => ((cfgOf s c).map (fun g => bit g.own.aditMask l)).getD false)

/-- A claim's UP links to a gang module, in ascending order (R391). -/
def upLinks (s : State) (c peer : Nat) : List Nat :=
  (List.range 48).filter (fun l =>
    ((cfgOf s c).map (fun g => bit g.own.aditMask l)).getD false && (linkOf s l).st == 2
      && (match (linkOf s l).peer with | some i => i.moduleId == peer | none => false))

/-- A claim's GANG_MODULE_ID. -/
def moduleIdOf (s : State) (c : Nat) : Nat := ((cfgOf s c).map (fun g => g.own.gangModuleId)).getD 0

/-- The frames of a message: a 32-byte header with up to 4,096 payload bytes each (R387). -/
def framesOf (m : AdMsg) : List Frame :=
  let n := max 1 ((m.payload.length + 4095) / 4096)
  (List.range n).map (fun i =>
    { len := 32 + min 4096 (m.payload.length - 4096 * i), last := i + 1 == n, msg := m })

/-- Frames put behind those of a link and class. -/
def queueFrames (s : State) (l cls : Nat) (fs : List Frame) : State :=
  { s with haul := { s.haul with frames := kset s.haul.frames (l, cls) (kgetD s.haul.frames (l, cls) [] ++ fs) } }

/-- The link that carries a message (R391): entry HANDLE mod n of the UP links to the peer; none where no link is UP
and the message waits. -/
def pickLink (s : State) (c peer handle : Nat) : Option Nat :=
  let ls := upLinks s c peer
  if ls.isEmpty then none else ls[handle % ls.length]?

/-- A message to a peer: numbered, kept until acknowledged, and queued for egress on its link, where one is UP and fewer than
65,536 messages to the peer are unacknowledged (R391). -/
def sendMsg (s : State) (c peer cls handle home step tenant object : Nat) (payload : List Byte) : State :=
  let g := gangOf s c
  let p := kgetD g.peers peer {}
  let m : AdMsg :=
    { src := moduleIdOf s c, dst := peer, step := step, incarnation := g.incarnation, peerSeq := p.nextSeq
      handle := BitVec.ofNat 32 handle, home := home, tenant := tenant, object := object, payload := payload }
  let l := if p.unacked.length < 65536 then pickLink s c peer handle else none
  let p' := { p with nextSeq := p.nextSeq + 1, unacked := p.unacked ++ [⟨l.getD 48, cls, m, 0⟩] }
  let s1 := modGang s c (fun g => { g with peers := kset g.peers peer p' })
  match l with
  | none => s1
  | some l => queueFrames s1 l cls (framesOf m)

/-- The first of some modules that a claim's gang has declared lost (R394). -/
def lostPeer (s : State) (c : Nat) (ms : List Nat) : Option Nat := ms.find? (fun m => bit (gangOf s c).lost m)

/-- Whether a request awaits an ANSWER or REPLY for one of its steps. -/
def awaiting (s : State) (slot step : Nat) : Bool := s.adit.awaits.any (fun a => a.slot == slot && a.step == step)

/-- CANCEL to each peer that still holds work for a request, and nothing awaited any more (R393). -/
def cancelPeers (s : State) (slot : Nat) (r : Req) : State :=
  let peers := dedup ((s.adit.awaits.filter (fun a => a.slot == slot)).map (·.peer))
  let s1 := peers.foldl (fun s p =>
    sendMsg s r.claim p 6 (handleOf s slot) (moduleIdOf s r.claim) 0 r.tenant 0 []) s
  { s1 with adit := { s1.adit with awaits := s1.adit.awaits.filter (fun a => a.slot != slot) } }

end Sys2Proof.Machine
end

