-- ==== Sys2Proof/Machine/Ending.lean ====
section
/-! DEFINITION. The end of a request: the commit (04 R98), the token stream's records (03 R79 to R83, 15 R374), the
release (R97) and the completion record (R84, R96). -/

namespace Sys2Proof.Machine

/-! ### Streams -/

/-- Whether a request writes a token stream: it names one, and its recipe produces one (R80, R102, R105; log 109). -/
def Req.hasStream (r : Req) : Bool := r.desc.streamBase != 0 && ((r.bind.recipe.map (·.streams)).getD false)

/-- The bytes of a token-stream record (R81). -/
def streamBytes (kind phase req seq tokens first : Nat) (text : List Byte) : List Byte :=
  leBytes 1 kind ++ leBytes 1 phase ++ leBytes 2 text.length ++ leBytes 4 req ++ leBytes 4 seq ++ leBytes 2 tokens
    ++ leBytes 2 0 ++ leBytes 8 first ++ leBytes 8 0 ++ padTo 96 text

/-- Whether the stream ring has a free line (R79, R83). -/
def streamRoom (r : Req) : Bool := decide ((r.stream.w - r.stream.head).toNat < r.desc.streamLines)

/-- Whether a request's next stream record can be written: its ring has a free line, and the data channel a credit for its claim
(R64, R83). -/
def streamGoes (s : State) (r : Req) : Bool := streamRoom r && hlCan s 1 r.claim

/-- One record written to a request's stream ring, with a credit of the data channel. -/
def writeStream (s : State) (n : Nat) (r : Req) (kind tokens first : Nat) (text : List Byte) : State :=
  let w := r.stream.w.toNat
  let a := r.desc.streamBase + 128 + 128 * (w % r.desc.streamLines)
  let s1 := putHost (hlUse s 1 r.claim) a (streamBytes kind (phaseAt r.desc.streamLines w) (handleOf s n) w tokens first text)
  modReq s1 n (fun r => { r with stream := { r.stream with w := r.stream.w + 1 } })

/-- Whether a request's records pass unshaped: no shaper holds it, its profile has RATE 0, or it ended by ABORT or
by error (R371, R374). -/
def unshaped (s : State) (n : Nat) (r : Req) : Bool :=
  match kget s.haul.streams n, kget s.haul.shapers r.claim with
  | some _, some sec =>
    let cls := tenantClass s r.claim r.tenant
    ((sec.stream.getD cls ⟨0, 0⟩).rate == 0)
      || (match r.commit with | some st => !(st == 0 || st == 1) | none => false)
  | _, _ => true
where
  /-- The roster class of a tenant (R361). -/
  tenantClass (s : State) (c t : Nat) : Nat :=
    match (cfgOf s c).bind (·.roster) with
    | none => 0
    | some i => (byteAt i.sec.tenantClass (t / 2)) / (if t % 2 = 0 then 1 else 16) % 16

/-- Held TEXT records passed to the ring, in order, while it has room and the shaper lets them (R374). -/
def passRecords (fuel : Nat) (s : State) (n : Nat) : State :=
  match fuel with
  | 0 => s
  | fuel + 1 =>
    match reqOf s n with
    | none => s
    | some r =>
      match r.stream.held with
      | [] => s
      | t :: rest =>
        let free := unshaped s n r || t.tokens == 0
        let bucket : Int := ((kget s.haul.streams n).map (·.micro)).getD 0
        if streamGoes s r && (free || decide ((0 : Int) < bucket)) then
          let s1 := writeStream s n r 1 t.tokens t.first t.text
          let s2 := modReq s1 n (fun r => { r with stream := { r.stream with held := rest } })
          let spend := fun (sh : Shaper) => { sh with micro := sh.micro - 1000000 * (t.tokens : Int) }
          let s3 := if unshaped s n r then s2
            else { s2 with haul := { s2.haul with streams := kmod s2.haul.streams n spend } }
          passRecords fuel s3 n
        else s

/-- The records of a request passed as far as they can, and then its END record where it is due (R82, R374); the
shaper returns with it. FIRST_TOKEN of an END record, which accounts for no tokens, is the number of tokens generated
(DESIGN CHOICE, log 110). -/
def pumpStream (s : State) (n : Nat) : State :=
  match reqOf s n with
  | none => s
  | some r =>
    if !(r.hasStream && linkUp s) then s
    else
      let s1 := passRecords (r.stream.held.length + 1) s n
      match reqOf s1 n with
      | none => s1
      | some r1 =>
        if r1.stream.endSt == 1 && r1.stream.held.isEmpty && streamGoes s1 r1 then
          let s2 := writeStream s1 n r1 2 0 r1.out.tokensOut []
          let s3 := modReq s2 n (fun r => { r with stream := { r.stream with endSt := 2 } })
          { s3 with haul := { s3.haul with streams := kdel s3.haul.streams n } }
        else s1

/-! ### The commit (R98) -/

/-- Whether a waiter is a request. -/
def Waiter.isReq (w : Waiter) (n : Nat) : Bool :=
  match w with
  | .request m _ => m == n
  | .command _ => false

/-- The pages' waiters, pins, page buffers and queued allocations without a request: an allocation that this request alone waited
for is dropped, but for shared pages that others look up or have bound (kinds 4 and 5). -/
def dropWaits (s : State) (n : Nat) : State :=
  let own := fun (k : PageKey) => k.kind == 1 && k.obj == n
  let f := fun (p : PageKey × Page) => (p.1, { p.2 with
    waiters := p.2.waiters.filter (fun w => !w.isReq n), copied := p.2.copied.filter (· != n)
    passes := p.2.passes.filter (· != n), buf := if own p.1 then none else p.2.buf, copying := p.2.copying && !own p.1 })
  let ps := s.cage.pages.map f
  let wanted := fun (k : PageKey) => match kget s.cage.pages k, kget ps k with
    | some p, some q => decide (4 ≤ k.kind) || !p.waiters.any (·.isReq n) || !q.waiters.isEmpty
    | _, _ => false
  { s with cage := { s.cage with
    pages := ps
    allocs := s.cage.allocs.filter wanted
    lodes := s.cage.lodes.map (fun l => { l with waiting := l.waiting.filter (· != n) })
    staging := s.cage.staging.filter (fun a => a.1 != n) } }

/-- The look-ups of a request at gather ports withdrawn (R205). -/
def dropBatches (s : State) (n : Nat) : State :=
  { s with store := { s.store with batches := s.store.batches.filter (fun b => b.slot != some n) } }

/-- The unit class of a roster engine class (R360, R419). -/
def unitClass (engine : Nat) : Nat := if engine = 0 then 0xE else engine

/-- Credits that a unit gives back through its isolation gates, one a command (R420). -/
def gateReturn (s : State) (u : UnitId) (k : Nat) : State :=
  let g := kgetD s.hf.gates u {}
  if k = 0 then s
  else { s with hf := { s.hf with gates := kset s.hf.gates u { g with returned := g.returned + BitVec.ofNat 32 k } } }

/-- The rosters' queues cut to what is left of each; the credits of the commands dropped return. -/
def dropCmds (s : State) (left : RUnit → List RCmd → List RCmd) : State :=
  let s1 := s.haul.rosters.foldl (fun s p =>
    gateReturn s ⟨unitClass p.1.engine, p.1.unit⟩ (p.2.queue.length - (left p.1 p.2.queue).length)) s
  let f := fun (p : RUnit × RosterRun) => (p.1, { p.2 with queue := left p.1 p.2.queue })
  { s1 with haul := { s1.haul with rosters := s1.haul.rosters.map f } }

/-- Whether the first command of a bank's queue is executing: its claim's roster table serves its class (R303; DESIGN CHOICE, log 126). -/
def executes (s : State) (k : RUnit) (x : RCmd) : Bool :=
  k.engine == 0 && match (cfgOf s k.claim).bind (·.roster) with
    | some i => i.sec.tables.any (fun t => t.engine == 0 && t.entries.any (fun e => e.1 == x.cls))
    | none => false

/-- What is left of a unit's queue when a request has ended: a command that executes runs to its end (R97, R303, R365). -/
def leftOf (s : State) (n : Nat) (k : RUnit) (q : List RCmd) : List RCmd :=
  let rest := fun (l : List RCmd) => l.filter (fun c => c.slot != some n)
  match q with
  | [] => []
  | x :: r => if executes s k x then x :: rest r else rest q

/-- The rosters' queues without a request's commands, and the parts of its outputs in hub staging gone (step 1 of R97). -/
def dropQueued (s : State) (n : Nat) : State :=
  let s1 := dropCmds s (leftOf s n)
  { s1 with
    haul := { s1.haul with streamWaits := s1.haul.streamWaits.filter (· != n) }
    eng := { s1.eng with sums := s1.eng.sums.filter (fun x => x.1.1 != n) } }

/-- Whether a command of a request still executes in an engine (step 2 of R97). -/
def inEngines (s : State) (n : Nat) : Bool := s.haul.rosters.any (fun p => p.2.queue.any (fun c => c.slot == some n))

/-- The state with a search changed. -/
def modSearch (s : State) (x : Nat) (f : Search → Search) : State :=
  { s with drift := { s.drift with searches := kmod s.drift.searches x f } }

/-- The strands that run on an engine, a FLAT_SCAN counting as one of them (R149, R162). -/
def engineLoad (s : State) (e : Nat) : Nat :=
  ((kvals s.drift.searches).map (fun x =>
    (x.strands.filter (fun t => t.engine == e && !t.done && !t.waiting)).length + if x.scanOn.contains e then 1 else 0)).sum

/-- Whether a strand waits for a place of an engine, and whether a FLAT_SCAN does. -/
def Strand.wants (t : Strand) (e : Nat) : Bool := t.engine == e && t.waiting && !t.done
def Search.scanWants (x : Search) (e : Nat) : Bool := x.started && x.kind == 2 && x.scans.contains e && !x.scanOn.contains e

/-- A free place of an engine taken by the first strand, or FLAT_SCAN, that waits for it, in the order of the searches and of the
strands in one (R149 gives no order; DESIGN CHOICE, log 116). -/
def admitStrand (s : State) (e : Nat) : State :=
  if 16 ≤ engineLoad s e then s
  else match s.drift.searches.find? (fun p => p.2.strands.any (·.wants e) || p.2.scanWants e) with
    | none => s
    | some p => modSearch s p.1 (fun x => match findIdx? (fun t : Strand => t.wants e) x.strands with
      | none => { x with scanOn := x.scanOn ++ [e] }
      | some i => { x with strands := lmod x.strands i (fun t => { t with waiting := false }) })

/-- The places that searches dropped have left taken by those that wait for them. -/
def admitStrands (s : State) : State :=
  let waits := ((kvals s.drift.searches).map (fun x =>
    (x.strands.filter (fun t => t.waiting && !t.done)).map (·.engine) ++ x.scans.filter (x.scanWants ·))).flatten
  waits.foldl admitStrand s

/-- The searches of a request dropped: its strands end, and their buffers and places return (R149, R160). -/
def dropSearches (s : State) (n : Nat) : State :=
  admitStrands { s with drift := { s.drift with searches := s.drift.searches.filter (fun p =>
      match p.2.owner with
      | .request m _ => m != n
      | .peer .. => true) } }

/-- The commit of a running request with a status and DETAIL (R98): from then on the status cannot change. Where the
status gives no DETAIL, the index of a stop string that ended the output stays (R93). DONE becomes DONE_SHORT where a search fell short (R159). The work still queued is discarded and its waits end. -/
def commitReq (s : State) (n status detail : Nat) : State :=
  match running s n with
  | none => s
  | some r =>
    let st := if status = 0 && r.out.short then 1 else status
    let s1 := modReq s n (fun r => { r with commit := some st, out := { r.out with detail := if detail = 0 then r.out.detail else detail } })
    dropSearches (dropQueued (dropBatches (dropWaits (cancelPeers s1 n r) n) n) n) n

/-- UNIT_FENCED with the unit and cause in DETAIL (R419). -/
def unitDetail (u : UnitId) (cause : Nat) : Nat := u.cls + 256 * u.idx + 65536 * cause

/-- A request ended because a module it needs is lost (R161, R206, R394). -/
def endPeer (s : State) (n peer : Nat) : State := commitReq s n 9 (unitDetail ⟨0x10, peer⟩ 7)

/-! ### The release (step 3 of R97) -/

/-- Pages removed from the Cage: their Lode and HOST frames are free (R315). -/
def dropPages (s : State) (p : PageKey → Bool) : State :=
  { s with cage := { s.cage with pages := s.cage.pages.filter (fun q => !p q.1) } }

/-- The pages of an object changed. -/
def modPages (s : State) (p : PageKey → Bool) (f : Page → Page) : State :=
  { s with cage := { s.cage with pages := s.cage.pages.map (fun q => if p q.1 then (q.1, f q.2) else q) } }

/-- The pages of an object of a claim. -/
def ofObj (c kind obj : Nat) (k : PageKey) : Bool := k.claim == c && k.kind == kind && k.obj == obj

/-- A reference to a prefix released: at 0 its pages and the prefix go (R223, R315). -/
def unrefPrefix (s : State) (h : Nat) : State :=
  match kget s.face.prefixes h with
  | none => s
  | some p =>
    if p.refs ≤ 1 then
      dropPages { s with face := { s.face with prefixes := kdel s.face.prefixes h } } (ofObj p.claim 4 h)
    else { s with face := { s.face with prefixes := kset s.face.prefixes h { p with refs := p.refs - 1 } } }

/-- The handle of an adapter slot's version (R254). -/
def adapterHandle (s : State) (i : Nat) : Nat := i + 16384 * (kgetD s.face.adapters i {}).gen.toNat

/-- The version a handle names, if it is not freed. -/
def adapterOf (s : State) (h : Nat) : Option AdapterVer :=
  let i := h % 16384
  if h / 16384 = (kgetD s.face.adapters i {}).gen.toNat then (kgetD s.face.adapters i {}).ver else none

/-- The state with the version of a handle changed. -/
def modAdapter (s : State) (h : Nat) (f : AdapterVer → AdapterVer) : State :=
  let i := h % 16384
  { s with face := { s.face with adapters := kmod s.face.adapters i (fun a => { a with ver := a.ver.map f }) } }

/-- The generation that follows one of an adapter slot: a slot's next, but for the one whose handle would be 0xFFFF_FFFF (R254). -/
def nextAdapterGen (i : Nat) (g : BitVec 18) : BitVec 18 := if i = 16383 && g + 1 == 0x3FFFF then g + 2 else g + 1

/-- A freed adapter version's pages (R315): those that hold a frame stay with stamp 0, to be dropped when chosen; a page that leaves
has been chosen, and one outside the Lode tier holds nothing any step will use: they are gone, HOST frames included. -/
def retireAdapter (s : State) (c h : Nat) : State :=
  let gone := fun (q : PageKey × Page) => ofObj c 3 h q.1 && q.2.st != .resident && q.2.st != .promoting
  modPages { s with cage := { s.cage with pages := s.cage.pages.filter (fun q => !gone q) } } (ofObj c 3 h)
    (fun p => { p with stamp := 0, passes := [] })

/-- A reference to an adapter version released: at 0 its slot is freed with a new generation, and its pages become
the oldest of the pool, with stamp 0 (R254, R315). -/
def unrefAdapter (s : State) (h : Nat) : State :=
  match adapterOf s h with
  | none => s
  | some v =>
    if v.refs ≤ 1 then
      let i := h % 16384
      let s1 := { s with face := { s.face with
        adapters := kmod s.face.adapters i (fun a => { gen := nextAdapterGen i a.gen, ver := none }) } }
      retireAdapter s1 v.claim h
    else modAdapter s h (fun v => { v with refs := v.refs - 1 })

/-- The pages, pins, buffers and references of a request released: private KV pages and the count table, the reservation,
the prefix and its pins, the adapter version (R97, R223, R254, R315). The bound recipe, templates and grammar go
with the request (R279). -/
def releaseReq (s : State) (n : Nat) (r : Req) : State :=
  let s1 := dropPages s (ofObj r.claim 1 n)
  let s2 := match r.bind.pfx with
    | none => s1
    | some h => unrefPrefix (modPages s1 (ofObj r.claim 4 h) (fun p => { p with bind := p.bind - 1 })) h
  let s3 := match r.bind.adapter with
    | none => s2
    | some h => unrefAdapter s2 h
  let s4 := { s3 with adit := { s3.adit with fetched := s3.adit.fetched.filter (fun x => x.1.1 != n) } }
  modReq s4 n (fun r => { r with released := true, steps := r.steps.map (fun x => { x with staging := none, bytes := 0 }), gen := { r.gen with granted := false, resv := 0 } })

/-- STREAM_HEAD_ADVANCE (R83): HEAD read anew, and the records that wait written. -/
def opStreamHeadAdvance (slot : BitVec 16) (head : W32) (s : State) : State :=
  if reach s then
    pumpStream (modReq (hlGot s 1 1) slot.toNat (fun r =>
      if r.hasStream then { r with stream := { r.stream with head := head } } else r)) slot.toNat
  else s

/-- The meaning of STREAM_HEAD_ADVANCE. -/
def execStreamHeadAdvance (slot : BitVec 16) (head : W32) (s : State) : Host.Outcome State Fault Refusal :=
  .next (opStreamHeadAdvance slot head s)

/-! ### The completion record (R84, R94, R96) -/

/-- OPCODE_RESULT of a request (R94). -/
def reqResult (r : Req) : List Byte :=
  leBytes 8 r.bind.epoch ++ leBytes 4 (r.bind.adapter.getD 0xFFFFFFFF) ++ leBytes 2 (min 65535 r.out.passages)
    ++ leBytes 1 (min 15 r.out.ties) ++ leBytes 1 0 ++ leBytes 4 (min (2 ^ 32 - 1) r.out.visited)
    ++ leBytes 4 (min (2 ^ 32 - 1) r.out.dups) ++ leBytes 4 (min (2 ^ 32 - 1) r.out.invalid)
    ++ leBytes 4 (min (2 ^ 32 - 1) r.out.accepted)

/-- The completion record of a committed request. -/
def reqRecord (r : Req) (status : Nat) : CplRec :=
  { o := r.origin, status := status, flags := r.out.flags, tokensIn := r.out.tokensIn
    tokensOut := r.out.tokensOut, detail := r.out.detail, result := reqResult r }

/-- COMPLETION_RECORD_WRITE (R84, R96): the record of a committed request that has released and ended its stream; the
slot becomes FREE with its generation advanced; the records that waited for it follow (R106), those of Watch arms
that did not fire among them (R447). -/
def opCompletionRecordWrite (slot : BitVec 16) (s : State) : State :=
  let n := slot.toNat
  match reqOf s n with
  | none => s
  | some r =>
    match r.commit with
    | none => s
    | some st =>
      if reach s && r.released && (!r.hasStream || r.stream.endSt == 2) then
        let s1 := putRecord s (reqRecord r st)
        let s2 := setSlot s1 n { gen := (slotOf s n).gen + 1, occ := none }
        let s3 := r.tail.foldl putRecord s2
        let mine := fun (a : Arm) => a.slot == n && a.fired.isNone
        let s4 := (s3.watch.arms.filter mine).foldl (fun s a => done s a.o 1 0) s3
        { s4 with watch := { s4.watch with arms := s4.watch.arms.filter (fun a => !mine a) } }
      else s

/-- The meaning of COMPLETION_RECORD_WRITE. -/
def execCompletionRecordWrite (slot : BitVec 16) (s : State) : Host.Outcome State Fault Refusal :=
  .next (opCompletionRecordWrite slot s)

end Sys2Proof.Machine
end

