-- ==== Sys2Proof/Machine/Cage.lean ====
section
/-! DEFINITION. The Cage (13): units in service, pools and frames, placement, victims, loads, write-back, deadlines
and quarantine; and the commands that name pages. -/

namespace Sys2Proof.Machine

/-! ### Units (18 R419 to R421) -/

/-- Whether a unit is in service: neither fenced nor being fenced or tested, nor retired, replaced or a spare (R404,
R408, R409, R421). -/
def unitOk (s : State) (cls idx : Nat) : Bool :=
  ((kget s.hf.fences ⟨cls, idx⟩).map (·.st)).getD 0 == 0 && !s.power.retired.contains ⟨cls, idx⟩
    && !s.power.replaced.contains ⟨cls, idx⟩ && !s.power.classSpares.any (fun p => p.1.2 == cls && p.2 == idx)

/-- A field of a claim's CLAIM section; 0 for a claim without one. -/
def ownOf (s : State) (c : Nat) (f : ClaimSec → Nat) : Nat := ((cfgOf s c).map (fun g => f g.own)).getD 0

/-- A claim's Lodes in ascending order. -/
def lodesOf (s : State) (c : Nat) : List Nat := bitList 12 (ownOf s c (·.lodeMask))

/-- A claim's Seams in ascending order. -/
def seamsOf (s : State) (c : Nat) : List Nat := bitList 64 (ownOf s c (·.seamMask))

/-- An error event recorded and counted by Headframe (R416): its class, and the unit and cause it names. -/
def faultEvent (s : State) (cls unit : Nat) : State :=
  let h := { s.hf with faultClass := cls, faultUnit := unit }
  let h1 := if cls = 4 then { h with cntUnit := satAdd 16 h.cntUnit 1 }
    else if cls = 3 then { h with cntShared := satAdd 16 h.cntShared 1 }
    else if cls = 2 then { h with cntRequest := satAdd 16 h.cntRequest 1 }
    else if cls = 5 then { h with cntLink := satAdd 16 h.cntLink 1 }
    else h
  { s with hf := h1 }

/-! ### Objects and their pages -/

/-- The bits of a weight element of a WEIGHT_FORMAT, and whether blocks of 32 carry a scale byte (R234). -/
def weightRow (fmt inputs : Nat) : Nat :=
  let b := (inputs * (if fmt = 0 then 4 else if fmt = 1 then 6 else if fmt = 4 then 16 else 8) + 7) / 8
  if fmt ≤ 2 then b + (inputs + 31) / 32 else b

/-- The lengths of a model's tensors in bytes, in order (R234). -/
def tensorBytes (m : ModelSec) (entries : Nat) : List Nat :=
  let q := m.qHeads * m.headDim
  let kv := m.kvHeads * m.headDim
  let w := weightRow m.weightFormat
  let layer := [2 * m.dModel, q * w m.dModel, kv * w m.dModel, kv * w m.dModel, m.dModel * w q, 2 * m.dModel,
    m.ffnDim * w m.dModel, m.ffnDim * w m.dModel, m.dModel * w m.ffnDim]
  let outs := if m.kind = 2 then m.outDim else if m.kind = 3 then 1 else entries
  (List.replicate m.layers layer).flatten ++ [2 * m.dModel, outs * w m.dModel]

/-- The place of page `i` of a weight blob among the tensors, given as page counts: the pages of its tensor and its
place in it. -/
def tensorPlace (ts : List Nat) (i : Nat) : Nat × Nat :=
  match ts with
  | [] => (1, 0)
  | t :: r => if i < t then (t, i) else tensorPlace r (i - t)

/-- The vocabulary size of a model. -/
def vocabSize (s : State) (c v : Nat) : Nat := ((vocabOf s c v).map (·.toks.length)).getD 0

/-- H of R189, the 16 KiB pages of a ledger's area. -/
def ledgerH (l : LedgerSec) : Nat := 1 + (l.maxRows + 131071) / 131072 + (l.maxRows * l.maxRowBytes + 8191) / 8192

/-- The pages of an object of a pool: a model's weight blob, an adapter's image, a ledger's area (R306). -/
def objectPages (s : State) (c kind obj : Nat) : Nat :=
  if kind = 2 then ((modelOf s c obj).map (fun m => (m.weightBytes + 65535) / 65536)).getD 0
  else if kind = 3 then ((adapterOf s obj).map (fun v => (v.bytes - 128 + 65535) / 65536)).getD 0
  else if kind = 5 then ((ledgerSecOf s c obj).map (fun l => (ledgerH l + 3) / 4)).getD 0
  else 0

/-- A page: as listed, or as created by the configuration: UNLOADED for WEIGHT, LOWER for LEDGER (R310, R311). -/
def pageOf (s : State) (k : PageKey) : Option Page :=
  match kget s.cage.pages k with
  | some p => some p
  | none =>
    if k.kind = 2 && decide (k.idx < objectPages s k.claim 2 k.obj) then some { st := .unloaded }
    else if k.kind = 5 && decide (k.obj < 64) && decide (k.idx < objectPages s k.claim 5 k.obj) then some { st := .lower }
    else none

/-- The state with a page set. -/
def setPage (s : State) (k : PageKey) (p : Page) : State :=
  { s with cage := { s.cage with pages := kset s.cage.pages k p } }

/-- The state without a page. -/
def delPage (s : State) (k : PageKey) : State :=
  { s with cage := { s.cage with pages := kdel s.cage.pages k } }

/-- The state with a page changed, if there is one. -/
def modPage (s : State) (k : PageKey) (f : Page → Page) : State :=
  match pageOf s k with
  | none => s
  | some p => setPage s k (f p)

/-- The listed pages of a pool of a claim. -/
def poolOf (s : State) (c kind : Nat) : List (PageKey × Page) :=
  s.cage.pages.filter (fun q => q.1.claim == c && q.1.kind == kind)

/-- A page used: its stamp becomes AGE, and AGE advances (R313). -/
def touch (s : State) (k : PageKey) : State :=
  let a := kgetD s.cage.ages (k.claim, k.kind) 0
  let s1 := { s with cage := { s.cage with ages := kset s.cage.ages (k.claim, k.kind) (a + 1) } }
  modPage s1 k (fun p => { p with stamp := a })

/-! ### Frames (R305, R309, R312) -/

/-- The frames of a pool that lie on a Lode: an even share (log 24). -/
def poolShare (s : State) (c kind lode : Nat) : Nat :=
  let ls := lodesOf s c
  match findIdx? (· == lode) ls with
  | none => 0
  | some i =>
    let p := poolPages s c kind
    p / ls.length + if i < p % ls.length then 1 else 0

/-- The frames of a pool on fenced Lodes (R422). -/
def fencedFrames (s : State) (c kind : Nat) : Nat :=
  (((lodesOf s c).filter (fun l => !unitOk s 1 l)).map (poolShare s c kind)).sum

/-- The frames a page holds: its own, and that of its old place until the fetches there are over (R201). -/
def Page.frames (p : Page) : List (Nat × Nat) := p.frame.toList ++ p.old.toList
/-- The frames of a pool that pages hold, on one Lode and in all. -/
def heldOn (s : State) (c kind lode : Nat) : Nat :=
  (((poolOf s c kind).map (fun q => q.2.frames)).flatten.filter (fun f => f.1 == lode)).length
def heldFrames (s : State) (c kind : Nat) : Nat := ((poolOf s c kind).map (fun q => q.2.frames)).flatten.length

/-- FREE of a pool. -/
def freeFrames (s : State) (c kind : Nat) : Nat := poolPages s c kind - fencedFrames s c kind - heldFrames s c kind

/-- Whether a pool has a free frame on a Lode. -/
def lodeFree (s : State) (c kind lode : Nat) : Bool :=
  unitOk s 1 lode && decide (heldOn s c kind lode < poolShare s c kind lode) && decide (0 < freeFrames s c kind)

/-- The lowest frame of a Lode that no page holds. -/
def frameNo (s : State) (lode : Nat) : Nat :=
  let used := ((s.cage.pages.map (fun q => q.2.frames)).flatten.filter (fun f => f.1 == lode)).map (·.2)
  ((List.range (used.length + 1)).find? (fun i => !used.contains i)).getD 0

/-- The HOST pool's frames that hold lower copies, the lowest free one, and how many are free. -/
def hostUsed (s : State) (c : Nat) : List Nat :=
  s.cage.pages.filterMap (fun q => if q.1.claim = c then q.2.host else none)
def hostFree (s : State) (c : Nat) : Nat := poolPages s c 0x10 - (hostUsed s c).length
def hostNo (s : State) (c : Nat) : Nat :=
  let used := hostUsed s c
  ((List.range (used.length + 1)).find? (fun i => !used.contains i)).getD 0

/-- BOOKED of a claim: the pages of its granted reservations (R242). -/
def booked (s : State) (c : Nat) : Nat :=
  (((requests s).filter (fun r => r.2.claim == c && r.2.gen.granted)).map (fun r => r.2.gen.resv)).sum

/-- The pages that reservations of a claim are granted against (R242, R309): those of its KV and HOST pools, less the HOST frames
that hold lower copies of shared pages. -/
def reservable (s : State) (c : Nat) : Nat :=
  poolPages s c 1 - fencedFrames s c 1 + (poolPages s c 0x10
    - (s.cage.pages.filter (fun q => q.1.claim == c && q.1.kind != 1 && q.2.host.isSome)).length)

/-- Whether a page can take a HOST frame for its lower copy (R309). -/
def canHost (s : State) (k : PageKey) : Bool :=
  if k.kind = 1 then decide (0 < hostFree s k.claim)
  else if k.kind = 2 || k.kind = 3 || k.kind = 4 then
    decide (booked s k.claim - poolPages s k.claim 1 < hostFree s k.claim)
  else false

/-! ### Placement (R240, R306, R307, R200) -/

/-- The layers of the generator and of its draft model whose KV an object's pages hold. -/
def kvLayers (s : State) (k : PageKey) : Nat :=
  let sum := fun (c m : Nat) =>
    match modelOf s c m with
    | none => 1
    | some g => g.layers + ((g.pair.bind (modelOf s c)).map (·.layers)).getD 0
  if k.kind = 4 then ((kget s.face.prefixes k.obj).map (fun p => sum p.claim p.model)).getD 1
  else (((reqOf s k.obj).bind (fun r => r.bind.recipe.bind (·.genModel))).map (sum k.claim)).getD 1

/-- The page number of a request's count table (R258). -/
def countTableIdx : Nat := 2 ^ 40

/-- The block of a KV page by its number: pages are numbered block by block, a block's layers in order, those of
the generator first. -/
def kvBlock (s : State) (k : PageKey) : Nat := if k.idx = countTableIdx then 0 else k.idx / max 1 (kvLayers s k)

/-- The place, among the claim's Lodes in ascending order, that the placement rule names for a page. -/
def homeIdx (s : State) (k : PageKey) : Nat :=
  let ls := lodesOf s k.claim
  let n := max 1 ls.length
  if k.kind = 1 then (kvBlock s k + k.obj) % n
  else if k.kind = 4 then (kvBlock s k + Config.pageHash k.obj) % n
  else if k.kind = 2 then
    match modelOf s k.claim k.obj with
    | none => 0
    | some m =>
      let ts := (tensorBytes m (vocabSize s k.claim m.vocab)).map (fun b => (b + 65535) / 65536)
      let (t, i) := tensorPlace ts k.idx
      if t < n then 0 else i / ((t + n - 1) / n)
  else if k.kind = 3 then k.idx % n
  else if k.obj < 64 then
    let b := k.idx % 4096
    match (kget s.store.ledgers (k.claim, k.obj)).bind (fun l => kget l.bins b) with
    | some lode => (findIdx? (· == lode) ls).getD 0
    | none => b % n
  else 0

/-- The Lode the placement rule names for a page. -/
def homeLode (s : State) (k : PageKey) : Nat := (lodesOf s k.claim).getD (homeIdx s k) 0

/-- The Lode that has a free frame for a page: the one its rule names, or the next in ascending order, wrapping round
(R305). -/
def placeFor (s : State) (k : PageKey) : Option Nat :=
  let ls := lodesOf s k.claim
  let i := homeIdx s k
  (ls.drop i ++ ls.take i).find? (lodeFree s k.claim k.kind)

/-! ### Lower copies and victims (R306, R314, R317) -/

/-- Every granule of a page. -/
def allGranules : Nat := 2 ^ 512 - 1

/-- Whether a page has a lower copy: a HOST frame, or a ledger's active area in flash. -/
def hasLower (k : PageKey) (p : Page) : Bool := p.host.isSome || (k.kind == 5 && decide (k.obj < 64))

/-- Whether a page has an alternate: its recorded address, while a HOST frame holds its lower copy. -/
def hasAlternate (k : PageKey) (p : Page) : Bool := (k.kind == 2 || k.kind == 3) && p.host.isSome

/-- A page that a mover moves. -/
def pageMoves (p : Page) : Bool := p.st == .promoting || (p.st == .demoting && p.wbStart) || p.copying

/-- The granules a write-back writes: those dirty, or every valid one where there is no lower copy (R317). -/
def dirtyOf (k : PageKey) (p : Page) : Nat :=
  if hasLower k p then p.dirty else if k.kind = 1 || k.kind = 4 then p.valid else allGranules

/-- Whether a page is clean and can be dropped at once. -/
def droppable (k : PageKey) (p : Page) : Bool := hasLower k p && dirtyOf k p == 0

/-- Whether a page belongs to an adapter version that is freed: dropped without write-back (R315). -/
def deadAdapter (s : State) (k : PageKey) : Bool := k.kind == 3 && (adapterOf s k.obj).isNone

/-- A page's pin count (R316). -/
def Page.pins (p : Page) : Nat := p.bind + p.cmd + p.passes.length + if p.perm then 1 else 0

/-- Who pins a page that a command creates, among the requests whose passes do (R219, R255). -/
def byCommand : Nat := 65536

/-- The requests that have a page's object bound (R316). -/
def boundTo (s : State) (k : PageKey) : Nat :=
  if k.kind = 4 then ((requests s).filter (fun r => r.2.claim == k.claim && !r.2.released && r.2.bind.pfx == some k.obj)).length else 0

/-- Whether a page is eligible as a victim (R314). -/
def eligible (s : State) (q : PageKey × Page) : Bool :=
  q.2.st == .resident && q.2.pins == 0 && (deadAdapter s q.1 || droppable q.1 q.2 || q.2.host.isSome || canHost s q.1)

/-- The victim of a pool: the eligible page of the lowest stamp, then lower Lode, then lower frame. -/
def victimOf (s : State) (c kind : Nat) : Option (PageKey × Page) :=
  let fr := fun (q : PageKey × Page) => q.2.frame.getD (0, 0)
  leastBy (fun a b => decide (a.2.stamp < b.2.stamp) || (a.2.stamp == b.2.stamp &&
    (decide ((fr a).1 < (fr b).1) || ((fr a).1 == (fr b).1 && decide ((fr a).2 < (fr b).2)))))
    ((poolOf s c kind).filter (eligible s))

/-- A RESIDENT page leaves the Lode tier (R311): dropped where it is clean, otherwise DEMOTING with a HOST frame. -/
def demote (s : State) (q : PageKey × Page) : State :=
  let (k, p) := q
  if deadAdapter s k then delPage s k
  else if droppable k p then setPage s k { p with st := .lower, frame := none }
  else
    let h := p.host.getD (hostNo s k.claim)
    if dirtyOf k p = 0 then setPage s k { p with st := .lower, frame := none, host := some h }
    else setPage s k { p with st := .demoting, host := some h, dirty := dirtyOf k p, again := 0, wbStart := false, cancel := false }

/-! ### Completions that pages bring -/

/-- Whether a page is RESIDENT. -/
def isResident (s : State) (k : PageKey) : Bool :=
  match pageOf s k with
  | some p => p.st == .resident
  | none => false

/-- The count of a completion in OPCODE_RESULT bytes 32 to 35. -/
def countResult (n : Nat) : List Byte := leBytes 4 (min n (2 ^ 32 - 1))

/-- What completes a waiting Cage command, if it is complete: its count (R325 to R327). -/
def cageDone (s : State) (b : CmdBody) : Option Nat :=
  match b with
  | .cagePin ks => if ks.all (isResident s) then some ks.length else none
  | .cageLoad ks => if ks.all (isResident s) then some ks.length else none
  | .cageEvict ks =>
    let st := ks.map (fun k => (pageOf s k).map (·.st))
    if st.any (· == some .demoting) then none else some ((st.filter (· != some .resident)).length)
  | _ => none

/-- The Cage commands that are complete end with DONE. -/
def settleCage (s : State) : State :=
  s.cmds.foldl (fun s x =>
    match cageDone s x.body with
    | none => s
    | some n => doneWith { s with cmds := s.cmds.filter (fun y => y != x) } x.o (countResult n)) s

/-- The completion of an image load or adjustment whose sections are all in effect (R55, R472). -/
def imageDone (s : State) (j : LoadJob) : State :=
  doneWith s j.origin (if j.mgmt then leBytes 8 j.imageId ++ leBytes 1 j.kind else [])

/-- One effect that a committed image waited for has come about; images that wait for none complete (R55). -/
def endEffect (s : State) (e : Effect) : State :=
  let less := fun (j : LoadJob) => { j with waits := j.waits.filter (· != e) }
  let h := s.hf.waiting.map less
  let (fin, rest) := (h.filter (fun j => j.waits.isEmpty), h.filter (fun j => !j.waits.isEmpty))
  let s1 := fin.foldl imageDone { s with hf := { s.hf with waiting := rest } }
  (List.range 4).foldl (fun s c =>
    match (claimOf s c).adjust with
    | none => s
    | some j =>
      if j.phase = 3 && (less j).waits.isEmpty then
        imageDone (modClaim s c (fun x => { x with adjust := none })) j
      else modClaim s c (fun x => { x with adjust := some (less j) })) s1

/-- Whether a pool holds no more pages than its PAGES: a shrink is then complete (R314). -/
def poolFits (s : State) (c kind : Nat) : Bool :=
  if kind = 0x10 then decide ((hostUsed s c).length ≤ poolPages s c 0x10)
  else decide (heldFrames s c kind ≤ poolPages s c kind - fencedFrames s c kind)

/-- The pools' shrinks that are complete. -/
def settlePools (s : State) : State :=
  (List.range 4).foldl (fun s c =>
    [1, 2, 3, 4, 5, 0x10].foldl (fun s k => if poolFits s c k then endEffect s (.pool c k) else s) s) s

/-- What follows when a page has become RESIDENT, has left the Lode tier or has gone. -/
def settlePages (s : State) : State := settlePools (settleCage s)

/-! ### Needs and allocations (R311, R314) -/

/-- The deadline of a wait for a page (R319): from the HOST tier or a recorded address, or from flash. -/
def deadlineFor (s : State) (k : PageKey) : Nat :=
  if k.kind = 5 then s.cage.flashUs.getD k.claim 0 else s.cage.hostUs.getD k.claim 0

/-- A page's allocation queued, once. -/
def queueAlloc (s : State) (k : PageKey) : State :=
  if s.cage.allocs.contains k then s else { s with cage := { s.cage with allocs := s.cage.allocs ++ [k] } }

/-- A waiter put on a page, once. -/
def addWaiter (p : Page) (w : Waiter) : Page :=
  let same := fun (v : Waiter) => match v, w with
    | .request a _, .request b _ => a == b
    | .command a, .command b => a == b
    | _, _ => false
  if p.waiters.any same then p else { p with waiters := p.waiters ++ [w] }

/-- A reference to a page (R311): one to a DEMOTING page cancels the drop (R318), and a page outside the tier is to get a frame
and its load. -/
def wantPage (s : State) (k : PageKey) : State :=
  match pageOf s k with
  | none => s
  | some p =>
    match p.st with
    | .resident | .quarantined | .promoting | .unloaded => s
    | .demoting => setPage s k (if p.wbStart then { p with cancel := true } else { p with st := .resident })
    | .lower | .invalid => queueAlloc s k

/-- A page needed in the Lode tier by a waiter, which waits where the page is not there; a command waits for a page whose write-back
has to finish first (R318, R325). -/
def needPage (s : State) (k : PageKey) (w : Waiter) : State :=
  match pageOf s k with
  | none => s
  | some p =>
    match p.st, w with
    | .demoting, .command _ => wantPage (if p.wbStart then setPage s k (addWaiter p w) else s) k
    | .demoting, .request .. | .resident, _ | .quarantined, _ => wantPage s k
    | .promoting, _ | .unloaded, _ | .lower, _ | .invalid, _ => wantPage (setPage s k (addWaiter p w)) k

/-- A request's need of a page, with the deadline of the wait; an UNLOADED page has no load to miss one (R234). -/
def needFor (s : State) (n : Nat) (k : PageKey) : State :=
  let dl := match pageOf s k with
    | some p => if p.st == .unloaded then 0 else deadlineFor s k
    | none => 0
  needPage s k (.request n dl)

/-- A page gets a frame on a Lode: a new page of KV, ADAPTER or PREFIX is RESIDENT; any other starts its load, from
the alternate when it is INVALID and has one (R311, R321). -/
def grantFrame (s : State) (k : PageKey) (lode : Nat) : State :=
  match pageOf s k with
  | none => s
  | some p =>
    let f := some (lode, frameNo s lode)
    if p.st == .unloaded && k.kind != 2 then setPage s k { p with st := .resident, frame := f, waiters := [] }
    else
      let src : LoadSrc := if p.src == .address then .address
        else if p.st == .invalid && hasAlternate k p then .alternate
        else if hasLower k p then .lower else .address
      setPage s k { p with st := .promoting, frame := f, src := src }

/-- The number under which a waiter's pass pins a page (R316). -/
def Waiter.pinNo (w : Waiter) : Nat :=
  match w with
  | .request n _ => n
  | .command _ => byCommand

/-- A page created RESIDENT by its writer (R311), which has it pinned (R316): at once where a frame is free or a victim frees one at
once; otherwise it is queued for a frame. `addr` is where a page of an adapter is read. -/
def createPage (s : State) (k : PageKey) (w : Waiter) (addr : Nat := 0) : State :=
  match pageOf s k with
  | some _ => s
  | none =>
    let s1 := setPage s k { st := .unloaded, passes := [w.pinNo], addr := addr }
    match placeFor s1 k with
    | some l => grantFrame s1 k l
    | none =>
      match victimOf s1 k.claim k.kind with
      | some v =>
        let s2 := demote s1 v
        (match placeFor s2 k with
          | some l => grantFrame s2 k l
          | none => queueAlloc (modPage s2 k (fun p => addWaiter p w)) k)
      | none => queueAlloc (modPage s1 k (fun p => addWaiter p w)) k

/-- The pages of a pool that are on their way out of the Lode tier. -/
def leaving (s : State) (c kind : Nat) : Nat :=
  ((poolOf s c kind).filter (fun q => q.2.st == .demoting && !q.2.cancel)).length

/-- FRAME_ALLOCATE (R314): a shrinking pool gives up a victim; otherwise the first allocation waiting on the pool takes
a free frame, or a victim leaves for it, or it waits. -/
def opFrameAllocate (claim kind : Nat) (s : State) : State :=
  let excess := heldFrames s claim kind - (poolPages s claim kind - fencedFrames s claim kind)
  if !alive s then s
  else if leaving s claim kind < excess then
    match victimOf s claim kind with
    | some v => settlePages (demote s v)
    | none => s
  else
    match s.cage.allocs.find? (fun k => k.claim == claim && k.kind == kind) with
    | none => s
    | some k =>
      let drop := fun (s : State) => { s with cage := { s.cage with allocs := s.cage.allocs.filter (· != k) } }
      if (pageOf s k).isNone then drop s
      else match placeFor s k with
        | some l => settlePages (grantFrame (drop s) k l)
        | none =>
          if leaving s claim kind = 0 then
            match victimOf s claim kind with
            | none => s
            | some v =>
              let s1 := demote s v
              (match placeFor s1 k with
                | some l => settlePages (grantFrame (drop s1) k l)
                | none => settlePages s1)
          else s

/-- The meaning of FRAME_ALLOCATE. -/
def execFrameAllocate (claim kind : Nat) (s : State) : Host.Outcome State Fault Refusal :=
  .next (opFrameAllocate claim kind s)

/-! ### Write-back (R318) -/

/-- The first granule that a write-back has still to write. -/
def nextGranule (p : Page) : Option Nat :=
  let m := p.dirty - (p.dirty &&& p.again)
  (List.range 512).find? m.testBit

/-- Where a page's HOST frame lies in companion memory (R308). -/
def hostAddr (s : State) (k : PageKey) (frame : Nat) : Nat := (s.cage.hostBase.getD k.claim 0).toNat + 65536 * frame

/-- A granule of a page's contents. -/
def Page.granule (p : Page) (g : Nat) : List Byte := padTo 128 ((p.data.drop (128 * g)).take 128)

/-- The command pins that a page's waiting CAGE_PIN commands take when it becomes RESIDENT (R325). -/
def pinsTaken (s : State) (k : PageKey) (ws : List Waiter) : Nat :=
  (ws.filter (fun w => match w with
    | .command o => s.cmds.any (fun x => x.o == o && (match x.body with
        | .cagePin ks => ks.contains k
        | _ => false))
    | .request .. => false)).length

/-- WRITEBACK_GRANULE_ACK: the granule is written to its place in the HOST frame (R308) and its DIRTY bit is cleared; after the last
one the page is LOWER, or RESIDENT where a reference cancelled the drop. -/
def opWritebackGranuleAck (page : PageKey) (granule : Nat) (s : State) : State :=
  match pageOf s page with
  | none => s
  | some p =>
    if dataUp s page.claim && p.st == .demoting && nextGranule p == some granule then
      let s0 := putHost s (hostAddr s page (p.host.getD 0) + 128 * granule) (p.granule granule)
      let p1 := { p with dirty := p.dirty - 2 ^ granule, wbStart := true }
      if (nextGranule p1).isSome then setPage s0 page p1
      else
        let p2 := if p1.cancel || p1.dirty != 0 then
            { p1 with st := .resident, cancel := false, wbStart := false, again := 0, bind := boundTo s page
                      cmd := p.cmd + pinsTaken s page p.waiters, waiters := [] }
          else { p1 with st := .lower, frame := none, wbStart := false, again := 0 }
        settlePages (setPage s0 page p2)
    else s

/-- The meaning of WRITEBACK_GRANULE_ACK. -/
def execWritebackGranuleAck (page : PageKey) (granule : Nat) (s : State) : Host.Outcome State Fault Refusal :=
  .next (opWritebackGranuleAck page granule s)

/-- Granules written by Face: valid and dirty; one whose write-back is over is dirty again (R317, R318). -/
def markGranules (p : Page) (m : Nat) : Page :=
  { p with
    valid := p.valid ||| m
    again := if p.st == .demoting && p.wbStart then p.again ||| (m - (m &&& p.dirty)) else p.again
    dirty := p.dirty ||| m }

/-! ### Loads (R311, R321, R322) -/

/-- The Lode whose page buffers serve a HOST page: the one its placement names, or the next in service (R245, R422). -/
def bufferLode (s : State) (k : PageKey) : Nat :=
  let ls := lodesOf s k.claim
  let i := homeIdx s k
  ((ls.drop i ++ ls.take i).find? (unitOk s 1)).getD (homeLode s k)

/-- The contents of an object of pages, from one byte on (R234, R306). -/
def objectBytes (s : State) (c kind obj n off len : Nat) : List Byte :=
  let pages := ((List.range n).map (fun i => padTo 65536 (((pageOf s ⟨c, kind, obj, i⟩).map (·.data)).getD []))).flatten
  (pages.drop off).take len

/-- A model whose every page has been loaded once: WEIGHT_DIGEST, the SHA-512 digest of its blob, is checked, and the model is READY
or BAD (R234). -/
def checkModel (s : State) (c m : Nat) : State :=
  match modelOf s c m with
  | none => s
  | some g =>
    let n := objectPages s c 2 m
    let got := (s.cage.pages.filter (fun q => q.1.claim == c && q.1.kind == 2 && q.1.obj == m && q.2.loaded)).length
    if kgetD s.face.models (c, m) 0 == 1 && n == got then
      if sha512 (objectBytes s c 2 m n 0 g.weightBytes) == g.weightDigest then
        { s with face := { s.face with models := kset s.face.models (c, m) 2 } }
      else { s with face := { s.face with models := kset s.face.models (c, m) 3, err := s.face.err ||| 8 } }
    else s

/-- The requests that wait for a page. -/
def waitSlots (ws : List Waiter) : List Nat :=
  ws.filterMap (fun w => match w with
    | .request n _ => some n
    | .command _ => none)

/-- PAGE_LOAD_DONE: the page becomes RESIDENT, its failures are forgotten, its waiters proceed and the pins that waited for it are
taken (R316); a load from the alternate is reported; a KV page gives its HOST frame back. `data` is what a load from an address in
companion memory, the recorded one or the alternate, has read; a lower copy holds what was written back. A copy into a page buffer
serves its pass, which has the buffer pinned until it has run or takes a turn (R330). -/
def opPageLoadDone (page : PageKey) (data : List Byte) (s : State) : State :=
  match pageOf s page with
  | none => s
  | some p =>
    if !alive s || (page.kind != 5 && !dataUp s page.claim) then s
    else if p.copying then
      setPage (hlGot s 1 (granules 65536)) page { p with copying := false, waiters := [], copied := p.copied ++ waitSlots p.waiters }
    else if p.st == .promoting then
      let alt := p.src == .alternate
      let s0 := if page.kind = 5 then s else hlGot s 1 (granules 65536)
      let p1 : Page := { p with
        st := .resident, fails := 0, waiters := [], loaded := true, src := .lower
        bind := boundTo s page, cmd := p.cmd + pinsTaken s page p.waiters, passes := dedup (p.passes ++ waitSlots p.waiters)
        host := if page.kind = 1 then none else if alt then none else p.host
        data := if page.kind = 5 || p.src == .lower then p.data else data.take 65536
        dirty := if page.kind = 1 then p.valid else p.dirty }
      let s1 := if (waitSlots p.waiters).length < p.waiters.length then touch (setPage s0 page p1) page else setPage s0 page p1
      let flagged := if alt then p.waiters.foldl (fun s w => match w with
          | .request n _ => modReq s n (fun r => r.flag flAlt)
          | .command _ => s) s1 else s1
      let s2 := if alt then { flagged with cage := { flagged.cage with err := flagged.cage.err ||| 8 } } else flagged
      settlePages (if page.kind = 2 then checkModel s2 page.claim page.obj else s2)
    else s

/-- The meaning of PAGE_LOAD_DONE. -/
def execPageLoadDone (load : LoadedPage) (s : State) : Host.Outcome State Fault Refusal :=
  .next (opPageLoadDone load.page load.data s)

/-- The OBJECT value of a page (R324). -/
def objectValue (k : PageKey) : Nat := k.kind * 2 ^ 56 + (k.obj % 2 ^ 32) * 2 ^ 24 + k.idx % 2 ^ 24

/-- A page QUARANTINED and recorded in CG_QUAR and CG_QUAR_ID (R322). -/
def quarantine (s : State) (k : PageKey) : State :=
  let s1 := modPage s k (fun p => { p with st := .quarantined, frame := none, waiters := [] })
  { s1 with cage := { s1.cage with
    quar := BitVec.ofNat 64 (k.claim * 2 ^ 60 + k.kind * 2 ^ 48 + k.idx % 2 ^ 24)
    quarId := BitVec.ofNat 64 (if k.kind = 4 then k.obj else objectValue k)
    err := s1.cage.err ||| 4 } }

/-- The waiters of a page end with a status (R321, R325): a request by itself, a command with what it had done. -/
def endWaiters (s : State) (ws : List Waiter) (status : Nat) : State :=
  ws.foldl (fun s w => match w with
    | .request n _ => commitReq s n status 0
    | .command o =>
      match s.cmds.find? (fun x => x.o == o) with
      | none => s
      | some x =>
        let s1 := { s with cmds := s.cmds.filter (fun y => y != x) }
        match x.body with
        | .cagePin ks => putRecord s1 { o := o, status := status, result := countResult (ks.filter (isResident s)).length }
        | .cageLoad ks => putRecord s1 { o := o, status := status, result := countResult (ks.filter (isResident s)).length }
        | .prefixCreate _ ad _ h =>
          done (match ad with
            | none => unrefPrefix s1 h
            | some a => unrefAdapter (unrefPrefix s1 h) a) o status 0
        | .adapterPublish i =>
          let h := adapterHandle s1 i
          done (dropPages (unrefAdapter s1 h) (ofObj o.claim 3 h)) o status 0
        | _ => done s1 o status 0) s

/-- PAGE_LOAD_UE (R321, R322): every waiter ends, the frame is freed, and the page is INVALID or, at the third failure
in a row, QUARANTINED. -/
def opPageLoadUe (page : PageKey) (s : State) : State :=
  match pageOf s page with
  | none => s
  | some p =>
    if alive s && (p.st == .promoting || p.copying) then
      let s0 := { s with cage := { s.cage with ueLoads := satAdd 24 s.cage.ueLoads 1, err := s.cage.err ||| 1 } }
      let s1 := faultEvent s0 (if page.kind = 1 then 2 else 3) 0
      let p1 : Page := { p with
        st := .invalid, frame := none, fails := p.fails + 1, waiters := [], copying := false, buf := none, src := .lower }
      let s3 := setPage s1 page p1
      let s4 := if p1.fails ≥ 3 then quarantine s3 page else s3
      settlePages (endWaiters s4 p.waiters 0x06)
    else s

/-- The meaning of PAGE_LOAD_UE. -/
def execPageLoadUe (page : PageKey) (s : State) : Host.Outcome State Fault Refusal := .next (opPageLoadUe page s)

/-- LOAD_DEADLINE_EXPIRE (R319): a request's wait for a page has passed its deadline, which is never 0; host loads
count no time while Hoistlink is not UP. -/
def opLoadDeadlineExpire (slot : BitVec 16) (page : PageKey) (s : State) : State :=
  let n := slot.toNat
  match pageOf s page with
  | none => s
  | some p =>
    let late := p.waiters.any (fun w => match w with
      | .request m d => m == n && d != 0
      | .command _ => false)
    if alive s && late && (page.kind == 5 || linkUp s) && (running s n).isSome then
      let s1 := { s with cage := { s.cage with late := satAdd 24 s.cage.late 1, err := s.cage.err ||| 2 } }
      commitReq s1 n 0x05 0
    else s

/-- The meaning of LOAD_DEADLINE_EXPIRE. -/
def execLoadDeadlineExpire (slot : BitVec 16) (page : PageKey) (s : State) : Host.Outcome State Fault Refusal :=
  .next (opLoadDeadlineExpire slot page s)

/-- An uncorrectable error counted on a Lode (LD_ECC). -/
def countLodeUe (s : State) (l : Nat) : State :=
  { s with cage := { s.cage with lodes := lmod s.cage.lodes l (fun d => { d with ue := satAdd 16 d.ue 1, err := d.err ||| 2 }) } }

/-- The commands that wait for a page to be RESIDENT (R325, R327). -/
def pageAwaited (s : State) (k : PageKey) : List Waiter :=
  s.cmds.filterMap (fun x => match x.body with
    | .cagePin ks | .cageLoad ks => if ks.contains k then some (.command x.o) else none
    | _ => none)

/-- A clean page whose frame is lost, in the state and with the HOST copy given: loaded again for the commands that wait for it, whose
pins are taken anew. A pass loads it again when it needs it. -/
def reloadPage (s : State) (k : PageKey) (p : Page) : State :=
  let ws := pageAwaited s k
  let s1 := setPage s k { p with
    frame := none, dirty := 0, again := 0, wbStart := false, cancel := false, waiters := [], cmd := p.cmd - pinsTaken s k ws }
  ws.foldl (fun s w => needPage s k w) s1

/-- A clean page whose frame returned uncorrectable data (R320): INVALID, without the HOST copy that a write-back had not finished. -/
def loadAgain (s : State) (k : PageKey) : State :=
  match pageOf s k with
  | none => s
  | some p => reloadPage s k { p with st := .invalid, host := if p.st == .demoting then none else p.host }

/-- A page lost with no source (R320, R422): QUARANTINED, which ends the commands that wait for it (R325). -/
def losePage (s : State) (k : PageKey) : State := endWaiters (quarantine s k) (pageAwaited s k) 0x07

/-- LODE_DRAM_UE (R320): uncorrectable data in the frame of a RESIDENT page. A private KV page that is not clean ends
its request; a clean page with another copy is INVALID without a failure; a dirty shared page is QUARANTINED. -/
def opLodeDramUe (page : PageKey) (s : State) : State :=
  match pageOf s page with
  | none => s
  | some p =>
    match p.frame with
    | none => s
    | some (l, _) =>
      if alive s && (p.st == .resident || p.st == .demoting) then
        let s1 := countLodeUe s l
        if page.kind = 1 && !droppable page p then
          let s2 := faultEvent { s1 with face := { s1.face with err := s1.face.err ||| 4 } } 2 0
          settlePages (commitReq (delPage s2 page) page.obj 0x06 0)
        else if droppable page p || page.kind == 2 || page.kind == 3 then
          settlePages (loadAgain (faultEvent s1 3 0) page)
        else settlePages (losePage (faultEvent s1 3 0) page)
      else s

/-- The meaning of LODE_DRAM_UE. -/
def execLodeDramUe (page : PageKey) (s : State) : Host.Outcome State Fault Refusal := .next (opLodeDramUe page s)

/-! ### Page buffers (R330) -/

/-- The page buffers of a Lode in use: each is pinned by the pass of one request (R312). -/
def buffersOn (s : State) (lode : Nat) : Nat := (s.cage.pages.filter (fun q => q.2.buf == some lode)).length

/-- The buffers of a Lode whose partials a request's pass has formed, free again (R330). -/
def freeBuffers (s : State) (n lode : Nat) : State :=
  modPages s (fun k => k.kind == 1 && k.obj == n) (fun p => if p.buf == some lode && !p.copying then { p with buf := none } else p)

/-- PAGE_BUFFER_GRANT: the first waiting pass of a Lode gets buffers for its HOST pages homed there, as many as are free; their
copies start. Where there are too few, it takes turns: the partials over the pages it has copied are formed, and their buffers
are free. -/
def opPageBufferGrant (lode : Nat) (s : State) : State :=
  match s.cage.lodes[lode]? with
  | none => s
  | some d =>
    match d.waiting with
    | [] => s
    | n :: rest =>
      let want := (s.cage.pages.filter (fun q => q.1.kind == 1 && q.1.obj == n && q.2.st == .lower && !q.2.copying
        && !q.2.copied.contains n && bufferLode s q.1 == lode)).map (·.1)
      let s0 := if 512 < buffersOn s lode + want.length then freeBuffers s n lode else s
      let used := buffersOn s0 lode
      if !(alive s && decide (used < 512)) then s
      else
        let got := want.take (512 - used)
        let s1 := got.foldl (fun s k => modPage s k (fun p =>
          addWaiter { p with copying := true, buf := some lode } (.request n (deadlineFor s k)))) s0
        { s1 with cage := { s1.cage with lodes := lmod s1.cage.lodes lode (fun d =>
          { d with peak := max d.peak (used + got.length), waiting := if got.length < want.length then n :: rest else rest }) } }

/-- The meaning of PAGE_BUFFER_GRANT. -/
def execPageBufferGrant (lode : Nat) (s : State) : Host.Outcome State Fault Refusal := .next (opPageBufferGrant lode s)

/-- A request's wait for a page buffer of a page's Lode. -/
def waitBuffer (s : State) (n : Nat) (k : PageKey) : State :=
  { s with cage := { s.cage with lodes := lmod s.cage.lodes (bufferLode s k) (fun d =>
    if d.waiting.contains n then d else { d with waiting := d.waiting ++ [n] }) } }

/-! ### What a step of a request needs -/

/-- The pages a step of a request needs: all at hand, or the waits begun; a QUARANTINED page ends the request with its
number in DETAIL (R322). Private KV pages in HOST are read through page buffers (R245). -/
def gatherPages (s : State) (n : Nat) (ks : List PageKey) : State × Bool :=
  ks.foldl (fun (acc : State × Bool) k =>
    let (s, ok) := acc
    match pageOf s k with
    | none => (s, ok)
    | some p =>
      match p.st with
      | .resident => (s, ok)
      | .quarantined => (commitReq s n 0x07 (k.idx % 2 ^ 32), false)
      | .lower =>
        if k.kind = 1 then
          if p.copied.contains n then (s, ok)
          else if p.copying then (setPage s k (addWaiter p (.request n (deadlineFor s k))), false)
          else (waitBuffer s n k, false)
        else (needFor s n k, false)
      | .demoting => (needFor s n k, ok)
      | _ => (needFor s n k, false)) (s, true)

/-- The pins of a request's pass on pages, and the page buffers it has used, free again (R316, R330). -/
def unpinPages (s : State) (n : Nat) (ks : List PageKey) : State :=
  ks.foldl (fun s k => modPage s k (fun p => { p with
    passes := p.passes.filter (· != n), copied := p.copied.filter (· != n), buf := if p.copied.contains n then none else p.buf })) s

/-- The pages used by a request's pass: stamped (R313), and pinned by it no more. -/
def usePages (s : State) (n : Nat) (ks : List PageKey) : State := ks.foldl touch (unpinPages s n ks)

/-! ### CAGE_PIN, CAGE_EVICT and CAGE_LOAD (R324 to R327) -/

/-- The pages an OBJECT and PAGES name for a tenant of a claim; none where R324 refuses them. -/
def namedPages (s : State) (c tenant obj pages : Nat) : Option (List PageKey) :=
  let typ := obj / 2 ^ 56
  let id := obj / 2 ^ 24 % 2 ^ 32
  let first := obj % 2 ^ 24
  let known := if typ = 2 then (modelOf s c id).isSome
    else if typ = 3 then
      (match adapterOf s id with
        | some v => v.claim == c && v.tenant == tenant
        | none => false)
    else if typ = 5 then (ledgerSecOf s c id).isSome
    else false
  let n := objectPages s c typ id
  let cnt := if pages = 0 then n - first else pages
  if known && decide (first < n) && decide (first + cnt ≤ n) then
    some ((List.range cnt).map (fun i => ⟨c, typ, id, first + i⟩))
  else none

/-- Whether a page is QUARANTINED; whether it cannot be evicted now (R326); whether a command pins it; whether it leaves or
can leave the Lode tier. -/
def isQuarantined (s : State) (k : PageKey) : Bool := (pageOf s k).any (fun p => p.st == .quarantined)
def isBusy (s : State) (k : PageKey) : Bool := (pageOf s k).any (fun p => p.st == .promoting || decide (0 < p.pins))
def isCmdPinned (s : State) (k : PageKey) : Bool := (pageOf s k).any (fun p => decide (0 < p.cmd))
def canLeave (s : State) (k : PageKey) : Bool := (pageOf s k).any (fun p =>
  p.st == .demoting || (p.st == .resident && (droppable k p || deadAdapter s k || p.host.isSome || canHost s k)))

/-- A Cage command kept until its pages are as it asks. -/
def waitCage (s : State) (o : Origin) (b : CmdBody) : State :=
  settleCage { s with cmds := s.cmds ++ [{ o := o, body := b, begun := true, needs := [], count := 0, total := 0 }] }

/-- The reserved bytes of CAGE_PIN (R91). -/
def cagePinZero (l : List Byte) : Bool := zeroAt l 29 99

/-- The pages of a pool that CAGE_PIN commands have still to pin: they count towards the 7/8 of the pool (R325, log 127). -/
def pinsDue (s : State) (c kind : Nat) : List PageKey :=
  (s.cmds.map (fun x => match x.body with
    | .cagePin ks => ks.filter (fun k => k.claim == c && k.kind == kind)
    | _ => [])).flatten

/-- CAGE_PIN (R325). -/
def opCagePin (d : Desc) (s : State) : State :=
  plainCommand s d 0x0C cagePinZero (fun s o l =>
    match namedPages s o.claim o.tenant (fld l 16 8) (fld l 24 4), byteAt l 28 with
    | none, _ => bad s o 0x16
    | some ks, 0 =>
      let kind := byteAt l 23
      let pinned := dedup (((poolOf s o.claim kind).filter (fun q => decide (0 < q.2.cmd))).map (·.1) ++ pinsDue s o.claim kind)
      let total := pinned.length + (ks.filter (fun k => !pinned.contains k)).length
      match ks.find? (isQuarantined s) with
      | some k => done s o 0x07 k.idx
      | none =>
        if 7 * poolPages s o.claim kind < 8 * total then done s o 0x0E 0
        else
          let s1 := ks.foldl (fun s k =>
            let s1 := needPage s k (.command o)
            if isResident s1 k then touch (modPage s1 k (fun p => { p with cmd := p.cmd + 1 })) k else s1) s
          waitCage s1 o (.cagePin ks)
    | some ks, 1 =>
      let on := ks.filter (isCmdPinned s)
      doneWith (on.foldl (fun s k => modPage s k (fun p => { p with cmd := p.cmd - 1 })) s) o (countResult on.length)
    | some _, _ => bad s o 0x16)

/-- The meaning of CAGE_PIN. -/
def execCagePin (d : Desc) (s : State) : Host.Outcome State Fault Refusal := .next (opCagePin d s)

/-- A RESIDENT page that can leave the Lode tier does. -/
def leavePage (s : State) (k : PageKey) : State :=
  match pageOf s k with
  | some p => if p.st == .resident && canLeave s k then demote s (k, p) else s
  | none => s

/-- CAGE_EVICT (R326). -/
def opCageEvict (d : Desc) (s : State) : State :=
  plainCommand s d 0x0D (fun l => zeroAt l 28 100) (fun s o l =>
    match namedPages s o.claim o.tenant (fld l 16 8) (fld l 24 4) with
    | none => bad s o 0x16
    | some ks =>
      match ks.find? (isBusy s) with
      | some k => done s o 0x0E k.idx
      | none =>
        let out := ks.filter (canLeave s)
        let s1 := out.foldl leavePage s
        settlePools (waitCage s1 o (.cageEvict out)))

/-- The meaning of CAGE_EVICT. -/
def execCageEvict (d : Desc) (s : State) : Host.Outcome State Fault Refusal := .next (opCageEvict d s)

/-- A page named by CAGE_LOAD with a source: loaded from its new recorded address, its HOST copy freed, its failures
forgotten (R311, R327). -/
def loadFrom (s : State) (k : PageKey) (addr : Nat) (o : Origin) : State :=
  match pageOf s k with
  | none => s
  | some p =>
    let p1 := addWaiter { p with addr := addr, host := none, src := .address } (.command o)
    match p.st with
    | .promoting => setPage s k p1
    | .resident => setPage s k { p with addr := addr, host := none }
    | .demoting => setPage s k { p with addr := addr, host := none, st := .resident, wbStart := false, cancel := false, dirty := 0, again := 0 }
    | .unloaded | .lower | .invalid | .quarantined =>
      queueAlloc (setPage s k { p1 with st := if p.st == .quarantined then .invalid else p.st, fails := 0 }) k

/-- CAGE_LOAD (R327). -/
def opCageLoad (d : Desc) (s : State) : State :=
  plainCommand s d 0x0E (fun l => zeroAt l 28 4 && zeroAt l 40 88) (fun s o l =>
    let src := fld l 32 8
    match namedPages s o.claim o.tenant (fld l 16 8) (fld l 24 4) with
    | none => bad s o 0x16
    | some ks =>
      if src != 0 && byteAt l 23 == 5 then bad s o 0x16
      else if src = 0 then
        match ks.find? (isQuarantined s) with
        | some k => done s o 0x07 k.idx
        | none => waitCage (ks.foldl (fun s k =>
            let s1 := needPage s k (.command o)
            if isResident s1 k then touch s1 k else s1) s) o (.cageLoad ks)
      else
        let m := (byteAt l 23, fld l 19 4)
        let s1 := if m.1 = 2 && kgetD s.face.models (o.claim, m.2) 0 = 0 then
          { s with face := { s.face with models := kset s.face.models (o.claim, m.2) 1 } } else s
        let s2 := (List.range ks.length).zip ks |>.foldl (fun s p => loadFrom s p.2 (src + 65536 * p.1) o) s1
        waitCage s2 o (.cageLoad ks))

/-- The meaning of CAGE_LOAD. -/
def execCageLoad (d : Desc) (s : State) : Host.Outcome State Fault Refusal := .next (opCageLoad d s)

/-! ### The release of a request (step 3 of R97) -/

/-- RETIRE_RELEASE (R97 steps 2 to 4): once its commands in engines have finished, what the request held is released, and its END record written, or due where
the ring is full or records are held before it. A page freed may complete a pool's shrink (R22, R55). -/
def opRetireRelease (slot : BitVec 16) (s : State) : State :=
  let n := slot.toNat
  match reqOf s n with
  | none => s
  | some r =>
    if alive s && r.commit.isSome && !r.released && !inEngines s n then
      let s1 := releaseReq s n r
      let s2 := modReq s1 n (fun r => { r with stream := { r.stream with endSt := if r.hasStream then 1 else 0 } })
      settlePages (pumpStream s2 n)
    else s

/-- The meaning of RETIRE_RELEASE. -/
def execRetireRelease (slot : BitVec 16) (s : State) : Host.Outcome State Fault Refusal :=
  .next (opRetireRelease slot s)

end Sys2Proof.Machine
end

