-- ==== Sys2Proof/Machine/Flash.lean ====
section
/-! DEFINITION. The Seams (14): the map, groups and their durability, placement in stripes, the watermark,
collection, and the journal. -/

namespace Sys2Proof.Machine

/-! ### Geometry (R331, R332) -/

/-- Die groups per channel. -/
def dieGroups : Nat := if Config.orderH then 2 else 1
/-- LPN_COUNT of a Seam. -/
def lpnCount : Nat := if Config.orderH then 197132288 else 98566144
/-- HF_LODE_AVAIL of a Lode: its frames less the flash map region (R334). -/
def lodeAvail : Nat := if Config.orderH then 2097152 - 131072 else 2097152 - 65536
/-- Stripes of a superblock. -/
def sbStripes : Nat := 1536

/-- A Seam. -/
def seamOf (s : State) (c : Nat) : SeamSt := kgetD s.flash.seams c {}
/-- The state with a Seam set. -/
def setSeam (s : State) (c : Nat) (v : SeamSt) : State := { s with flash := { s.flash with seams := kset s.flash.seams c v } }
/-- The state with a Seam changed. -/
def modSeam (s : State) (c : Nat) (f : SeamSt → SeamSt) : State := setSeam s c (f (seamOf s c))
/-- A seam die. -/
def dieOf (s : State) (n : Nat) : SeamDie := s.flash.dies.getD n {}
/-- The state with a seam die changed. -/
def modDie (s : State) (n : Nat) (f : SeamDie → SeamDie) : State :=
  { s with flash := { s.flash with dies := lmod s.flash.dies n f } }
/-- A journal record of 32 bytes in a seam die's buffer (R349). -/
def journalRec (s : State) (n : Nat) : State := modDie s n (fun d => { d with journal := min 1048576 (d.journal + 32) })
/-- A synchronous record, with the event that waits for it. -/
def journalSync (s : State) (n : Nat) (r : SyncRec) : State :=
  modDie (journalRec s n) n (fun d => { d with syncs := d.syncs ++ [r] })
/-- Bits set in SM_ERR of a Seam's die. -/
def smErr (s : State) (seam : Nat) (m : BitVec 7) : State := modDie s (seam / 16) (fun d => { d with err := d.err ||| m })

/-- Free superblocks of a die group: all but the 14 of checkpoints and journal, those in use and those dismantled. -/
def freeSbs (g : DieGroup) : Nat := 9922 - g.sbs.length - g.gone.length
/-- The data pages of a stripe (R332, R348). -/
def stripeData (g : DieGroup) : Nat := if g.dead = 0 then 7 else 6
/-- The erase count of the block of a die in a superblock, and the sum over the superblock's blocks, by which mean counts compare. -/
def eraseOf (g : DieGroup) (b die : Nat) : Nat := (kget g.blocks (b, die)).getD (kgetD g.erases b 0)
def eraseSum (g : DieGroup) (b : Nat) : Nat := ((List.range 8).map (eraseOf g b)).sum
/-- Every block's erase count of a superblock raised by 1. -/
def eraseBlocks (g : DieGroup) (b : Nat) : DieGroup :=
  { g with
    erases := kset g.erases b (kgetD g.erases b 0 + 1)
    blocks := g.blocks.map (fun x => if x.1.1 = b then (x.1, x.2 + 1) else x) }
/-- The highest and the lowest erase count of a die group's blocks, with superblocks dismantled left out (R345). -/
def eraseCounts (g : DieGroup) : List Nat :=
  let own := (g.erases.filter (fun e => !g.gone.contains e.1)).map (fun e => (List.range 8).map (eraseOf g e.1))
  own.flatten ++ kvals (g.blocks.filter (fun x => !khas g.erases x.1.1))
    ++ (if (g.erases.filter (fun e => !g.gone.contains e.1)).length + g.gone.length < 9922 then [0] else [])
def eraseMax (g : DieGroup) : Nat := (eraseCounts g).foldl max 0
def eraseMin (g : DieGroup) : Nat := (eraseCounts g).foldl min (eraseMax g)
/-- The free superblock of the lowest mean erase count, the lowest index among equals (R345): one never used where
there is one, else the least erased. -/
def pickFree (g : DieGroup) : Nat :=
  let used := kkeys g.sbs ++ g.gone
  let back := (g.erases.filter (fun e => !used.contains e.1)).map (·.1)
  let fresh := (List.range (used.length + g.erases.length + g.blocks.length + 1)).find? (fun b =>
    !used.contains b && !khas g.erases b && !g.blocks.any (fun x => x.1.1 == b))
  match fresh with
  | some b =>
    if b < 9922 then b
    else (leastBy (fun (x y : Nat) => decide (eraseSum g x < eraseSum g y) || (eraseSum g x == eraseSum g y && decide (x < y))) back).getD 0
  | none => 0

/-- The die within its group of data page `k` of stripe `p`: the dies in order but the parity's, (p mod 8), and those
retired. -/
def stripeDie (g : DieGroup) (p k : Nat) : Nat :=
  ((List.range 8).filter (fun d => d != p % 8 && !g.dead.testBit d)).getD k 0

/-- The die within its group of the parity page of stripe `p` (R332): where that die is retired, the last one remaining
(log 100). -/
def parityDie (g : DieGroup) (p : Nat) : Nat := if g.dead.testBit (p % 8) then stripeDie g p 6 else p % 8

/-- The open superblock of a die group. -/
def openSb (g : DieGroup) : Option Nat := (g.sbs.find? (fun b => b.2.st == 1)).map (·.1)

/-- The die group that takes a new page: the one with the most free superblocks. -/
def pickGroup (v : SeamSt) : Nat :=
  if dieGroups = 2 && freeSbs (v.dgs.getD 0 {}) < freeSbs (v.dgs.getD 1 {}) then 1 else 0

/-- A SEQ taken from a seam die's counter (R337). -/
def takeSeq (s : State) (die : Nat) : Nat × State :=
  ((dieOf s die).seq, modDie s die (fun d => { d with seq := d.seq + 1 }))

/-- A page queued in the open stripe of a Seam's die group (R332, R337): its SEQ and place; where the stripe is full its
parity page is queued and the next stripe opens; a superblock that is full closes. -/
def queueIn (s : State) (seam gi kind lpn : Nat) : GPage × State :=
  let die := seam / 16
  let g := (seamOf s seam).dgs.getD gi {}
  let (b, s1) := match openSb g with
    | some b => (b, s)
    | none =>
      let b := pickFree g
      (b, journalSync (modSeam s seam (fun v => { v with dgs := lmod v.dgs gi (fun g => { g with sbs := kset g.sbs b ⟨1, 0, 0, [], false⟩ }) }))
        die (.opened seam gi b))
  let g1 := (seamOf s1 seam).dgs.getD gi {}
  let sb := kgetD g1.sbs b ⟨1, 0, 0, [], false⟩
  let place : FlashPlace := ⟨8 * gi + stripeDie g1 sb.stripe sb.fill, b, sb.stripe⟩
  let w := (dieOf s1 die).water
  let (q, s2) := takeSeq s1 die
  let s3 := modSeam s2 seam (fun v => { v with queue := kset v.queue q ⟨kind, lpn, place, false, w⟩ })
  let full := decide (stripeData g1 ≤ sb.fill + 1)
  let s4 := if full then
      let (q2, s4) := takeSeq s3 die
      modSeam s4 seam (fun v => { v with queue := kset v.queue q2 ⟨1, 0xFFFFFFF, ⟨8 * gi + parityDie g1 sb.stripe, b, sb.stripe⟩, false, w⟩ })
    else s3
  let sb' : Sb := if full then
      { sb with stripe := sb.stripe + 1, fill := 0
                st := if sb.closing || decide (sbStripes ≤ sb.stripe + 1) then 2 else 1 }
    else { sb with fill := sb.fill + 1 }
  (⟨lpn, q, place⟩, modSeam s4 seam (fun v => { v with dgs := lmod v.dgs gi (fun g => { g with sbs := kset g.sbs b sb' }) }))

/-- A page queued in the die group that takes new pages. -/
def queuePage (s : State) (seam kind lpn : Nat) : GPage × State := queueIn s seam (pickGroup (seamOf s seam)) kind lpn

/-- Several pages queued in order. -/
def queuePages (s : State) (seam : Nat) (lpns : List Nat) : List GPage × State :=
  lpns.foldl (fun (acc : List GPage × State) l =>
    let (p, s1) := queuePage acc.2 seam 0 l
    (acc.1 ++ [p], s1)) ([], s)

/-- The watermark of a seam die (R339): below the first page of every group queued and not durable. -/
def waterOf (s : State) (die : Nat) : Nat :=
  let firsts := ((List.range 16).map (fun i =>
    (seamOf s (16 * die + i)).groups.filterMap (fun w => if w.queued then w.pages.head?.map (·.seq) else none))).flatten
  let d := dieOf s die
  match firsts with
  | [] => max d.water (d.seq - 1)
  | a :: r => max d.water ((r.foldl min a) - 1)

/-- Whether a group has still to wait before it is queued (R339, R340): an earlier group names one of its pages, a
current copy is above the watermark, or the free superblocks of a die group are few; collection, which frees superblocks,
does not wait on those. -/
def groupWaits (s : State) (seam : Nat) (w : WGroup) : Bool :=
  let v := seamOf s seam
  let d := dieOf s (seam / 16)
  let few := w.copyOf.isNone && (v.dgs.take dieGroups).any (fun g => decide (freeSbs g < 8))
  let earlier := v.groups.any (fun x => decide (x.ticket < w.ticket) && x.lpns.any w.lpns.contains)
  let above := w.lpns.any (fun l => match kget v.map l with
    | some e => decide (d.water < e.seq)
    | none => false)
  few || earlier || above || !d.admits || d.st != 2

/-- The state with a seam die's watermark brought up to date. -/
def passWater (s : State) (die : Nat) : State := modDie s die (fun d => { d with water := waterOf s die })

/-- Waiting groups queued where nothing holds them back, in order of issue. -/
def releaseGroups (s : State) (seam : Nat) : State :=
  (seamOf s seam).groups.foldl (fun s w =>
    if w.queued || groupWaits s seam w then s
    else
      let (ps, s1) := queuePages s seam w.lpns
      modSeam s1 seam (fun v => { v with groups := v.groups.map (fun x =>
        if x.ticket = w.ticket then { x with queued := true, pages := ps } else x) })) s

/-- A group issued on a Seam (R337). -/
def issueGroup (s : State) (seam : Nat) (lpns : List Nat) (copyOf : Option FlashPlace) : GroupId × State :=
  let t := (seamOf s seam).tickets
  let s1 := modSeam s seam (fun v => { v with
    tickets := t + 1, groups := v.groups ++ [{ ticket := t, lpns := dedup lpns, pages := [], queued := false, copyOf := copyOf }] })
  (⟨seam, t⟩, releaseGroups (passWater s1 (seam / 16)) seam)

/-- Groups issued for the pages of one Seam, of at most 4,096 pages each (R337). -/
def issueSeam (fuel : Nat) (s : State) (seam : Nat) (lpns : List Nat) : List GroupId × State :=
  match fuel, lpns with
  | 0, _ => ([], s)
  | _, [] => ([], s)
  | fuel + 1, _ =>
    let (g, s1) := issueGroup s seam (lpns.take 4096) none
    let (gs, s2) := issueSeam fuel s1 seam (lpns.drop 4096)
    (g :: gs, s2)

/-- Groups issued for pages of several Seams, those of a Seam together. -/
def issueAll (s : State) (pages : List (Nat × Nat)) : List GroupId × State :=
  (dedup (pages.map (·.1))).foldl (fun (acc : List GroupId × State) c =>
    let mine := dedup ((pages.filter (fun p => p.1 == c)).map (·.2))
    let (gs, s1) := issueSeam (mine.length + 1) acc.2 c mine
    (acc.1 ++ gs, s1)) ([], s)

/-! ### Durability (R338, R339) -/

/-- Two pages of one stripe. -/
def sameStripe (a b : FlashPlace) : Bool := a.die / 8 == b.die / 8 && a.block == b.block && a.page == b.page

/-- Whether the stripe of a place is filled: its superblock has gone on to a later stripe. -/
def stripeFilled (v : SeamSt) (p : FlashPlace) : Bool :=
  match kget (v.dgs.getD (p.die / 8) {}).sbs p.block with
  | none => true
  | some b => decide (p.page < b.stripe)

/-- Whether a queued page's stripe is complete. -/
def stripeComplete (v : SeamSt) (q : Nat × QPage) : Bool :=
  stripeFilled v q.2.place && (v.queue.filter (fun r => sameStripe r.2.place q.2.place)).all (fun r => r.2.done)

/-- The queue without the pages of complete stripes. -/
def dropComplete (v : SeamSt) : SeamSt := { v with queue := v.queue.filter (fun q => !stripeComplete v q) }

/-- The highest WATER of the pages of complete stripes that the queue still holds. -/
def completeWater (v : SeamSt) : Nat := ((v.queue.filter (stripeComplete v)).map (·.2.water)).foldl max 0

/-- Whether a queued group is durable: none of its pages waits in the queue any more. -/
def isDurable (v : SeamSt) (w : WGroup) : Bool := w.queued && w.pages.all (fun p => !khas v.queue p.seq)

/-- The durable groups of a Seam leave it: their map entries change together, with a MAP record a page; a collection
copy is kept until its map entry is looked at (R344). -/
def settleSeam (s : State) (seam : Nat) : List GroupId × State :=
  let s0 := modDie (modSeam s seam dropComplete) (seam / 16) (fun d => { d with star := max d.star (completeWater (seamOf s seam)) })
  let v := seamOf s0 seam
  let fin := v.groups.filter (isDurable v)
  let s1 := modSeam s0 seam (fun v => { v with groups := v.groups.filter (fun w => !isDurable v w) })
  let s2 := fin.foldl (fun s w =>
    w.pages.foldl (fun s p =>
      match w.copyOf with
      | some src => modSeam s seam (fun v => { v with copies := v.copies ++ [(p, src)] })
      | none => journalRec (modSeam s seam (fun v => { v with map := kset v.map p.lpn ⟨1, p.place, p.seq⟩ })) (seam / 16)) s) s1
  let s3 := passWater s2 (seam / 16)
  (fin.map (fun w => ⟨seam, w.ticket⟩), (List.range 16).foldl (fun s i => releaseGroups s (seam / 16 * 16 + i)) s3)

/-! ### Collection (R344 to R346) -/

/-- The valid pages of a superblock: the logical pages whose entry names it. -/
def validPages (v : SeamSt) (gi b : Nat) : List (Nat × MapEnt) :=
  v.map.filter (fun e => e.2.st == 1 && e.2.place.die / 8 == gi && e.2.place.block == b)

/-- The highest read count of a superblock's blocks. -/
def readsOf (b : Sb) : Nat := (b.reads.map (·.2)).foldl max 0

/-- The victim of a die group: read-worn superblocks first; then those that recovery closed (R353) and those with pages on
a retired die (R348); then, below 64 free superblocks, the least erased where wear is uneven, or the one with the fewest
valid pages. -/
def pickVictim (v : SeamSt) (gi : Nat) : Option Nat :=
  let g := v.dgs.getD gi {}
  let closed := g.sbs.filter (fun b => b.2.st == 2)
  let worn := closed.filter (fun b => decide (100000 ≤ readsOf b.2))
  let hurt := closed.filter (fun b => b.2.closing || (validPages v gi b.1).any (fun e => g.dead.testBit (e.2.place.die % 8)))
  let er := fun (b : Nat × Sb) => eraseSum g b.1
  let valid := fun (b : Nat × Sb) => (validPages v gi b.1).length
  if !worn.isEmpty then
    (leastBy (fun a b => decide (readsOf b.2 < readsOf a.2) || (readsOf a.2 == readsOf b.2 && decide (a.1 < b.1))) worn).map (·.1)
  else if !hurt.isEmpty then (leastBy (fun a b => decide (a.1 < b.1)) hurt).map (·.1)
  else if freeSbs g < 64 then
    if eraseMin g + 256 < eraseMax g then (leastBy (fun a b => decide (er a < er b) || (er a == er b && decide (a.1 < b.1))) closed).map (·.1)
    else (leastBy (fun a b => decide (valid a < valid b) || (valid a == valid b &&
      (decide (er a < er b) || (er a == er b && decide (a.1 < b.1))))) closed).map (·.1)
  else none

/-- The copies of a victim's valid pages that are not deferred, each a group of one page (R344). -/
def copyVictim (s : State) (seam gi : Nat) : State :=
  let v := seamOf s seam
  match (v.dgs.getD gi {}).victim with
  | none => s
  | some b =>
    let w := (dieOf s (seam / 16)).water
    let go := (validPages v gi b).filter (fun e => decide (e.2.seq ≤ w)
      && !v.groups.any (fun x => x.lpns.contains e.1) && !v.copies.any (fun x => x.1.lpn == e.1))
    go.foldl (fun s e => (issueGroup s seam [e.1] (some e.2.place)).2) s

/-- Collection of a Seam's die groups started where it is due, and gone on with. -/
def collect (s : State) (seam : Nat) : State :=
  (List.range dieGroups).foldl (fun s gi =>
    let v := seamOf s seam
    let s1 := if ((v.dgs.getD gi {}).victim).isSome then s
      else modSeam s seam (fun v => { v with dgs := lmod v.dgs gi (fun g => { g with victim := pickVictim v gi }) })
    copyVictim s1 seam gi) s

/-- A block of a superblock replaced by one of its die (R347): a block left over from a superblock dismantled, or that of a free
superblock, which is dismantled now: its other blocks are left for their dies. Which free superblock is taken is a choice: the one that
a new superblock would be (log 129). -/
def replaceBlock (g : DieGroup) (die b : Nat) : DieGroup :=
  let k := die % 8
  match kgetD g.spare k [] with
  | n :: rest => { g with spare := kset g.spare k rest, blocks := kset g.blocks (b, k) n, retired := g.retired + 1 }
  | [] =>
    let x := pickFree g
    { g with
      gone := g.gone ++ [x]
      spare := ((List.range 8).filter (· != k)).foldl (fun m d => kset m d (kgetD m d [] ++ [eraseOf g x d])) g.spare
      blocks := kset g.blocks (b, k) (eraseOf g x k), retired := g.retired + 1 }

/-- The event of a synchronous record, once it is programmed (R349): a block is retired, a checkpoint begins, which restarts the span
(R350), or is complete. An OPEN record lets pages be programmed. -/
def syncEvent (s : State) (die : Nat) (r : SyncRec) : State :=
  match r with
  | .opened .. => s
  | .retire seam gi d b => modSeam s seam (fun v => { v with dgs := lmod v.dgs gi (fun g => replaceBlock g d b) })
  | .ckptStart i => modDie s die (fun d => { d with ckpt := some i, spanPages := 0, spanStripes := 0 })
  | .ckptEnd => modDie s die (fun d => { d with ckpt := none })

/-- What a programmed journal brings about: the events of its synchronous records; and its pages carry the watermark. -/
def journalDone (s : State) (die : Nat) : State :=
  modDie ((dieOf s die).syncs.foldl (fun s r => syncEvent s die r) s) die (fun d => { d with star := max d.star d.water })

/-- A block to be retired (R347), which waits for its RETIRE record. -/
def retireBlock (s : State) (seam gi die b : Nat) : State := journalSync s (seam / 16) (.retire seam gi die b)

end Sys2Proof.Machine
end

