-- ==== Sys2Proof/Machine/Walk.lean ====
section
/-! DEFINITION. Pits as data (06, 07): locations and records, the upper walk, a strand's round, results, and what an
insert, a delete and a sweep do to a pit's contents. -/

namespace Sys2Proof.Machine

/-! ### Locations and records (R139 to R141) -/

/-- A location as its 8 bytes say it (R140). -/
def locOf (x : Nat) : Loc :=
  { chan := bits x 35 30, slot := bits x 29 0
    alt := if bits x 57 36 = 0x3FFFFF then none else some (bits x 63 58, bits x 57 36) }

/-- The 8 bytes of a primary location without alternate, as a number (R171). -/
def locValue (chan slot : Nat) : Nat := slot + chan * 2 ^ 30 + 0x3FFFFF * 2 ^ 36

/-- The global passage handle (R14). -/
def passageHandle (pit passage : Nat) : Nat := pit * 2 ^ 48 + passage * 2 ^ 8
/-- The passage number of a handle. -/
def passageOf (handle : Nat) : Nat := handle / 2 ^ 8 % 2 ^ 40

/-- The logical page of a record of a channel's node region and of its replica region. -/
def nodeLpn (p : PitSec) (chan slot : Nat) : Nat :=
  ((p.chans[chan]?).map (·.node.first)).getD 0 + p.recordSlots * slot / 8
def repLpn (p : PitSec) (chan idx : Nat) : Nat :=
  ((p.chans[chan]?).map (·.rep.first)).getD 0 + p.recordSlots * idx / 8
/-- The logical pages of a text extent by its offset and length in 64-byte units. -/
def textLpns (p : PitSec) (chan off len : Nat) : List Nat :=
  let f := ((p.chans[chan]?).map (·.text.first)).getD 0
  (List.range (if len = 0 then 0 else (off + len - 1) / 256 - off / 256 + 1)).map (fun i => f + off / 256 + i)

/-- A pit as a walk reads it: its section, its contents, and the pages that are LOST by channel. -/
structure PitView where
  sec : PitSec
  data : PitData
  lost : List (Nat × Nat)

/-- What reading a location gives: a node with its place, an EMPTY record, or an unreadable one (true for a forward
chain of more than 4). -/
inductive ReadRes where
  | node (chan slot : Nat) (r : NodeRec)
  | empty
  | unreadable (chain : Bool)

/-- A record read at its primary place, forwards followed (R141). -/
def readPrimary (v : PitView) (fuel chan slot : Nat) : ReadRes :=
  if v.lost.contains (chan, nodeLpn v.sec chan slot) then .unreadable false
  else match kget v.data.recs (chan, slot) with
    | none => .empty
    | some r =>
      if r.kind != 2 then .node chan slot r
      else match fuel, r.edges with
        | 0, _ => .unreadable true
        | _, [] => .empty
        | fuel + 1, l :: _ => readPrimary v fuel l.chan l.slot

/-- A location read on a channel: the primary, or the replica there, which is a full copy of the primary's record or a
forward to the primary (R184, R185). Where the slot has passed to another node's replica, the node it was displaced from is
reached as by a forward to its primary (log 96). -/
def readLoc (v : PitView) (here : Nat) (l : Loc) : ReadRes :=
  if l.chan = here then readPrimary v 4 l.chan l.slot
  else match l.alt with
    | none => readPrimary v 4 l.chan l.slot
    | some (c, i) =>
      if v.lost.contains (c, repLpn v.sec c i) then .unreadable false
      else match kget v.data.reps (c, i) with
        | none => .empty
        | some rep =>
          if rep.forward then readPrimary v 3 rep.chan rep.slot
          else if !(rep.chan == l.chan && rep.slot == l.slot) then readPrimary v 3 l.chan l.slot
          else match kget v.data.recs (rep.chan, rep.slot) with
            | none => .empty
            | some r =>
              if r.kind != 2 then .node rep.chan rep.slot r
              else match r.edges with
                | [] => .empty
                | l :: _ => readPrimary v 3 l.chan l.slot

/-- Whether a location has a copy on a channel. -/
def Loc.on (l : Loc) (here : Nat) : Bool :=
  l.chan == here || (match l.alt with | some (c, _) => c == here | none => false)

/-! ### Results (R154, R157) -/

/-- Whether one list entry comes before another: higher score, then lower handle. -/
def entBefore (a b : ListEnt) : Bool := before (a.score, a.handle) (b.score, b.handle)

/-- The best K entries of a sorted list and up to 15 more that tie with the last of them (R154). -/
def keepTies (k : Nat) (l : List ListEnt) : List ListEnt :=
  match (l.take k).getLast? with
  | none => l.take k
  | some e => l.take k ++ ((l.drop k).takeWhile (fun a => scoreKey a.score == scoreKey e.score)).take 15

/-- An entry added to a strand's results: each handle once. -/
def addResult (k : Nat) (l : List ListEnt) (e : ListEnt) : List ListEnt :=
  if l.any (fun a => a.handle == e.handle) then l else keepTies k (insertBy entBefore e l)

/-- Lists merged (R157): the entries of one handle collapsed into the one that sorts first, the rest in order, the
first K kept; the collapses, and the tied entries left out, at most 15. -/
def mergeLists (k : Nat) (ls : List (List ListEnt)) : List ListEnt × Nat × Nat :=
  let all := sortBy entBefore ls.flatten
  let uniq := all.foldl (fun acc e => if acc.any (fun (a : ListEnt) => a.handle == e.handle) then acc else acc ++ [e]) []
  let (kept, ties) := selectBest (fun e => (e.score, e.handle)) k uniq
  (kept, all.length - uniq.length, ties)

/-! ### The upper walk (R150) -/

/-- An entry of an upper beam: index, sign-bit score, and whether it is expanded. -/
structure UpEnt where
  idx : Nat
  score : Int
  expanded : Bool
deriving DecidableEq, Repr

/-- The order of an upper beam: sign-bit score, then lower index. -/
def upBefore (a b : UpEnt) : Bool := decide (b.score < a.score) || (a.score == b.score && decide (a.idx < b.idx))

/-- An index put into a beam of 32, once. -/
def upAdd (d : PitData) (lvl : Nat) (q : List Bool) (l : List UpEnt) (i : Nat) : List UpEnt :=
  if l.any (fun e => e.idx == i) then l
  else match kget d.upper (lvl, i) with
    | none => l
    | some u => (insertBy upBefore ⟨i, signScore q u.bits, false⟩ l).take 32

/-- A greedy beam of 32 at one level: the best entry not expanded is expanded until none is left. -/
def upBeam (d : PitData) (lvl : Nat) (q : List Bool) (fuel : Nat) (l : List UpEnt) : List UpEnt :=
  match fuel with
  | 0 => l
  | fuel + 1 =>
    match l.find? (fun e => !e.expanded) with
    | none => l
    | some e =>
      let l1 := l.map (fun x => if x.idx = e.idx then { x with expanded := true } else x)
      let nb := ((kget d.upper (lvl, e.idx)).map (·.nbrs)).getD []
      upBeam d lvl q fuel (nb.foldl (upAdd d lvl q) l1)

/-- The beams from the top level down to level `stop` (at least 1): the last one. -/
def upWalk (d : PitData) (q : List Bool) (stop : Nat) (lvl : Nat) (start : List Nat) : List UpEnt :=
  match lvl with
  | 0 => []
  | lvl + 1 =>
    let l := upBeam d (lvl + 1) q (d.upper.length + 1) (start.foldl (upAdd d (lvl + 1) q) [])
    if lvl + 1 ≤ stop then l
    else upWalk d q stop lvl (l.filterMap (fun e => (kget d.upper (lvl + 1, e.idx)).map (·.down)))

/-- The level-0 locations a search starts from, best first (R150). -/
def entryLocs (p : PitSec) (d : PitData) (q : List Bool) (n : Nat) : List Loc :=
  if p.levels = 0 then d.entries.filterMap id
  else
    let l := upWalk d q 1 p.levels (d.topEntries.filterMap id)
    (l.take n).filterMap (fun e => (kget d.upper (1, e.idx)).map (·.loc))

/-- The entries of strand `i` of `n`: i, i + n, i + 2n and i + 3n. -/
def strandEntries (locs : List Loc) (n i : Nat) : List Loc :=
  (List.range 4).filterMap (fun j => locs[i + j * n]?)

/-! ### A strand (R151 to R155) -/

/-- The filter bits of a location (R153). -/
def filterBits (l : Loc) : List Nat :=
  (List.range 4).map (fun i => Config.filterHash i (l.chan * 2 ^ 30 + l.slot) % 65536)
/-- Whether the filter reports a location visited. -/
def filterHas (f : List Nat) (l : Loc) : Bool := (filterBits l).all f.contains
/-- The filter with a location marked. -/
def filterMark (f : List Nat) (l : Loc) : List Nat := dedup (filterBits l ++ f)

/-- The order of a strand's list: initial entries, then score or estimate, then lower channel and slot (R151). -/
def walkBefore (a b : WalkEnt) : Bool :=
  let top := fun (e : WalkEnt) => e.initial && !e.resolved
  let tail := decide (a.loc.chan < b.loc.chan) || (a.loc.chan == b.loc.chan && decide (a.loc.slot < b.loc.slot))
  if top a != top b then top a
  else if top a then tail
  else decide (scoreKey b.est < scoreKey a.est) || (scoreKey a.est == scoreKey b.est && tail)

/-- What a walk asks: the query, K, BEAM, WIDTH, the strand's visit limit, the label, and which nodes count as results
(by epoch, or for an insert all that carry no DEL_EPOCH). -/
structure WalkAsk where
  q : QVec
  k : Nat
  beam : Nat
  width : Nat
  limit : Nat
  label : Option Nat
  epoch : Option Nat
  pit : Nat
  module : Nat

/-- DEL_EPOCH of a live node. -/
def liveEpoch : Nat := 2 ^ 64 - 1

/-- Whether a node is returnable (R164), or for an insert a candidate (R174). -/
def returnable (epoch : Option Nat) (r : NodeRec) : Bool :=
  match epoch with
  | some e => decide (r.ins ≤ e) && decide (e < r.del)
  | none => r.del == liveEpoch

/-- Whether a node matches a label. -/
def labelOk (label : Option Nat) (r : NodeRec) : Bool :=
  match label with
  | none => true
  | some l => r.labels.contains l

/-- A strand's capacity (R151, R155). -/
def capacityOf (a : WalkAsk) (t : Strand) : Nat :=
  if a.label.isSome && decide (t.results.length < a.k) then 1024 else a.beam

/-- A strand at its start (R150, R151): its initial entries marked and counted. -/
def strandStart (locs : List Loc) : Strand :=
  { engine := (locs.head?.map (·.chan)).getD 0, waiting := false
    list := sortBy walkBefore (locs.map (fun l => ⟨l, 0, true, false, false⟩))
    results := [], filter := locs.foldl filterMark [], visits := locs.length, done := locs.isEmpty, hit := false }

/-- The place that a channel's table of most-read slots counts a read of a node under: the primary's, or for a replica
its channel above 64 with its index (R183). -/
def readPlace (here : Nat) (l : Loc) (chan slot : Nat) : Nat × Nat :=
  if l.chan = here then (chan, slot)
  else match l.alt with
    | none => (chan, slot)
    | some (c, i) => (64 + c, i)

/-- What a round counts: records scored, unreadable entries dropped, forward chains, and the places read. -/
structure RoundEv where
  scored : Nat
  dropped : Nat
  chains : Nat
  reads : List (Nat × Nat)

/-- The first part of a round: entries with a copy here are read and scored, or dropped. -/
def resolveHere (v : PitView) (a : WalkAsk) (t : Strand) : Strand × RoundEv :=
  t.list.foldl (fun (acc : Strand × RoundEv) u =>
    let (t, ev) := acc
    if u.resolved || !u.loc.on t.engine then ({ t with list := t.list ++ [u] }, ev)
    else match readLoc v t.engine u.loc with
      | .empty => (t, ev)
      | .unreadable ch => (t, { ev with dropped := ev.dropped + 1, chains := ev.chains + if ch then 1 else 0 })
      | .node c sl r =>
        let sc := vecScore v.sec.vecFormat v.sec.metric a.q r.vec
        let e : ListEnt := ⟨passageHandle a.pit r.passage, sc, c, sl, a.module⟩
        let res := if returnable a.epoch r && labelOk a.label r then addResult a.k t.results e else t.results
        ({ t with list := t.list ++ [{ u with est := sc, resolved := true }], results := res }
        , { ev with scored := ev.scored + 1, reads := ev.reads ++ [readPlace t.engine u.loc c sl] }))
    ({ t with list := [] }, ⟨0, 0, 0, []⟩)

/-- The entries a strand has still to expand, best first. -/
def todoOf (a : WalkAsk) (t : Strand) : List WalkEnt := (t.list.take (capacityOf a t)).filter (fun e => !e.expanded)

/-- The edges of an expanded entry visited in order: each new one marked, counted and put on the list, until the limit
is passed. -/
def visitEdges (a : WalkAsk) (est : F32) (t : Strand) (es : List Loc) : Strand :=
  es.foldl (fun t n =>
    if t.done || filterHas t.filter n then t
    else
      let t1 := { t with filter := filterMark t.filter n, visits := t.visits + 1 }
      if a.limit < t1.visits then { t1 with done := true, hit := a.label.isSome }
      else { t1 with list := insertBy walkBefore ⟨n, est, false, false, false⟩ t1.list }) t

/-- One round of a strand on its engine (R151). A strand with nothing to expand stops; one with nothing to expand here
is to be handed off. -/
def strandRoundOf (v : PitView) (a : WalkAsk) (t : Strand) : Strand × RoundEv :=
  let (t1, ev) := resolveHere v a t
  let t2 := { t1 with list := (sortBy walkBefore t1.list).take (capacityOf a t1) }
  match todoOf a t2 with
  | [] => ({ t2 with done := true }, ev)
  | todo =>
    let loc := (todo.filter (fun e => e.resolved && e.loc.on t2.engine)).take a.width
    let t3 := loc.foldl (fun t e =>
      if t.done then t
      else
        let t1 := { t with list := t.list.map (fun x => if x.loc = e.loc then { x with expanded := true } else x) }
        match readLoc v t.engine e.loc with
        | .node _ _ r => visitEdges a e.est t1 r.edges
        | _ => t1) t2
    (t3, ev)

/-- Whether a strand waits to be handed off: every entry with a copy here has been read, it has entries to expand, and none of
them is here (R151). -/
def wantsHandoff (a : WalkAsk) (t : Strand) : Bool :=
  let todo := todoOf a t
  !t.done && !t.list.any (fun e => !e.resolved && e.loc.on t.engine) && !todo.isEmpty && !todo.any (fun e => e.loc.on t.engine)

/-- The channel a hand-off goes to (R152): the best entry's primary, or its alternate where that engine is less
loaded. -/
def handoffTarget (a : WalkAsk) (load : Nat → Nat) (t : Strand) : Nat :=
  match todoOf a t with
  | [] => t.engine
  | e :: _ =>
    match e.loc.alt with
    | some (c, _) => if load c < load e.loc.chan then c else e.loc.chan
    | none => e.loc.chan

/-- A whole walk of one strand (R174), the channel of each unreadable entry it dropped, and the places it read. -/
def walkAll (v : PitView) (a : WalkAsk) (fuel : Nat) (t : Strand) : Strand × List Nat × List (Nat × Nat) :=
  match fuel with
  | 0 => (t, [], [])
  | fuel + 1 =>
    if t.done then (t, [], [])
    else
      let (t1, ev) := strandRoundOf v a t
      let t2 := if wantsHandoff a t1 then { t1 with engine := handoffTarget a (fun _ => 0) t1 } else t1
      let (t3, n, rs) := walkAll v a fuel t2
      (t3, List.replicate ev.dropped t.engine ++ n, ev.reads ++ rs)

/-! ### Selection of neighbours (R174) -/

/-- select of R174: `order` compares candidates by their score against the base, `closer s c` says whether c scores
higher against the kept s than against the base. -/
def selectNbrs {α : Type} (order : α → α → Bool) (closer : α → α → Bool) (cap : Nat) (cands : List α) : List α :=
  let (kept, skipped) := (sortBy order cands).foldl (fun (acc : List α × List α) c =>
    if acc.1.length ≥ cap then acc
    else if acc.1.any (fun s => closer s c) then (acc.1, acc.2 ++ [c])
    else (acc.1 ++ [c], acc.2)) ([], [])
  kept ++ skipped.take (cap - kept.length)

/-- A node by its place: for selection. -/
structure Cand where
  loc : Loc
  vec : QVec
deriving DecidableEq, Repr

/-- select over nodes by vector scores. -/
def selectCands (p : PitSec) (base : QVec) (cap : Nat) (cs : List Cand) : List Cand :=
  let sc := fun (x y : QVec) => scoreKey (vecScore p.vecFormat p.metric x y)
  let ord := fun (a b : Cand) => decide (sc base b.vec < sc base a.vec) || (sc base a.vec == sc base b.vec &&
    (decide (a.loc.chan < b.loc.chan) || (a.loc.chan == b.loc.chan && decide (a.loc.slot < b.loc.slot))))
  selectNbrs ord (fun s c => decide (sc base c.vec < sc s.vec c.vec)) cap cs

/-- The node an edge leads to, if its record is readable, and whether it is unreadable. -/
def edgeCand (v : PitView) (l : Loc) : Option Cand × Bool :=
  match readPrimary v 4 l.chan l.slot with
  | .node _ _ r => (some ⟨l, r.vec⟩, false)
  | .empty => (none, false)
  | .unreadable _ => (none, true)

/-- The channels of the edges that lead to unreadable records. -/
def unreadEdges (v : PitView) (es : List Loc) : List Nat := (es.filter (fun l => (edgeCand v l).2)).map (·.chan)

/-- The replica of a node by its primary place, if it has one in use. -/
def replicaOf (d : PitData) (chan slot : Nat) : Option (Nat × Nat) :=
  (d.reps.find? (fun r => !r.2.forward && r.2.chan == chan && r.2.slot == slot)).map (·.1)

/-- A location with the ALT fields of its node's replica (R184). -/
def altOf (d : PitData) (l : Loc) : Loc :=
  match replicaOf d l.chan l.slot with
  | some r => { l with alt := some r }
  | none => { l with alt := none }

/-- The ALT fields of edges as their record is rewritten (R184). -/
def refreshAlt (d : PitData) (es : List Loc) : List Loc := es.map (altOf d)

/-- The upper entries and the entry table of nodes that a test names, with the ALT fields of their replicas (R184,
R185). -/
def refreshUpper (p : Loc → Bool) (d : PitData) : PitData :=
  let f := fun (l : Loc) => if p l then altOf d l else l
  { d with upper := d.upper.map (fun u => (u.1, { u.2 with loc := f u.2.loc })), entries := d.entries.map (fun e => e.map f) }

/-- A node's primary record rewritten. -/
def putRec (d : PitData) (chan slot : Nat) (r : NodeRec) : PitData :=
  { d with recs := kset d.recs (chan, slot) { r with edges := refreshAlt d r.edges } }

/-- The pages a rewrite of a node's record touches: its primary's and its replica's. -/
def recPages (p : PitSec) (d : PitData) (chan slot : Nat) : List (Nat × Nat) :=
  (chan, nodeLpn p chan slot) :: (match replicaOf d chan slot with
    | some (c, i) => [(c, repLpn p c i)]
    | none => [])

/-! ### Inserting (R171 to R176) -/

/-- What one item of a list did: its status, the pit, the location written back, the pages it wrote by channel, the channels of
the unreadable entries it met, and the places of the records it read (R183). -/
structure ItemRes where
  status : Nat
  data : PitData
  loc : Nat
  pages : List (Nat × Nat)
  unread : List Nat
  reads : List (Nat × Nat) := []

/-- An item refused with no effect. -/
def refuse (d : PitData) (st : Nat) : ItemRes := { status := st, data := d, loc := 0, pages := [], unread := [] }

/-- The length of a text extent as its header sizes it (R142). -/
def extentBytes (ext : List Byte) : Nat := 32 + fld ext 8 4 + 3 * fld ext 12 4 + 3 * fld ext 16 4

/-- The bytes of an insert item that are read to perform it (R172): its header, and of a well-sized item its vector, its
extent's header and the extent. -/
def itemNeeds (p : PitSec) (item : List Byte) : Nat :=
  let n := fld item 8 4
  let v := vecBytes p
  if n % 64 != 0 || decide (n < 64 + v + 32) then 64
  else if item.length < 64 + v + 32 then 64 + v + 32
  else min n (64 + v + extentBytes (item.drop (64 + v)))

/-- Whether an insert item's form is good (R172): its header, vector and extent within ITEM_BYTES. -/
def itemFormOk (p : PitSec) (item : List Byte) : Bool :=
  let n := fld item 8 4
  let v := vecBytes p
  let ext := (item.take n).drop (64 + v)
  let vec := slice item 64 v
  let scale : F32 := BitVec.ofNat 32 (fld item 12 4)
  n % 64 == 0 && decide (64 + v + 32 ≤ n) && vecFinite p.vecFormat vec &&
    !isNan32 scale && !isInf32 scale && (p.vecFormat == 0 || scale == 0x3F800000) &&
    !isInf32 (vecNorm p.vecFormat vec scale) && fld ext 0 5 == fld item 0 5 &&
    (p.runVocab0.isSome || fld ext 12 4 == 0) && (p.runVocab1.isSome || fld ext 16 4 == 0) &&
    decide ((extentBytes ext + 63) / 64 ≤ 65535) && decide (64 + v + extentBytes ext ≤ n)

/-- The free record slot of a channel, the lowest, if there is one. -/
def freeSlot (p : PitSec) (d : PitData) (chan : Nat) : Option Nat :=
  let cap := ((p.chans[chan]?).map (fun c => c.node.pages * 8 / p.recordSlots)).getD 0
  let used := d.recs.filterMap (fun r => if r.1.1 = chan then some r.1.2 else none)
  ((List.range (used.length + 1)).find? (fun i => !used.contains i)).filter (fun i => decide (i < cap))

/-- The place for an extent of `len` units in a channel's text region: the lowest gap that holds it. -/
def freeText (p : PitSec) (d : PitData) (chan len : Nat) : Option Nat :=
  let cap := 256 * ((p.chans[chan]?).map (·.text.pages)).getD 0
  let ext := d.texts.filterMap (fun t => if t.1.1 = chan then some (t.1.2, (t.2.length + 63) / 64) else none)
  let starts := 0 :: ext.map (fun e => e.1 + e.2)
  let ok := fun (o : Nat) => decide (o + len ≤ cap) && ext.all (fun e => decide (o + len ≤ e.1) || decide (e.1 + e.2 ≤ o))
  leastBy (fun a b => decide (a < b)) (starts.filter ok)

/-! ### Postings (R143) -/

/-- The bytes of a channel's posting region, and of its index. -/
def postCap (p : PitSec) (chan : Nat) : Nat := 16384 * ((p.chans[chan]?).map (·.post.pages)).getD 0
def postIndex (p : PitSec) : Nat := 16 * p.labelCount

/-- The index entry of a label (R143): the byte offset of its postings and their count. -/
def postEntry (d : PitData) (chan l : Nat) : Nat × Nat := (kgetD d.postAt (chan, l) 0, (kgetD d.posts (chan, l) []).length)

/-- The place for `n` postings of a label: where they lie, or else the lowest gap that holds them (DESIGN CHOICE, log 117). -/
def postPlace (p : PitSec) (d : PitData) (chan l n : Nat) : Option Nat :=
  let others := (d.postAt.filter (fun x => x.1.1 == chan && x.1.2 != l)).map (fun x => (x.2, 4 * (kgetD d.posts x.1 []).length))
  let ok := fun (o : Nat) => decide (o + 4 * n ≤ postCap p chan) &&
    others.all (fun x => decide (o + 4 * n ≤ x.1) || decide (x.1 + x.2 ≤ o))
  match (kget d.postAt (chan, l)).filter ok with
  | some o => some o
  | none => leastBy (fun a b => decide (a < b)) ((postIndex p :: others.map (fun x => x.1 + x.2)).filter ok)

/-- The pages of a channel's posting region that hold a label's index entry and its postings. -/
def postPages (p : PitSec) (d : PitData) (chan l : Nat) : List (Nat × Nat) :=
  let f := ((p.chans[chan]?).map (·.post.first)).getD 0
  let (o, n) := postEntry d chan l
  dedup ((chan, f + 16 * l / 16384) :: (List.range (if n = 0 then 0 else (o + 4 * n - 1) / 16384 - o / 16384 + 1)).map (fun i =>
    (chan, f + o / 16384 + i)))

/-- A slot added to a label's postings, which stay sorted, and the label's population raised; none where the region has no place. -/
def addPosting (p : PitSec) (chan slot : Nat) (d : PitData) (l : Nat) : Option PitData :=
  let list := insertBy (fun a b => decide (a < b)) slot (kgetD d.posts (chan, l) [])
  (postPlace p d chan l list.length).map (fun o => { d with
    posts := kset d.posts (chan, l) list, postAt := kset d.postAt (chan, l) o, pops := kset d.pops l (kgetD d.pops l 0 + 1) })

/-- A node's labels posted, in order. -/
def addPostings (p : PitSec) (chan slot : Nat) (ls : List Nat) (d : PitData) : Option PitData :=
  match ls with
  | [] => some d
  | l :: r => (addPosting p chan slot d l).bind (addPostings p chan slot r)

/-- A slot taken from a label's postings; the list shrinks in its place. -/
def dropPosting (chan slot : Nat) (d : PitData) (l : Nat) : PitData :=
  let list := (kgetD d.posts (chan, l) []).filter (· != slot)
  { d with
    posts := if list.isEmpty then kdel d.posts (chan, l) else kset d.posts (chan, l) list
    postAt := if list.isEmpty then kdel d.postAt (chan, l) else d.postAt
    pops := kset d.pops l (kgetD d.pops l 0 - 1) }

/-- The channel a new node goes to (R173), with its slot and text place; none where every channel is full. -/
def placeNode (p : PitSec) (d : PitData) (asked : Nat) (nbrs : List Cand) (len : Nat) : Option (Nat × Nat × Nat) :=
  let cs := bitList 64 p.seamMask
  let fits := fun (c : Nat) => match freeSlot p d c, freeText p d c len with
    | some s, some t => some (c, s, t)
    | _, _ => none
  if asked != 0xFF then fits asked
  else
    let count := fun (c : Nat) => (nbrs.filter (fun n => n.loc.chan == c)).length
    let pref := if nbrs.isEmpty then cs.headD 0
      else (leastBy (fun a b => decide (count b < count a)) cs).getD 0
    (cs.filter (fun c => decide (pref ≤ c)) ++ cs.filter (fun c => decide (c < pref))).findSome? fits

/-- The bytes of an upper entry (R144). -/
def upEntryBytes (p : PitSec) : Nat := roundUp (16 + p.dim / 8 + 4 * p.upperDegree) 16

/-- The levels a node reaches (R176): level l when its hash is below 2^(32 − 8l); every level where the top level is
empty. -/
def nodeLevels (p : PitSec) (d : PitData) (passage : Nat) : Nat :=
  let h := passage * 0x9E3779B97F4A7C15 % 2 ^ 64 / 2 ^ 32
  let top := d.upper.any (fun u => u.1.1 == p.levels)
  if p.levels != 0 && !top then p.levels
  else ((List.range p.levels).filter (fun l => decide (h * 2 ^ (8 * (l + 1)) < 2 ^ 32))).length

/-- The lowest unused index of an upper level. -/
def freeUpIdx (d : PitData) (lvl : Nat) : Nat :=
  let used := d.upper.filterMap (fun u => if u.1.1 = lvl then some u.1.2 else none)
  ((List.range (used.length + 1)).find? (fun i => !used.contains i)).getD 0

/-- select over upper entries of a level by sign-bit scores; ties go to the lower channel, then the lower slot, of their nodes
(R174, R176). -/
def selectUp (d : PitData) (lvl : Nat) (base : List Bool) (cap : Nat) (is : List Nat) : List Nat :=
  let bitsOf := fun (i : Nat) => ((kget d.upper (lvl, i)).map (·.bits)).getD []
  let place : Nat → Nat := fun i => ((kget d.upper (lvl, i)).map (fun u => u.loc.chan * 2 ^ 30 + u.loc.slot)).getD 0
  let ord := fun (a b : Nat) => decide (signScore base (bitsOf b) < signScore base (bitsOf a))
    || (signScore base (bitsOf a) == signScore base (bitsOf b) && decide (place a < place b))
  selectNbrs ord (fun s c => decide (signScore base (bitsOf c) < signScore (bitsOf s) (bitsOf c))) cap is

/-- A node added to one upper level, with back-edges (R176). -/
def addUpper (p : PitSec) (d : PitData) (lvl idx down : Nat) (loc : Loc) (bs : List Bool) : PitData :=
  let near := (upWalk d bs lvl p.levels (d.topEntries.filterMap id)).map (·.idx)
  let nb := selectUp d lvl bs p.upperDegree near
  let d1 := { d with upper := kset d.upper (lvl, idx) ⟨loc, down, bs, nb⟩ }
  nb.foldl (fun d n =>
    match kget d.upper (lvl, n) with
    | none => d
    | some u =>
      let nbrs := if u.nbrs.length < p.upperDegree then u.nbrs ++ [idx]
        else selectUp d lvl u.bits p.upperDegree (u.nbrs ++ [idx])
      { d with upper := kset d.upper (lvl, n) { u with nbrs := nbrs } }) d1

/-- A node added to the levels up to `top`, from level 1 up, so that DOWN names its entry below. -/
def addLevels (p : PitSec) (loc : Loc) (bs : List Bool) (top n : Nat) (down : Nat) (d : PitData) : PitData × Nat :=
  match n with
  | 0 => (d, down)
  | n + 1 =>
    let lvl := top - n
    let i := freeUpIdx d lvl
    addLevels p loc bs top n i (addUpper p d lvl i down loc bs)

/-- The lowest unused entry of the entry table filled (R176). -/
def fillEntry {α : Type} (l : List (Option α)) (v : α) : List (Option α) :=
  match l with
  | [] => []
  | none :: r => some v :: r
  | some a :: r => some a :: fillEntry r v

/-- The places that the records of some edges are read at, for their vectors. -/
def edgeReads (es : List Loc) : List (Nat × Nat) := es.map (fun l => (l.chan, l.slot))

/-- Back-edges from the neighbours to a new node (R175), the pages rewritten, the unreadable entries met and the places read. -/
def backEdges (p : PitSec) (lost : List (Nat × Nat)) (loc : Loc) (vec : QVec) (nbrs : List Cand) (d : PitData) :
    PitData × List (Nat × Nat) × List Nat × List (Nat × Nat) :=
  nbrs.foldl (fun (acc : PitData × List (Nat × Nat) × List Nat × List (Nat × Nat)) n =>
    let (d, pages, bad, reads) := acc
    match readPrimary ⟨p, d, lost⟩ 4 n.loc.chan n.loc.slot with
    | .node c sl r =>
      let here := reads ++ [(c, sl)]
      if r.edges.length < p.degree then (putRec d c sl { r with edges := r.edges ++ [loc] }, pages ++ recPages p d c sl, bad, here)
      else
        let cs := r.edges.map (edgeCand ⟨p, d, lost⟩)
        let keep := selectCands p r.vec p.degree (cs.filterMap (·.1) ++ [⟨loc, vec⟩])
        (putRec d c sl { r with edges := keep.map (·.loc) }, pages ++ recPages p d c sl, bad ++ unreadEdges ⟨p, d, lost⟩ r.edges,
          here ++ edgeReads r.edges)
    | _ => (d, pages, bad, reads)) (d, [], [], [])

/-- One insert item (R173 to R176), at the pending epoch P + 1. Of an item that breaks several checks the model reports FORMAT,
then LABEL, then CHANNEL, then FULL (R169 gives no order; DESIGN CHOICE, log 118); a posting region without a place is FULL (log 117). -/
def insertItem (p : PitSec) (pit : Nat) (lost : List (Nat × Nat)) (item : List Byte) (d : PitData) : ItemRes :=
  let vb := vecBytes p
  let labels := (List.range 8).map (fun i => fld item (16 + 2 * i) 2)
  let asked := byteAt item 32
  if !itemFormOk p item then refuse d 0x01
  else if labels.any (fun l => l != 0xFFFF && decide (p.labelCount ≤ l)) then refuse d 0x02
  else if asked != 0xFF && !(decide (asked < 64) && p.seamMask.testBit asked) then refuse d 0x07
  else
    let scale : F32 := BitVec.ofNat 32 (fld item 12 4)
    let raw := slice item 64 vb
    let vec : QVec := ⟨raw, scale, vecNorm p.vecFormat raw scale⟩
    let bs := signBits p.vecFormat raw
    let ext0 := (item.take (fld item 8 4)).drop (64 + vb)
    let len := (extentBytes ext0 + 63) / 64
    let ext := padTo (64 * len) (ext0.take (extentBytes ext0))
    let beam := min 512 (max 64 (2 * p.degree))
    let ask : WalkAsk := ⟨vec, beam, beam, max 1 p.expandWidth, 65536, none, none, pit, 0⟩
    let (t, bad1, reads1) := walkAll ⟨p, d, lost⟩ ask 200000 (strandStart (strandEntries (entryLocs p d bs 4) 1 0))
    let cands := (t.results.take beam).filterMap (fun e => (kget d.recs (e.chan, e.slot)).map (fun r => (⟨⟨e.chan, e.slot, none⟩, r.vec⟩ : Cand)))
    let nbrs := selectCands p vec p.degree cands
    let lv := nodeLevels p d (fld item 0 5)
    let upBytes := 64 + 8 * p.labelCount + 8 * 64 + (d.upper.length + lv) * upEntryBytes p
    match placeNode p d asked nbrs len with
    | none => refuse d 0x03
    | some (c, sl, off) =>
      if lv != 0 && decide (p.upperBytes < upBytes) then refuse d 0x03
      else
        let loc : Loc := ⟨c, sl, none⟩
        let ls := dedup (labels.filter (· != 0xFFFF))
        let node : NodeRec := ⟨1, fld item 0 5, d.p + 1, liveEpoch, vec, ls, off, len, nbrs.map (·.loc)⟩
        let d1 := putRec { d with texts := kset d.texts (c, off) ext } c sl node
        match addPostings p c sl ls d1 with
        | none => refuse d 0x03
        | some d2 =>
        let (d3, pages, bad2, reads2) := backEdges p lost loc vec nbrs d2
        let (d4, top) := addLevels p loc bs lv lv 0 d3
        let d5 := if p.levels = 0 then { d4 with entries := fillEntry d4.entries loc }
          else if lv = p.levels then { d4 with topEntries := fillEntry d4.topEntries top }
          else d4
        let post := dedup (ls.map (postPages p d2 c)).flatten
        ⟨0, { d5 with pend := d5.pend + 1 }, locValue c sl
        , (c, nodeLpn p c sl) :: (textLpns p c off len).map (fun x => (c, x)) ++ post ++ pages, bad1 ++ bad2, reads1 ++ reads2⟩

/-! ### Deleting (R177, R178) -/

/-- One delete item: DEL_EPOCH written at the place its location leads to; the record's ALT fields stay (R184). -/
def deleteItem (p : PitSec) (lost : List (Nat × Nat)) (item : List Byte) (d : PitData) : ItemRes :=
  let l := locOf (fld item 8 8)
  match readPrimary ⟨p, d, lost⟩ 4 l.chan l.slot with
  | .unreadable _ => { refuse d 0x06 with unread := [l.chan] }
  | .empty => refuse d 0x04
  | .node c sl r =>
    if r.passage != fld item 0 5 then refuse d 0x04
    else if r.del != liveEpoch then refuse d 0x05
    else ⟨0, { d with recs := kset d.recs (c, sl) { r with del := d.p + 1 }, pend := d.pend + 1 }, 0, recPages p d c sl, [], [(c, sl)]⟩

/-! ### Compaction (R181) -/

/-- The nodes of a pit, and those deleted and not compacted. -/
def nodesOf (d : PitData) : List ((Nat × Nat) × NodeRec) := d.recs.filter (fun r => r.2.kind == 1)
def deletedOf (d : PitData) : List ((Nat × Nat) × NodeRec) := (nodesOf d).filter (fun r => r.2.del != liveEpoch)

/-- One record visited by a sweep: edges to compactable nodes replaced, edges to forwards repointed, ALT fields gained;
the pages rewritten and unreadable edges dropped. A record that is LOST is passed over. -/
def repairRec (p : PitSec) (lost : List (Nat × Nat)) (dead : List (Nat × Nat)) (chan slot : Nat) (d : PitData) : ItemRes :=
  match kget d.recs (chan, slot) with
  | none => refuse d 0
  | some r =>
    if r.kind != 1 || lost.contains (chan, nodeLpn p chan slot) then refuse d 0
    else
      let v : PitView := ⟨p, d, lost⟩
      let step1 := r.edges.map (fun l => match readPrimary v 4 l.chan l.slot with
        | .node c sl _ => ({ l with chan := c, slot := sl } : Loc)
        | _ => l)
      let isDead := fun (l : Loc) => dead.contains (l.chan, l.slot)
      let es := if step1.any isDead then
          let more := ((step1.filter isDead).map (fun l => ((kget d.recs (l.chan, l.slot)).map (·.edges)).getD [])).flatten
          let all := (step1.filter (fun l => !isDead l) ++ more).filter (fun l => !(l.chan == chan && l.slot == slot))
          let live := all.filter (fun l => match readPrimary v 4 l.chan l.slot with
            | .node _ _ x => x.del == liveEpoch
            | _ => true)
          let cs := (dedup live).map (edgeCand v)
          (selectCands p r.vec p.degree (cs.filterMap (·.1))).map (·.loc)
        else step1
      ⟨0, putRec d chan slot { r with edges := es }, 0, recPages p d chan slot,
        if step1.any isDead then unreadEdges v step1 else [], (chan, slot) :: edgeReads r.edges⟩

/-- Whether the node of an upper entry carries no DEL_EPOCH. -/
def upLive (d : PitData) (lvl i : Nat) : Bool :=
  match (kget d.upper (lvl, i)).bind (fun u => kget d.recs (u.loc.chan, u.loc.slot)) with
  | some r => r.del == liveEpoch
  | none => false

/-- An upper entry's neighbours without removed entries, mended by select, which leaves out deleted nodes (R181). -/
def repairUpper (p : PitSec) (d : PitData) (gone : List (Nat × Nat)) : PitData :=
  let fix := fun (x : (Nat × Nat) × UpNode) =>
    let lvl := x.1.1
    let isGone := fun (i : Nat) => gone.contains (lvl, i)
    if x.2.nbrs.any isGone then
      let more := ((x.2.nbrs.filter isGone).map (fun i => ((kget d.upper (lvl, i)).map (·.nbrs)).getD [])).flatten
      let all := (dedup (x.2.nbrs.filter (fun i => !isGone i) ++ more)).filter (fun i => !isGone i && i != x.1.2 && upLive d lvl i)
      (x.1, { x.2 with nbrs := selectUp d lvl x.2.bits p.upperDegree all })
    else x
  { d with upper := (d.upper.map fix).filter (fun x => !gone.contains x.1) }

/-- The swept nodes freed (R181): records, extents, postings, populations, upper entries, the entry table, and
forwards that no edge names; the pages rewritten. -/
def freeSwept (p : PitSec) (dead : List (Nat × Nat)) (d : PitData) : PitData × List (Nat × Nat) :=
  let isDead := fun (c sl : Nat) => dead.contains (c, sl)
  let nodes := dead.filterMap (fun k => (kget d.recs k).map (fun r => (k, r)))
  let gone := (d.upper.filter (fun u => isDead u.2.loc.chan u.2.loc.slot)).map (·.1)
  let liveNbr := fun (k : Nat × Nat) => ((kget d.recs k).map (·.edges)).bind (fun es => es.find? (fun l =>
    !isDead l.chan l.slot && (match kget d.recs (l.chan, l.slot) with | some r => r.kind == 1 && r.del == liveEpoch | none => false)))
  let entries := d.entries.map (fun e => e.bind (fun l => if isDead l.chan l.slot then liveNbr (l.chan, l.slot) else some l))
  let liveUp := fun (i : Nat) => (kget d.upper (p.levels, i)).bind (fun u => u.nbrs.find? (fun n => !gone.contains (p.levels, n) && upLive d p.levels n))
  let topE := d.topEntries.map (fun e => e.bind (fun i => if gone.contains (p.levels, i) then liveUp i else some i))
  let d1 := repairUpper p { d with entries := entries, topEntries := topE } gone
  let d2 := nodes.foldl (fun d n => { n.2.labels.foldl (dropPosting n.1.1 n.1.2) d with
    recs := kdel d.recs n.1
    texts := kdel d.texts (n.1.1, n.2.textOff)
    reps := d.reps.filter (fun r => !(r.2.chan == n.1.1 && r.2.slot == n.1.2)) }) d1
  let named := fun (k : Nat × Nat) => d2.recs.any (fun r => r.2.edges.any (fun l => (l.chan, l.slot) == k))
  let altNamed := fun (k : Nat × Nat) => d2.recs.any (fun r => r.2.edges.any (fun l => l.alt == some k))
  ({ d2 with
    recs := d2.recs.filter (fun r => r.2.kind != 2 || named r.1)
    reps := d2.reps.filter (fun r => !r.2.forward || altNamed r.1) }
  , nodes.map (fun n => (n.1.1, nodeLpn p n.1.1 n.1.2))
    ++ dedup (nodes.map (fun n => (n.2.labels.map (postPages p d n.1.1)).flatten)).flatten)

/-! ### The upper area and the allocation maps as they lie in memory and flash (R144, R173, R179) -/

/-- The 8 bytes of a location (R140). -/
def locBytes (l : Loc) : List Byte :=
  leBytes 8 (l.slot + l.chan * 2 ^ 30 + (match l.alt with
    | none => 0x3FFFFF * 2 ^ 36
    | some (c, i) => i * 2 ^ 36 + c * 2 ^ 58))

/-- The entries of an upper level, up to its highest index. -/
def levelNodes (d : PitData) (lvl : Nat) : Nat := (d.upper.filterMap (fun u => if u.1.1 = lvl then some (u.1.2 + 1) else none)).foldl max 0

/-- The bytes of an upper entry, and of one not in use. -/
def upNodeBytes (p : PitSec) (u : Option UpNode) : List Byte :=
  match u with
  | none => List.replicate (upEntryBytes p) 0
  | some u =>
    let signs := (List.range (p.dim / 8)).map (fun i =>
      BitVec.ofNat 8 (((List.range 8).map (fun b => if u.bits.getD (8 * i + b) false then 2 ^ b else 0)).sum))
    padTo (upEntryBytes p) (locBytes u.loc ++ leBytes 4 u.down ++ leBytes 1 u.nbrs.length ++ leBytes 3 0 ++ signs
      ++ (u.nbrs.map (leBytes 4)).flatten)

/-- The bytes of the upper area (R144). -/
def upperArea (p : PitSec) (d : PitData) : List Byte :=
  let entry := fun (i : Nat) =>
    if p.levels = 0 then ((d.entries.getD i none).map locBytes).getD (List.replicate 8 0xFF)
    else ((d.topEntries.getD i none).map (leBytes 8)).getD (List.replicate 8 0xFF)
  padTo 64 (leBytes 1 p.levels ++ leBytes 1 0 ++ leBytes 2 64 ++ leBytes 4 0
    ++ ((List.range 6).map (fun i => leBytes 8 (levelNodes d (i + 1)))).flatten)
  ++ ((List.range p.labelCount).map (fun l => leBytes 8 (kgetD d.pops l 0))).flatten
  ++ ((List.range 64).map entry).flatten
  ++ ((List.range p.levels).map (fun i => ((List.range (levelNodes d (p.levels - i))).map (fun j =>
      upNodeBytes p (kget d.upper (p.levels - i, j)))).flatten)).flatten

/-- The 16 KiB pages of the upper area that differ between two contents of a pit. -/
def upperChanges (p : PitSec) (a b : PitData) : List Nat :=
  let x := upperArea p a
  let y := upperArea p b
  (List.range ((y.length + 16383) / 16384)).filter (fun i => slice x (16384 * i) 16384 != slice y (16384 * i) 16384)

/-- The bits of a channel's allocation map: one for each record slot of its node region, then one for each 64 bytes of its text
region (DESIGN CHOICE, log 86); and the pages of 64 KiB of the maps of a pit. -/
def mapSlots (p : PitSec) (chan : Nat) : Nat := ((p.chans[chan]?).map (fun c => c.node.pages * 8 / p.recordSlots)).getD 0
def mapBits (p : PitSec) (chan : Nat) : Nat := mapSlots p chan + 256 * ((p.chans[chan]?).map (·.text.pages)).getD 0
def mapPages (p : PitSec) : Nat :=
  (((bitList 64 p.seamMask).map (fun c => 16384 * ((mapBits p c + 131071) / 131072))).sum + 65535) / 65536

/-- The bits of a channel's allocation map that are set. -/
def mapSet (p : PitSec) (d : PitData) (chan : Nat) : List Nat :=
  d.recs.filterMap (fun r => if r.1.1 = chan then some r.1.2 else none) ++
    (d.texts.filterMap (fun t => if t.1.1 = chan then
      some ((List.range ((t.2.length + 63) / 64)).map (fun i => mapSlots p chan + t.1.2 + i)) else none)).flatten

/-- The pages of a channel's allocation map that differ between two contents of a pit. -/
def mapChanges (p : PitSec) (a b : PitData) (chan : Nat) : List Nat :=
  let x := mapSet p a chan
  let y := mapSet p b chan
  dedup ((x.filter (fun i => !y.contains i) ++ y.filter (fun i => !x.contains i)).map (· / 131072))

/-! ### Hot nodes (R183 to R185) -/

/-- The lowest free slot of a channel's replica region, if there is one. -/
def freeRep (p : PitSec) (d : PitData) (chan : Nat) : Option Nat :=
  let cap := ((p.chans[chan]?).map (fun c => c.rep.pages * 8 / p.recordSlots)).getD 0
  let used := d.reps.filterMap (fun r => if r.1.1 = chan then some r.1.2 else none)
  ((List.range (used.length + 1)).find? (fun i => !used.contains i)).filter (fun i => decide (i < cap))

/-- A replica of a node placed on a channel, in a free slot. -/
def addReplica (p : PitSec) (d : PitData) (chan : Nat) (node : Nat × Nat) : PitData :=
  match freeRep p d chan with
  | some i => { d with reps := kset d.reps (chan, i) ⟨node.1, node.2, false⟩ }
  | none => d

/-- Replication at the end of a channel's window (R183): nodes without a replica that the window read more than 8,192 times,
given with those reads, most-read first, at most 256, each on the least-read other channel that has a free replica slot. -/
def replicateHot (p : PitSec) (hot : List ((Nat × Nat) × Nat)) (reads : Nat → Nat) (chan : Nat) (d : PitData) : PitData :=
  let cs := (bitList 64 p.seamMask).filter (· != chan)
  let want := ((hot.filter (fun h => h.1.1 == chan && decide (8192 < h.2) && (replicaOf d h.1.1 h.1.2).isNone
    && (match kget d.recs h.1 with | some r => r.kind == 1 | none => false))).take 256)
  want.foldl (fun d h =>
    match leastBy (fun a b => decide (reads a < reads b)) (cs.filter (fun c => (freeRep p d c).isSome)) with
    | none => d
    | some c => addReplica p d c h.1) d

/-- Migration at the end of a window (R185): up to 64 replicas of an overloaded channel move to the least-read one, most
read first by `count`; each old slot becomes a forward, and the primary and the upper entry are rewritten. In a full
region the new replica takes the slot of the one read least, whose node is then reached as by a forward (log 96). -/
def migrateHot (p : PitSec) (count : Nat × Nat → Nat) (reads : Nat → Nat) (chan : Nat) (d : PitData) : PitData × Nat :=
  let cs := bitList 64 p.seamMask
  let total := (cs.map reads).sum
  match leastBy (fun a b => decide (reads a < reads b)) cs with
  | none => (d, 0)
  | some low =>
    if 3 * total < 2 * cs.length * reads chan && 4 * cs.length * reads low < 3 * total then
      let mine := d.reps.filter (fun r => r.1.1 == chan && !r.2.forward)
      let go := (sortBy (fun (a b : (Nat × Nat) × RepRec) => decide (count (64 + b.1.1, b.1.2) < count (64 + a.1.1, a.1.2))) mine).take 64
      go.foldl (fun (acc : PitData × Nat) r =>
        let (d, n) := acc
        let least := leastBy (fun (a b : (Nat × Nat) × RepRec) => decide (count (64 + a.1.1, a.1.2) < count (64 + b.1.1, b.1.2)))
          (d.reps.filter (fun x => x.1.1 == low && !x.2.forward))
        match (freeRep p d low).orElse (fun _ => least.map (·.1.2)) with
        | some i =>
          let d2 := { d with reps := kset (kset d.reps (low, i) { r.2 with forward := false }) r.1 { r.2 with forward := true } }
          (refreshUpper (fun l => l.chan == r.2.chan && l.slot == r.2.slot) d2, n + 1)
        | none => (d, n)) (d, 0)
    else (d, 0)

end Sys2Proof.Machine
end

