-- ==== Sys2Proof/Machine/Stores.lean ====
section
/-! DEFINITION. The stores of pits and ledgers: what is live and what is durable, and the commands of one pit or ledger
one at a time (07 R167, R168, 08 R202, 14 R338). -/

namespace Sys2Proof.Machine

/-! ### Pits -/

/-- A pit's store. -/
def pitOf (s : State) (c p : Nat) : PitStore := kgetD s.store.pits (c, p) {}
/-- The state with a pit's store changed. -/
def modPit (s : State) (c p : Nat) (f : PitStore → PitStore) : State :=
  { s with store := { s.store with pits := kset s.store.pits (c, p) (f (pitOf s c p)) } }

/-- The logical pages that are LOST on Seams, by Seam. -/
def lostPages (s : State) (mask : Nat) : List (Nat × Nat) :=
  ((bitList 64 mask).map (fun c => ((seamOf s c).map.filter (fun e => e.2.st == 2)).map (fun e => (c, e.1)))).flatten

/-- A pit as a walk reads it. -/
def pitView (s : State) (c p : Nat) (sec : PitSec) : PitView := ⟨sec, (pitOf s c p).live, lostPages s sec.seamMask⟩

/-- Unreadable entries and forward chains counted in DR_ERR of a seam die. -/
def countUnread (s : State) (die n chains : Nat) : State :=
  if n = 0 then s
  else { s with drift := { s.drift with
    unreadable := lmod s.drift.unreadable die (fun a => satAdd 32 a n)
    err := lmod s.drift.err die (fun e => e ||| 1 ||| (if chains = 0 then 0 else 2)) } }

/-- Unreadable entries counted, each in DR_ERR of its channel's seam die. -/
def countUnreads (s : State) (chans : List Nat) : State := chans.foldl (fun s c => countUnread s (c / 16) 1 0) s

/-- The groups that a pit's changes are still to become durable in. -/
def unsettled (t : PitStore) : List GroupId := dedup (t.snaps.map (·.1)).flatten

/-- A pit's contents changed, durable when its groups are: pages by channel. The groups that its durability waits for, those of the
changes before it included: changes become durable in their order (log 119). -/
def changePit (s : State) (c p : Nat) (d : PitData) (pages : List (Nat × Nat)) : List GroupId × State :=
  let s1 := modPit s c p (fun t => { t with live := d })
  let (gs, s2) := issueAll s1 pages
  (unsettled (pitOf s c p) ++ gs, modPit s2 c p (fun t => if gs.isEmpty && t.snaps.isEmpty then { t with dur := d } else { t with snaps := t.snaps ++ [(gs, d)] }))

/-- Reads counted for a channel's hot-node table and for its window (R183); a place above 64 is a replica's (`readPlace`). -/
def countReads (t : PitStore) (ps : List (Nat × Nat)) : PitStore :=
  ps.foldl (fun t k => { t with
    hot := kset t.hot k (kgetD t.hot k 0 + 1), window := kset t.window k (kgetD t.window k 0 + 1)
    reads := kset t.reads (k.1 % 64) (kgetD t.reads (k.1 % 64) 0 + 1) }) t

/-- The oldest epoch held of a pit on this module (R165, R186): by requests that have not retired, and by peers' queries from their
arrival, those still in a receive buffer among them. -/
def oldestEpoch (s : State) (c p : Nat) : Nat :=
  let mine := (requests s).filterMap (fun r => if r.2.claim = c && r.2.bind.pit = some p && r.2.commit.isNone then some r.2.bind.epoch else none)
  let peers := (kvals s.drift.searches).filterMap (fun x => match x.owner with
    | .peer .. => if x.claim = c && x.pit = p then some x.epoch else none
    | .request .. => none)
  let held := s.adit.held.filterMap (fun h =>
    if h.cls = 1 && linkOwner s h.link == some c && h.msg.object == p then some h.epoch else none)
  (mine ++ peers ++ held).foldl min (pitOf s c p).live.p

/-! ### Ledgers -/

/-- A ledger's store. -/
def ledgerOf (s : State) (c l : Nat) : LedgerStore := kgetD s.store.ledgers (c, l) {}
/-- The state with a ledger's store changed. -/
def modLedger (s : State) (c l : Nat) (f : LedgerStore → LedgerStore) : State :=
  { s with store := { s.store with ledgers := kset s.store.ledgers (c, l) (f (ledgerOf s c l)) } }
/-- The gather state of a claim, and the state with it changed. -/
def gatherOf (s : State) (c : Nat) : GatherClaim := s.store.gather.getD c {}
def modGather (s : State) (c : Nat) (f : GatherClaim → GatherClaim) : State :=
  { s with store := { s.store with gather := lmod s.store.gather c f } }
/-- Bits set in LG_ERR. -/
def lgErr (s : State) (m : BitVec 5) : State := { s with store := { s.store with lgErr := s.store.lgErr ||| m } }

/-- The contents of a row: zeros where nothing wrote it. -/
def rowBytes (d : LedgerData) (r : Nat) : List Byte := padTo d.hdr.rowBytes ((kgetD d.rows r {}).cur)

/-- Whether a row lies in the table. -/
def rowIn (d : LedgerData) (r : Nat) : Bool := decide (r < d.hdr.rows)

/-- A look-up of a row (R192): zeros at or above ROWS, counted. -/
def lookupRow (s : State) (c l r : Nat) : List Byte × State :=
  let d := (ledgerOf s c l).live
  if rowIn d r then (rowBytes d r, s)
  else (List.replicate d.hdr.rowBytes 0, lgErr { s with store := { s.store with oor := satAdd 32 s.store.oor 1 } } 1)

/-- A row's current contents replaced in its slot (R195). -/
def putRow (d : LedgerData) (r : Nat) (bs : List Byte) : LedgerData :=
  { d with rows := kset d.rows r { kgetD d.rows r {} with cur := bs } }

/-- A row written in the slot that is not current, which becomes current (R203). -/
def flipRow (d : LedgerData) (r : Nat) (bs : List Byte) : LedgerData :=
  let o := kgetD d.rows r {}
  { d with rows := kset d.rows r { slot := 1 - o.slot, cur := bs, other := o.cur } }

/-- The 16 KiB page of an area that holds a row (R191). -/
def rowPage (l : LedgerSec) (d : LedgerData) (r : Nat) : Nat :=
  1 + (l.maxRows + 131071) / 131072 + r / max 1 (8192 / d.hdr.rowBytes)

/-- The page of an area that holds a row's bit of the version bitmap. -/
def bitPage (r : Nat) : Nat := 1 + r / 131072

/-- Where page `p` of an area lies (R189): Seam and logical page. -/
def areaPlace (l : LedgerSec) (area p : Nat) : Nat × Nat :=
  let ss := bitList 64 l.seamMask
  let m := max 1 ss.length
  let c := ss.getD (p % m) 0
  let reg := l.areas.getD c ⟨0, 0⟩
  (c, reg.first + (if area = 0 then 0 else reg.pages / 2) + p / m)

/-- The Lode page of a row, and its bin (R200, R306). -/
def rowKey (s : State) (c l r : Nat) : PageKey :=
  match ledgerSecOf s c l with
  | none => ⟨c, 5, l, 0⟩
  | some sec => ⟨c, 5, l, rowPage sec (ledgerOf s c l).live r / 4⟩

/-! ### Gather and scatter (R194 to R200) -/

/-- Whether a claim may use a gather port that is in service. -/
def portOk (s : State) (c port : Nat) : Bool :=
  decide (port < 8) && (ownOf s c (·.gather)).testBit port && unitOk s 9 port

/-- The gather unit of a look-up (R194): that of the port, or by bit 0 of the row's bin where the claim holds ports on
both units. -/
def gatherUnit (s : State) (c l port r : Nat) : Nat :=
  let m := ownOf s c (·.gather)
  if m % 16 != 0 && m / 16 != 0 then (rowKey s c l r).idx % 4096 % 2 else port / 4

/-- The counters of a row in the claim's sketch (R198). -/
def sketchKeys (l r : Nat) : List Nat := (List.range 4).map (fun i => Config.filterHash (i + 4) (l * 2 ^ 40 + r) % 1048576)
/-- The sketch count of a row. -/
def sketchCount (g : GatherClaim) (l r : Nat) : Nat := (sketchKeys l r).foldl (fun a k => min a (kgetD g.sketch k 0)) 15

/-- The entries of a claim's row cache: 1,024 a unit of 4 MiB (log 25); the set of a row. -/
def cacheSize (s : State) (c : Nat) : Nat := 1024 * ownOf s c (·.rowCache)
def cacheSet (s : State) (c l r : Nat) : Nat := Config.filterHash 8 (l * 2 ^ 40 + r) % max 1 (cacheSize s c / 16)

/-- Whether an entry is the one of a row's current contents (R198). -/
def entryIs (d : LedgerData) (l r : Nat) (e : CacheEnt) : Bool :=
  e.ledger == l && e.row == r && e.area == d.active && e.slot == (kgetD d.rows r {}).slot

/-- A hot row pinned where pins leave room in a quarter of the cache (R199). -/
def pinHot (s : State) (c l r : Nat) : State :=
  let thr := ((ledgerSecOf s c l).map (·.hotThreshold)).getD 0
  let g := gatherOf s c
  let d := (ledgerOf s c l).live
  if thr = 0 || sketchCount g l r < thr || !g.cache.any (fun e => entryIs d l r e && !e.pinned) then s
  else if 4 * ((g.cache.filter (·.pinned)).length + 1) ≤ cacheSize s c then
    modGather s c (fun g => { g with cache := g.cache.map (fun e => if entryIs d l r e then { e with pinned := true } else e) })
  else lgErr s 4

/-- Whether an entry is of a row. -/
def CoalEnt.isFor (e : CoalEnt) (c l r : Nat) : Bool := e.claim == c && e.ledger == l && e.row == r

/-- Whether a unit's window has an entry of a row; whether it is full, so that the ports of the unit stall (R196). -/
def windowHas (s : State) (u c l r : Nat) : Bool := (s.store.windows.getD u []).any (·.isFor c l r)
def windowFull (s : State) (u : Nat) : Bool := decide (4096 ≤ (s.store.windows.getD u []).length)

/-- Whether a look-up or a scatter-add at a port stalls: the window of the port's unit, or that of the unit it goes to, is full. -/
def stalls (s : State) (c l port r : Nat) : Bool := windowFull s (port / 4) || windowFull s (gatherUnit s c l port r)

/-- The entries of a row in a unit's window changed. -/
def modEntry (s : State) (u c l r : Nat) (f : CoalEnt → CoalEnt) : State :=
  { s with store := { s.store with
    merged := lmod s.store.merged u (fun n => satAdd 32 n 1)
    windows := lmod s.store.windows u (fun w => w.map (fun e => if e.isFor c l r then f e else e)) } }

/-- An entry opened in a unit's window. -/
def openEntry (s : State) (u : Nat) (e : CoalEnt) : State :=
  { s with store := { s.store with windows := lmod s.store.windows u (fun w => w ++ [e]) } }

/-- A row's page needed for a look-up (R193, R311): a request's with its deadline; any other brings the page in. -/
def needRow (s : State) (slot : Option Nat) (k : PageKey) : State :=
  match slot with
  | some n => needFor s n k
  | none => wantPage s k

/-- Whether a row's page is QUARANTINED. -/
def rowLost (s : State) (c l r : Nat) : Bool := isQuarantined s (rowKey s c l r)

/-- One look-up (R192, R196 to R200): the sketch raised, then a row of zeros at or above ROWS, a hit in the row cache, an
attachment to a window entry, or a new entry that fetches the row from its Lode. The row, where it is there at once. A
QUARANTINED page ends the request (R322); where no request asks, the row is a free value. -/
def lookup (s : State) (c l port : Nat) (slot : Option Nat) (r : Nat) : Option (List Byte) × State :=
  let s0 := modGather s c (fun g => { g with
    lookups := g.lookups + 1, clock := g.clock + 1
    sketch := (sketchKeys l r).foldl (fun m k => kset m k (min 15 (kgetD m k 0 + 1))) g.sketch })
  let d := (ledgerOf s c l).live
  let u := gatherUnit s c l port r
  let k := rowKey s c l r
  let s1 := pinHot s0 c l r
  if !rowIn d r then
    let (b, s2) := lookupRow s0 c l r
    (some b, s2)
  else if (gatherOf s1 c).cache.any (entryIs d l r) then
    (some (rowBytes d r), modGather s1 c (fun g => { g with
      hits := satAdd 32 g.hits 1, cache := g.cache.map (fun e => if entryIs d l r e then { e with used := g.clock } else e) }))
  else if rowLost s1 c l r then
    match slot with
    | some n => (some (rowBytes d r), commitReq s1 n 0x07 (k.idx % 2 ^ 32))
    | none =>
      let (b, s2) := freeBytes s1 d.hdr.rowBytes
      (some b, s2)
  else if windowHas s1 u c l r then (none, needRow (modEntry s1 u c l r (fun e => { e with attached := e.attached + 1 })) slot k)
  else
    let s2 := modGather s1 c (fun g => { g with misses := satAdd 24 g.misses 1, fetches := g.fetches + 1 })
    let bin := k.idx % 4096
    let s3 := modLedger s2 c l (fun t => { t with fetches := kset t.fetches bin (kgetD t.fetches bin 0 + 1) })
    (none, needRow (openEntry s3 u ⟨c, l, r, 1, []⟩) slot k)

/-- The function that a Lode ran last (LD_STATUS.FUNCTION, R329), and 2, gather or scatter, for the Lode that holds a row. -/
def lodeRan (s : State) (lode fn : Nat) : State :=
  { s with cage := { s.cage with lodes := lmod s.cage.lodes lode (fun x => { x with fn := fn }) } }
def rowRan (s : State) (c l r : Nat) : State :=
  match (pageOf s (rowKey s c l r)).bind (·.frame) with
  | some f => lodeRan s f.1 2
  | none => s

/-- A pair dropped beyond ROWS (R195). -/
def dropPair (s : State) (c l r : Nat) : State := lgErr (lookupRow s c l r).2 2

/-- One pair of a scatter batch applied (R195): dropped beyond ROWS; otherwise added to the row's current slot, its granule
dirty. -/
def scatterPair (s : State) (c l : Nat) (r : Nat) (deltas : List Byte) : State :=
  let d := (ledgerOf s c l).live
  if !rowIn d r then dropPair s c l r
  else
    let (row, cut) := scatterRow d.hdr.fmt d.hdr.elements (rowBytes d r) (padTo d.hdr.rowBytes deltas)
    let past := (deltas.drop d.hdr.rowBytes).any (· != 0)
    let s1 := modLedger s c l (fun t => { t with live := putRow t.live r row })
    let off := 2 * d.hdr.rowBytes * (r % max 1 (8192 / d.hdr.rowBytes)) + (kgetD d.rows r {}).slot * d.hdr.rowBytes
    let page := match ledgerSecOf s c l with
      | some sec => rowPage sec d r
      | none => 0
    let s2 := modPage (rowRan s1 c l r) (rowKey s c l r) (fun p => { p with dirty := p.dirty ||| 2 ^ ((page % 4 * 16384 + off) / 128 % 512) })
    if cut || past then lgErr s2 2 else s2

/-- Whether a ledger takes scatter-adds: a SCATTER ledger with FP32, INT32 or INT64 elements (R195). -/
def scatters (s : State) (c l : Nat) : Bool :=
  let fmt := (ledgerOf s c l).live.hdr.fmt
  ((ledgerSecOf s c l).map (·.scatter)).getD false && (fmt == 3 || fmt == 4 || fmt == 5)

/-- One scatter-add at a port (R195, R196): dropped beyond ROWS; combined into its row's entry, or in an entry of its own. -/
def scatterAt (s : State) (c l port r : Nat) (deltas : List Byte) : State :=
  let u := gatherUnit s c l port r
  if !rowIn (ledgerOf s c l).live r then dropPair s c l r
  else if windowHas s u c l r then modEntry s u c l r (fun e => { e with adds := e.adds ++ [deltas] })
  else openEntry s u ⟨c, l, r, 0, [deltas]⟩

/-- A fetched row offered to the cache (R198): it enters where its set has room, or in place of the unpinned entry of
the lowest count, the least recently used among equals, if its own count is at least that. -/
def cacheRow (s : State) (c l r : Nat) : State :=
  let g := gatherOf s c
  let d := (ledgerOf s c l).live
  let e : CacheEnt := ⟨l, r, d.active, (kgetD d.rows r {}).slot, g.clock, false⟩
  let set := g.cache.filter (fun x => cacheSet s c x.ledger x.row == cacheSet s c l r)
  if cacheSize s c = 0 || g.cache.any (entryIs d l r) then s
  else if set.length < 16 then modGather s c (fun g => { g with cache := g.cache ++ [e] })
  else
    let cnt := fun (x : CacheEnt) => sketchCount g x.ledger x.row
    match leastBy (fun a b => decide (cnt a < cnt b) || (cnt a == cnt b && decide (a.used < b.used))) (set.filter (fun x => !x.pinned)) with
    | none => s
    | some v =>
      if cnt v ≤ sketchCount g l r then modGather s c (fun g => { g with cache := g.cache.filter (· != v) ++ [e] }) else s

/-- The look-ups of batches that a row's fetch serves: every one that waits for it has the row, read at the fetch (R194, R196). -/
def serveAttached (s : State) (c l r : Nat) (row : List Byte) : State :=
  let f := fun (b : PortBatch) =>
    if b.claim = c && b.ledger = l then
      { b with got := b.got.map (fun g => if g.1 = r && g.2.isNone then (r, some row) else g) } else b
  { s with store := { s.store with batches := s.store.batches.map f } }

/-- The old frame of a moved page free, where no entry's fetch was issued to it before the move (R201). -/
def leaveOld (s : State) (c l r : Nat) : State :=
  let k := rowKey s c l r
  if (s.store.windows.flatten).any (fun e => e.claim == c && e.ledger == l && rowKey s c l e.row == k) then s
  else if ((pageOf s k).bind (·.old)).isNone then s
  else settlePages (modPage s k (fun p => { p with old := none }))

/-- An entry gone from its window, its fetch or add over (R196): the adds combined in it are applied, in order of arrival; the row
goes to every look-up attached, and a row that look-ups asked for is offered to the cache, and pinned where it is hot. A page
that cannot be read has no row: what is delivered to no request is a free value. -/
def leaveEntry (s : State) (u c l r : Nat) : State :=
  let mine := (s.store.windows.getD u []).filter (·.isFor c l r)
  let s1 := { s with store := { s.store with windows := lmod s.store.windows u (fun w => w.filter (fun e => !e.isFor c l r)) } }
  if isResident s (rowKey s c l r) then
    let s2 := touch ((mine.map (·.adds)).flatten.foldl (fun s a => scatterPair s c l r a) (rowRan s1 c l r)) (rowKey s c l r)
    let s3 := serveAttached s2 c l r (rowBytes (ledgerOf s2 c l).live r)
    leaveOld (if mine.any (fun e => decide (0 < e.attached)) then pinHot (cacheRow s3 c l r) c l r else s3) c l r
  else
    let (b, s2) := freeBytes s1 (ledgerOf s c l).live.hdr.rowBytes
    leaveOld (serveAttached s2 c l r b) c l r

/-- Whether an entry can leave: its row's page is in the Lode tier, or its load has failed and nothing loads it again. -/
def entryReady (s : State) (c l r : Nat) : Bool :=
  let k := rowKey s c l r
  match pageOf s k with
  | none => true
  | some p => p.st == .resident || p.st == .demoting || p.st == .quarantined || (p.st == .invalid && !s.cage.allocs.contains k)

/-- A batch's look-ups in order, until one stalls: those made, with the rows at hand, and those left (R196). -/
def lookupAll (s : State) (b : PortBatch) (rows : List Nat) : List (Nat × Option (List Byte)) × List Nat × State :=
  match rows with
  | [] => ([], [], s)
  | r :: rest =>
    if stalls s b.claim b.ledger b.port r then ([], r :: rest, s)
    else
      let (x, s1) := lookup s b.claim b.ledger b.port b.slot r
      let (got, left, s2) := lookupAll s1 b rest
      ((r, x) :: got, left, s2)

/-- A batch's scatter-adds in order, until one stalls: those left. -/
def scatterAll (s : State) (b : PortBatch) (pairs : List (Nat × List Byte)) : List (Nat × List Byte) × State :=
  match pairs with
  | [] => ([], s)
  | p :: rest =>
    if stalls s b.claim b.ledger b.port p.1 then (p :: rest, s)
    else scatterAll (scatterAt s b.claim b.ledger b.port p.1 p.2) b rest

/-- Whether batches of a ledger run: the claim holds it, and it is not paused (R204). -/
def ledgerOpen (s : State) (c l : Nat) : Bool := (ledgerSecOf s c l).isSome && (ledgerOf s c l).st != 4

/-- Whether a batch has look-ups or adds still to go; whether its request, where it is one's, is over. -/
def PortBatch.unsent (b : PortBatch) : Bool := !b.rows.isEmpty || !b.pairs.isEmpty
def batchOver (s : State) (b : PortBatch) : Bool := match b.slot with
  | some n => (running s n).isNone
  | none => false

/-- A batch kept at its port; or, its rows all there, delivered in batch order (R194). -/
def keepBatch (s : State) (b : PortBatch) : State :=
  if batchOver s b then s
  else if b.unsent || b.got.any (fun g => g.2.isNone) then { s with store := { s.store with batches := s.store.batches ++ [b] } }
  else if b.got.isEmpty then s
  else { s with store := { s.store with delivered := kset s.store.delivered b.port (b.got.filterMap (·.2)) } }

/-- A batch at its port: it waits behind those that have still to go there, and, if it has not started, while its ledger is paused
(R196, R204). -/
def stepBatch (s : State) (b : PortBatch) : State :=
  if s.store.batches.any (fun x => x.claim == b.claim && x.port == b.port && x.unsent) || !(b.started || ledgerOpen s b.claim b.ledger) then
    keepBatch s b
  else
    let (got, rows, s1) := lookupAll s b b.rows
    let (pairs, s2) := scatterAll s1 b b.pairs
    keepBatch s2 { b with started := true, rows := rows, pairs := pairs, got := b.got ++ got }

/-- The batches at the ports gone on with, in order. -/
def pumpPorts (s : State) : State := s.store.batches.foldl stepBatch { s with store := { s.store with batches := [] } }

/-- Whether a batch can be taken: of a running claim, at a port it holds and that is in service, for a ledger it holds, and of a
request that runs in the claim where it is one's. -/
def batchOk (s : State) (b : PortBatch) (n : Nat) : Bool :=
  alive s && claimRuns s b.claim && portOk s b.claim b.port && (ledgerSecOf s b.claim b.ledger).isSome && decide (n ≤ 65536)
    && (match b.slot with
      | some n => (running s n).any (fun r => r.claim == b.claim)
      | none => true)

/-- GATHER_BATCH (R194, R196, R198), of a request or of a command's work. -/
def opGatherBatch (claim ledger port : Nat) (slot : Option (BitVec 16)) (rows : List Nat) (s : State) : State :=
  let b : PortBatch := { claim := claim, ledger := ledger, port := port, slot := slot.map (·.toNat), rows := rows, pairs := [] }
  if batchOk s b rows.length then stepBatch s b else s

/-- The meaning of GATHER_BATCH. -/
def execGatherBatch (claim ledger port : Nat) (batch : BatchRows) (s : State) : Host.Outcome State Fault Refusal :=
  .next (opGatherBatch claim ledger port batch.slot batch.rows s)

/-- A scatter batch at a port: all of it is dropped where the ledger takes none (R195). -/
def startScatter (s : State) (c l port : Nat) (pairs : List (Nat × List Byte)) : State :=
  if pairs.isEmpty then s
  else if scatters s c l then stepBatch s { claim := c, ledger := l, port := port, rows := [], pairs := pairs }
  else lgErr s 2

/-- SCATTER_BATCH (R195, R196). -/
def opScatterBatch (claim ledger port : Nat) (pairs : List (Nat × List Byte)) (s : State) : State :=
  if batchOk s { claim := claim, ledger := ledger, port := port, rows := [], pairs := pairs } pairs.length then
    startScatter s claim ledger port pairs
  else s

/-- The meaning of SCATTER_BATCH. -/
def execScatterBatch (claim ledger port : Nat) (pairs : List (Nat × List Byte)) (s : State) : Host.Outcome State Fault Refusal :=
  .next (opScatterBatch claim ledger port pairs s)

/-! ### The look-ups of a step or of a peer -/

/-- The port that a claim's engines submit to: its lowest in service (log 27). -/
def gatherPort (s : State) (c : Nat) : Nat := ((List.range 8).find? (portOk s c)).getD 0

/-- Whether a batch of a step would stall at its port now. -/
def rowsStall (s : State) (c l : Nat) (rows : List Nat) : Bool := rows.any (stalls s c l (gatherPort s c))

/-- The pages that look-ups fetch from: those of rows in the table that the row cache does not hold (R193). -/
def rowPages (s : State) (c l : Nat) (rows : List Nat) : List PageKey :=
  let d := (ledgerOf s c l).live
  dedup ((rows.filter (fun r => rowIn d r && !(gatherOf s c).cache.any (entryIs d l r))).map (rowKey s c l))

/-- One look-up of a batch served whole: where the window is full, the first entry that the batch has opened leaves before it. -/
def serveRow (c l port : Nat) (slot : Option Nat) (acc : List (List Byte) × List Nat × State) (r : Nat) :
    List (List Byte) × List Nat × State :=
  let (out, opened, s) := acc
  let (opened, s) := match opened with
    | o :: rest => if stalls s c l port r then (rest, leaveEntry s (gatherUnit s c l port o) c l o) else (opened, s)
    | [] => ([], s)
  let was := windowHas s (gatherUnit s c l port r) c l r
  let (x, s1) := lookup s c l port slot r
  (out ++ [x.getD (rowBytes (ledgerOf s1 c l).live r)], if x.isNone && !was then opened ++ [r] else opened, s1)

/-- The rows of a batch of a step whose pages are in the Lode tier, or of a peer, in batch order (R194): every look-up counts, rows
asked for twice share an entry, and the entries that the batch opened leave when it is served. -/
def serveRows (s : State) (c l : Nat) (slot : Option Nat) (rows : List Nat) : List (List Byte) × State :=
  let port := gatherPort s c
  let (out, opened, s1) := rows.foldl (serveRow c l port slot) ([], [], s)
  (out, opened.foldl (fun s r => leaveEntry s (gatherUnit s c l port r) c l r) s1)

/-! ### What becomes durable (R338) -/

/-- Changes whose groups are durable, in order: the last of those at the front is the durable contents. -/
def dropDurable {α : Type} (gs : List GroupId) (dur : α) (snaps : List (List GroupId × α)) : α × List (List GroupId × α) :=
  let less := snaps.map (fun x => (x.1.filter (fun g => !gs.contains g), x.2))
  let fin := less.takeWhile (fun x => x.1.isEmpty)
  ((fin.getLast?.map (·.2)).getD dur, less.drop fin.length)

/-- Groups that have become durable noted by pits, ledgers and commands. -/
def noteDurable (s : State) (gs : List GroupId) : State :=
  if gs.isEmpty then s
  else
    let pits := s.store.pits.map (fun x =>
      let r := dropDurable gs x.2.dur x.2.snaps
      (x.1, { x.2 with dur := r.1, snaps := r.2 }))
    let leds := s.store.ledgers.map (fun x =>
      let r := dropDurable gs x.2.dur x.2.snaps
      (x.1, { x.2 with dur := r.1, snaps := r.2 }))
    { s with
      store := { s.store with pits := pits, ledgers := leds }
      cmds := s.cmds.map (fun x => { x with needs := x.needs.filter (fun g => !gs.contains g) }) }

/-! ### Commands of one pit or ledger, one at a time -/

/-- The object whose commands go one at a time: 0 a pit, 1 a ledger. -/
def cmdObject (b : CmdBody) : Option (Nat × Nat) :=
  match b with
  | .pitInsert p .. | .pitDelete p .. | .pitPublish p => some (0, p)
  | .ledgerWrite l .. | .ledgerSwap l .. => some (1, l)
  | _ => none

/-- The state with a command replaced by its origin. -/
def setCmd (s : State) (x : Cmd) : State := { s with cmds := s.cmds.map (fun y => if y.o = x.o then x else y) }
/-- The state without a command. -/
def dropCmd (s : State) (o : Origin) : State := { s with cmds := s.cmds.filter (fun y => y.o != o) }

/-- The items of an insert list that have been read: the next starts at the larger of 64 and ITEM_BYTES rounded up to 64
(R172). -/
def insertItems (p : PitSec) (n off : Nat) (bs : List Byte) : List (Nat × List Byte) :=
  match n with
  | 0 => []
  | n + 1 =>
    let it := bs.drop off
    if it.length < max 64 (itemNeeds p it) then []
    else (off, it) :: insertItems p n (off + roundUp (max 64 (fld it 8 4)) 64) bs

/-- The items of one length that have been read. -/
def evenItems (n len : Nat) (bs : List Byte) : List (Nat × List Byte) :=
  (List.range (min n (bs.length / len))).map (fun i => (i * len, slice bs (i * len) len))

/-- One item of a list done by `f` on a pit: its effect, its ITEM_STATUS written back, and an accepted insert's
LOCATION (R168, R171). Carries the state, the pit, the pages, the count, the channels of unreadable entries and the places read. -/
def pitItem (addr : Nat) (ins : Bool) (f : List Byte → PitData → ItemRes)
    (acc : State × PitData × List (Nat × Nat) × Nat × List Nat × List (Nat × Nat)) (it : Nat × List Byte) :
    State × PitData × List (Nat × Nat) × Nat × List Nat × List (Nat × Nat) :=
  let (s, d, pages, n, bad, reads) := acc
  let r := f it.2 d
  let s1 := putHost s (addr + it.1 + 5) (leBytes 1 r.status)
  let s2 := if ins && r.status = 0 then putHost s1 (addr + it.1 + 40) (leBytes 8 r.loc) else s1
  (s2, r.data, pages ++ r.pages, n + (if r.status = 0 then 1 else 0), bad ++ r.unread, reads ++ r.reads)

/-- A pit command begun: the items read done in list order, and the groups its completion waits for (R167, R168). -/
def beginPitItems (s : State) (x : Cmd) (pit addr : Nat) (ins : Bool) (items : List Byte) : State :=
  match pitSecOf s x.o.claim pit with
  | none => s
  | some sec =>
    let lost := lostPages s sec.seamMask
    let list := if ins then insertItems sec x.total 0 items else evenItems x.total 16 items
    let f := fun (it : List Byte) (d : PitData) => if ins then insertItem sec pit lost it d else deleteItem sec lost it d
    let (s1, d, pages, n, bad, reads) := list.foldl (pitItem addr ins f) (s, (pitOf s x.o.claim pit).live, [], 0, [], [])
    let s2 := modPit (countUnreads s1 bad) x.o.claim pit (fun t => countReads t reads)
    let (gs, s3) := changePit s2 x.o.claim pit d pages
    setCmd s3 { x with begun := true, needs := gs, count := n, reading := list.length != x.total }

/-- The pages that a publish writes to flash (R179): those of the upper area and of the allocation maps changed since the last. -/
def publishPages (pit : Nat) (sec : PitSec) (old d : PitData) : List (Nat × Nat) :=
  (upperChanges sec old d).map (fun i => (sec.upperChannel, sec.upperFirst + i))
    ++ ((bitList 64 sec.seamMask).map (fun c => (mapChanges sec old d c).map (fun i => (c, Config.mapPage pit c i)))).flatten

/-- A publish begun: those pages written. -/
def publishPit (s : State) (x : Cmd) (pit : Nat) (sec : PitSec) : State :=
  let t := pitOf s x.o.claim pit
  let d := refreshUpper (fun _ => true) t.live
  let r := changePit s x.o.claim pit d (publishPages pit sec t.published d)
  let s1 := modPit r.2 x.o.claim pit (fun t => { t with published := d })
  journalRec (setCmd s1 { x with begun := true, needs := r.1 }) (sec.upperChannel / 16)

/-- Whether P is at its last value (R179). -/
def atLastEpoch (t : PitStore) : Bool := t.live.p == 0xFFFFFFFFFFFFFFFD

/-- PIT_PUBLISH begun (R179); refused where P is at its last value. -/
def beginPublish (s : State) (x : Cmd) (pit : Nat) : State :=
  match pitSecOf s x.o.claim pit with
  | none => s
  | some sec => if atLastEpoch (pitOf s x.o.claim pit) then bad (dropCmd s x.o) x.o 0x16 else publishPit s x pit sec

/-- One row write item (R202, R203): RANGE, SCHEMA, or the row flipped in the Lode copy. -/
def rowItem (addr : Nat) (sec : LedgerSec) (acc : State × LedgerData × List (Nat × Nat) × Nat) (it : Nat × List Byte) :
    State × LedgerData × List (Nat × Nat) × Nat :=
  let (s, d, pages, n) := acc
  let r := fld it.2 0 5
  let st := if !rowIn d r then 1 else if fld it.2 8 8 != d.hdr.version then 2 else 0
  let s1 := putHost s (addr + it.1 + 5) (leBytes 1 st)
  if st = 0 then
    (s1, flipRow d r (slice it.2 16 d.hdr.rowBytes)
    , pages ++ [areaPlace sec d.active (rowPage sec d r), areaPlace sec d.active (bitPage r)], n + 1)
  else (s1, d, pages, n)

/-- LEDGER_ROW_WRITE begun: its items in list order; cache entries of the rows that flip are unreachable, and their pins end
(R198, R199). -/
def beginRows (s : State) (x : Cmd) (l addr : Nat) (items : List Byte) : State :=
  match ledgerSecOf s x.o.claim l with
  | none => s
  | some sec =>
    let d0 := (ledgerOf s x.o.claim l).live
    let list := evenItems x.total (16 + roundUp d0.hdr.rowBytes 16) items
    let (s1, d, pages, n) := list.foldl (rowItem addr sec) (s, d0, [], 0)
    let flipped := fun (r : Nat) => (kgetD d.rows r {}).slot != (kgetD d0.rows r {}).slot || (kgetD d.rows r {}).cur != (kgetD d0.rows r {}).cur
    let s2 := modGather (modLedger s1 x.o.claim l (fun t => { t with live := d })) x.o.claim (fun g => { g with
      cache := g.cache.filter (fun e => !(e.ledger == l && flipped e.row)) })
    let (gs, s3) := issueAll s2 pages
    let s4 := modLedger s3 x.o.claim l (fun t =>
      if gs.isEmpty && t.snaps.isEmpty then { t with dur := d } else { t with snaps := t.snaps ++ [(gs, d)] })
    setCmd s4 { x with begun := true, needs := gs, count := n, reading := list.length != x.total }

/-- The bytes of an element of an ELEM_FORMAT; formats above 5 are none (R191). -/
def headerOk (sec : LedgerSec) (t : List Byte) (bytes : Nat) : Bool :=
  let rows := fld t 0 5
  let rb := fld t 8 2
  let fmt := byteAt t 10
  decide (rows ≤ sec.maxRows) && isPow2 rb && decide (8 ≤ rb) && decide (rb ≤ sec.maxRowBytes) && decide (fmt ≤ 5) &&
    decide (fld t 12 2 * elemSize fmt ≤ rb) && zeroAt t 5 3 && byteAt t 11 == 0 && zeroAt t 14 2 && zeroAt t 24 40 &&
    decide (bytes = 64 + rows * rb)

/-- The table an image holds, in area `area` (R204). -/
def tableOf (area : Nat) (t : List Byte) : LedgerData :=
  let rows := fld t 0 5
  let rb := fld t 8 2
  { active := area
    hdr := { rows := rows, rowBytes := rb, fmt := byteAt t 10, elements := fld t 12 2, version := fld t 16 8 }
    rows := (List.range rows).filterMap (fun r =>
      let b := slice t (64 + r * rb) rb
      if zeroAt b 0 rb then none else some (r, { slot := 0, cur := b })) }

/-- LEDGER_SWAP begun (R204): its header checked, then the inactive area written once the table has been read. -/
def beginSwap (s : State) (x : Cmd) (l : Nat) (table : List Byte) : State :=
  match ledgerSecOf s x.o.claim l with
  | none => s
  | some sec =>
    if table.length < min 64 x.total then setCmd s { x with begun := true, reading := true }
    else if !headerOk sec table x.total then bad (dropCmd s x.o) x.o 0x16
    else if table.length < x.total then setCmd s { x with begun := true, reading := true }
    else
      let area := 1 - (ledgerOf s x.o.claim l).live.active
      let d := tableOf area table
      let last := rowPage sec d (d.hdr.rows - 1)
      let (gs, s1) := issueAll s ((List.range (last + 1)).map (areaPlace sec area))
      let s2 := modLedger s1 x.o.claim l (fun t => { t with st := if gs.isEmpty then 4 else 2 })
      setCmd s2 { x with begun := true, needs := gs }

/-- A command begun, when nothing earlier on its pit or ledger is left. -/
def beginCmd (s : State) (x : Cmd) : State :=
  match x.body with
  | .pitInsert p a items => beginPitItems s x p a true items
  | .pitDelete p a items => beginPitItems s x p a false items
  | .pitPublish p => beginPublish s x p
  | .ledgerWrite l a items => beginRows s x l a items
  | .ledgerSwap l t => beginSwap s x l t
  | _ => s

/-- What a fence of a Drift engine or Seam of a command's pit, of the Seam of UPPER_CHANNEL for a publish, or of a Seam of
its ledger, puts into its DETAIL (R168, R180, R432). -/
def cmdFence (s : State) (x : Cmd) : Option Nat :=
  let look := fun (cls mask : Nat) => ((bitList 64 mask).map (fun i => (⟨cls, i⟩ : UnitId))).find? (fun u =>
    ((kget s.hf.fences u).map (·.st)).getD 0 == 2)
  let detail := fun (u : UnitId) => unitDetail u (((kget s.hf.fences u).map (·.cause)).getD 0)
  match x.body with
  | .pitInsert p .. | .pitDelete p .. =>
    (pitSecOf s x.o.claim p).bind (fun q => ((look 2 q.seamMask).or (look 3 q.seamMask)).map detail)
  | .pitPublish p => (pitSecOf s x.o.claim p).bind (fun q => (look 3 (2 ^ q.upperChannel)).map detail)
  | .ledgerWrite l .. | .ledgerSwap l .. => (ledgerSecOf s x.o.claim l).bind (fun q => (look 3 q.seamMask).map detail)
  | _ => none

/-- A command ended by a fence: UNIT_FENCED, with the items it has finished. -/
def endFenced (s : State) (x : Cmd) (detail : Nat) : State :=
  let s1 := match x.body with
    | .ledgerSwap l _ => modLedger s x.o.claim l (fun t => { t with st := 1 })
    | _ => s
  pumpPorts (putRecord (dropCmd s1 x.o) { o := x.o, status := 9, detail := detail, result := countResult x.count })

/-- The record of a begun command whose groups are durable; a publish and a swap go on by rows of their own. -/
def finishCmd (s : State) (x : Cmd) : State :=
  match x.body with
  | .pitInsert .. | .pitDelete .. | .ledgerWrite .. =>
    putRecord (dropCmd s x.o) { o := x.o, status := if x.count = x.total then 0 else 1, result := countResult x.count }
  | .ledgerSwap l _ => modLedger s x.o.claim l (fun t => { t with st := 4 })
  | _ => s

/-- Whether a command is the first of those on its pit or ledger. -/
def cmdFirst (s : State) (x : Cmd) : Bool :=
  match s.cmds.find? (fun y => y.o.claim == x.o.claim && (cmdObject y.body).isSome && cmdObject y.body == cmdObject x.body) with
  | some y => y.o == x.o
  | none => false

/-- Whether a command may begin as far as Hoistlink goes: all but a publish read or write companion memory (R86). -/
def cmdReach (s : State) (x : Cmd) : Bool :=
  match x.body with
  | .pitPublish _ => true
  | _ => dataUp s x.o.claim

/-- Commands that are done complete, and those they held back begin, in order; a fence ends those that have begun and those
that would begin. -/
def settleCmds (fuel : Nat) (s : State) : State :=
  match fuel with
  | 0 => s
  | fuel + 1 =>
    match s.cmds.findSome? (fun x => if x.begun || cmdFirst s x then (cmdFence s x).map (fun d => (x, d)) else none) with
    | some (x, d) => settleCmds fuel (endFenced s x d)
    | none =>
    let fin := s.cmds.find? (fun x => x.begun && !x.reading && x.needs.isEmpty && (match x.body with
      | .pitInsert .. | .pitDelete .. | .ledgerWrite .. => true
      | .ledgerSwap l _ => (ledgerOf s x.o.claim l).st == 2
      | _ => false))
    match fin with
    | some x => settleCmds fuel (finishCmd s x)
    | none =>
      match s.cmds.find? (fun x => !x.begun && (cmdObject x.body).isSome && cmdFirst s x && cmdReach s x) with
      | some x => settleCmds fuel (beginCmd s x)
      | none => s

/-- The commands settled as far as they go. -/
def runCmds (s : State) : State := settleCmds (3 * s.cmds.length + 1) s

/-- A command taken that waits its turn. -/
def addCmd (s : State) (o : Origin) (b : CmdBody) (total : Nat) : State :=
  runCmds { s with cmds := s.cmds ++ [{ o := o, body := b, begun := false, needs := [], count := 0, total := total }] }

/-- What follows a change on a Seam: durable groups noted, commands settled, collection gone on with. -/
def afterSeam (s : State) (seam : Nat) : State :=
  let (gs, s1) := settleSeam s seam
  collect (runCmds (noteDurable s1 gs)) seam

/-! ### The pit commands -/

/-- PIT_INSERT (R167, R168, R171 to R176). -/
def opPitInsert (d : Desc) (items : List Byte) (s : State) : State :=
  plainCommand s d 0x07 (fun l => zeroAt l 18 6 && zeroAt l 36 92) (fun s o l =>
    let n := fld l 32 4
    if (pitSecOf s o.claim (fld l 16 2)).isNone || n = 0 || n > 65536 then bad s o 0x16
    else addCmd s o (.pitInsert (fld l 16 2) (fld l 24 8) items) n)

/-- The meaning of PIT_INSERT. -/
def execPitInsert (d : Desc) (items : List Byte) (s : State) : Host.Outcome State Fault Refusal := .next (opPitInsert d items s)

/-- PIT_DELETE (R167, R168, R177, R178). -/
def opPitDelete (d : Desc) (items : List Byte) (s : State) : State :=
  plainCommand s d 0x08 (fun l => zeroAt l 18 6 && zeroAt l 36 92) (fun s o l =>
    let n := fld l 32 4
    if (pitSecOf s o.claim (fld l 16 2)).isNone || n = 0 || n > 65536 then bad s o 0x16
    else addCmd s o (.pitDelete (fld l 16 2) (fld l 24 8) items) n)

/-- The meaning of PIT_DELETE. -/
def execPitDelete (d : Desc) (items : List Byte) (s : State) : Host.Outcome State Fault Refusal := .next (opPitDelete d items s)

/-- PIT_PUBLISH (R167, R179). -/
def opPitPublish (d : Desc) (s : State) : State :=
  plainCommand s d 0x09 (fun l => zeroAt l 18 110) (fun s o l =>
    if (pitSecOf s o.claim (fld l 16 2)).isNone then bad s o 0x16
    else addCmd s o (.pitPublish (fld l 16 2)) 0)

/-- The meaning of PIT_PUBLISH. -/
def execPitPublish (d : Desc) (s : State) : Host.Outcome State Fault Refusal := .next (opPitPublish d s)

/-- A pit's published epoch set, live, durable and in every change on its way; the upper entries gain the ALT fields of
their nodes' replicas (R184). -/
def setEpoch (t : PitStore) (p : Nat) : PitStore :=
  { t with live := refreshUpper (fun _ => true) { t.live with p := p, pend := 0 }, dur := { t.dur with p := p }, snaps := t.snaps.map (fun x => (x.1, { x.2 with p := p })) }

/-- A sweep started where one is due (R181): deleted nodes above 1/64 of the live ones, and none running. -/
def startSweep (s : State) (c p : Nat) : State :=
  let t := pitOf s c p
  match pitSecOf s c p with
  | none => s
  | some sec =>
    let dels := deletedOf t.live
    let live := (nodesOf t.live).length - dels.length
    if t.sweep.isSome || 64 * dels.length ≤ live then s
    else
      let old := oldestEpoch s c p
      let dead := (dels.filter (fun r => decide (r.2.del ≤ t.live.p) && decide (r.2.del ≤ old))).map (·.1)
      let cs := bitList 64 sec.seamMask
      let order := (cs.map (fun ch => ((nodesOf t.live).filter (fun r => r.1.1 == ch)).map (·.1))).flatten
      modPit s c p (fun t => { t with sweep := some ⟨1, (order.head?.map (·.1)).getD (cs.headD 0), order, dead⟩ })

/-- EPOCH_RECORD_DURABLE (R179, R181): P advances in one step, the publish completes with it, and a sweep starts where
it is due. -/
def opEpochRecordDurable (claim pit : Nat) (s : State) : State :=
  match s.cmds.find? (fun x => x.begun && x.needs.isEmpty && x.o.claim == claim && x.body == .pitPublish pit) with
  | none => s
  | some x =>
    if !alive s then s
    else
      let p := (pitOf s claim pit).live.p + 1
      let s1 := modPit s claim pit (fun t => setEpoch t p)
      let s2 := doneWith (dropCmd s1 x.o) x.o (leBytes 8 p)
      runCmds (startSweep s2 claim pit)

/-- The meaning of EPOCH_RECORD_DURABLE. -/
def execEpochRecordDurable (claim pit : Nat) (s : State) : Host.Outcome State Fault Refusal :=
  .next (opEpochRecordDurable claim pit s)

/-! ### Sweeps and hot nodes -/

/-- SWEEP_RECORD_REPAIR (R181): the next record of a sweep, which visits them channel by channel. -/
def opSweepRecordRepair (claim pit channel slot : Nat) (s : State) : State :=
  match (pitOf s claim pit).sweep, pitSecOf s claim pit with
  | some w, some sec =>
    match w.left with
    | [] => s
    | k :: rest =>
      if alive s && w.st == 1 && k == (channel, slot) then
        let r := repairRec sec (lostPages s sec.seamMask) w.dead channel slot (pitOf s claim pit).live
        let s1 := modPit (countUnreads s r.unread) claim pit (fun t => countReads t r.reads)
        let (_, s2) := changePit s1 claim pit r.data r.pages
        let w' : Sweep := { w with left := rest, chan := (rest.head?.map (·.1)).getD channel, st := if rest.isEmpty then 2 else 1 }
        modPit s2 claim pit (fun t => { t with sweep := some w' })
      else s
  | _, _ => s

/-- The meaning of SWEEP_RECORD_REPAIR. -/
def execSweepRecordRepair (claim pit channel slot : Nat) (s : State) : Host.Outcome State Fault Refusal :=
  .next (opSweepRecordRepair claim pit channel slot s)

/-- SWEEP_FREE (R181): the sweep's deleted nodes are freed and the sweep ends. -/
def opSweepFree (claim pit : Nat) (s : State) : State :=
  match (pitOf s claim pit).sweep, pitSecOf s claim pit with
  | some w, some sec =>
    if alive s && w.left.isEmpty then
      let (d, pages) := freeSwept sec w.dead (pitOf s claim pit).live
      let (_, s1) := changePit s claim pit d pages
      modPit s1 claim pit (fun t => { t with sweep := none })
    else s
  | _, _ => s

/-- The meaning of SWEEP_FREE. -/
def execSweepFree (claim pit : Nat) (s : State) : Host.Outcome State Fault Refusal := .next (opSweepFree claim pit s)

/-- HOT_NODE_WINDOW_END (R183, R185): at the end of a channel's window of 16,777,216 reads, hot nodes are replicated,
replicas of an overloaded channel migrate, and the table's counts are halved. -/
def opHotNodeWindowEnd (claim pit channel : Nat) (s : State) : State :=
  match pitSecOf s claim pit with
  | none => s
  | some sec =>
    let t := pitOf s claim pit
    if alive s && sec.seamMask.testBit channel && decide (16777216 ≤ kgetD t.reads channel 0) then
      let reads := fun (c : Nat) => kgetD t.reads c 0
      let mine := fun (h : (Nat × Nat) × Nat) => h.1.1 % 64 == channel
      let table := (sortBy (fun (a b : (Nat × Nat) × Nat) => decide (b.2 < a.2)) (t.hot.filter mine)).take 4096
      let seen := sortBy (fun (a b : (Nat × Nat) × Nat) => decide (b.2 < a.2)) (table.map (fun h => (h.1, kgetD t.window h.1 0)))
      let m := migrateHot sec (fun k => kgetD t.window k 0) reads channel (replicateHot sec seen reads channel t.live)
      let fresh := m.1.reps.filter (fun r => kget t.live.reps r.1 != some r.2)
      let pages := fresh.map (fun r => (r.1.1, repLpn sec r.1.1 r.1.2)) ++ fresh.map (fun r => (r.2.chan, nodeLpn sec r.2.chan r.2.slot))
      modPit (changePit s claim pit m.1 pages).2 claim pit (fun t' => { t' with
        window := t.window.filter (fun h => !mine h)
        hot := (t.hot.filter (fun h => !mine h)) ++ (table.map (fun h => (h.1, h.2 / 2))).filter (fun h => h.2 != 0)
        reads := kset t.reads channel 0, migrated := satAdd 32 t.migrated m.2 })
    else s

/-- The meaning of HOT_NODE_WINDOW_END. -/
def execHotNodeWindowEnd (claim pit channel : Nat) (s : State) : Host.Outcome State Fault Refusal :=
  .next (opHotNodeWindowEnd claim pit channel s)

/-! ### The ledger commands -/

/-- LEDGER_ROW_WRITE (R202, R203). -/
def opLedgerRowWrite (d : Desc) (items : List Byte) (s : State) : State :=
  plainCommand s d 0x0A (fun l => zeroAt l 17 7 && zeroAt l 36 92) (fun s o l =>
    let n := fld l 32 4
    match ledgerSecOf s o.claim (byteAt l 16) with
    | none => bad s o 0x16
    | some sec =>
      if sec.scatter || n = 0 || n > 65536 then bad s o 0x16
      else addCmd s o (.ledgerWrite (byteAt l 16) (fld l 24 8) items) n)

/-- The meaning of LEDGER_ROW_WRITE. -/
def execLedgerRowWrite (d : Desc) (items : List Byte) (s : State) : Host.Outcome State Fault Refusal :=
  .next (opLedgerRowWrite d items s)

/-- LEDGER_SWAP (R204). -/
def opLedgerSwap (d : Desc) (table : List Byte) (s : State) : State :=
  plainCommand s d 0x0B (fun l => zeroAt l 17 7 && zeroAt l 40 88) (fun s o l =>
    if (ledgerSecOf s o.claim (byteAt l 16)).isNone then bad s o 0x16
    else addCmd s o (.ledgerSwap (byteAt l 16) table) (fld l 32 8))

/-- The meaning of LEDGER_SWAP. -/
def execLedgerSwap (d : Desc) (table : List Byte) (s : State) : Host.Outcome State Fault Refusal :=
  .next (opLedgerSwap d table s)

/-- The pages of a RESIDENT ledger's rows: read into the pool and pinned (R193). -/
def pinResident (s : State) (c l : Nat) : State :=
  match ledgerSecOf s c l with
  | none => s
  | some sec =>
    if !sec.resident then s
    else
      let d := (ledgerOf s c l).live
      let n := if d.hdr.rows = 0 then 0 else rowPage sec d (d.hdr.rows - 1) / 4 + 1
      (List.range n).foldl (fun s i =>
        let k : PageKey := ⟨c, 5, l, i⟩
        match placeFor s k with
        | none => s
        | some lode => touch (setPage s k { st := .resident, frame := some (lode, frameNo s lode), perm := true, loaded := true }) k) s

/-- Whether a command is a LEDGER_SWAP of a ledger whose area is written. -/
def Cmd.swaps (x : Cmd) (c l : Nat) : Bool :=
  x.begun && x.needs.isEmpty && x.o.claim == c && (match x.body with
    | .ledgerSwap m _ => m == l
    | _ => false)

/-- Whether every batch started on a ledger is complete (R204 step 4): none is at a port, and no window holds an entry of it. -/
def ledgerQuiet (s : State) (c l : Nat) : Bool :=
  !s.store.batches.any (fun b => b.started && b.claim == c && b.ledger == l)
    && !s.store.windows.flatten.any (fun e => e.claim == c && e.ledger == l)

/-- LEDGER_SWAP_FLIP (R204 steps 5 to 7): once the batches started are complete, the new area becomes active, durably, with an
AREA record in the journal of the die of the ledger's lowest Seam (R189, R349); old Lode pages and cache entries go, bin maps
return to their placement, and look-ups resume. -/
def opLedgerSwapFlip (claim ledger : Nat) (s : State) : State :=
  match s.cmds.find? (·.swaps claim ledger) with
  | none => s
  | some x =>
    match x.body with
    | .ledgerSwap _ table =>
      if !(alive s && (ledgerOf s claim ledger).st == 4 && ledgerQuiet s claim ledger) then s
      else
        let die := ((ledgerSecOf s claim ledger).map (fun x => ((bitList 64 x.seamMask).headD 0) / 16)).getD 0
        let d := tableOf (1 - (ledgerOf s claim ledger).live.active) table
        let s1 := dropPages s (ofObj claim 5 ledger)
        let s2 := modGather s1 claim (fun g => { g with cache := g.cache.filter (fun e => e.ledger != ledger) })
        let s3 := modLedger (journalRec s2 die) claim ledger (fun t => { t with live := d, dur := d, snaps := [], st := 1, bins := [], moves := [] })
        runCmds (pumpPorts (done (dropCmd (pinResident s3 claim ledger) x.o) x.o 0 0))
    | _ => s

/-- The meaning of LEDGER_SWAP_FLIP. -/
def execLedgerSwapFlip (claim ledger : Nat) (s : State) : Host.Outcome State Fault Refusal :=
  .next (opLedgerSwapFlip claim ledger s)

/-! ### Windows, the row cache and bins (R196 to R201) -/

/-- COALESCER_ENTRY_LEAVE (R196): an entry leaves its window once its Lode has fetched the row or applied the adds; the requesters
are served, and ports that stalled go on. -/
def opCoalescerEntryLeave (unit claim ledger row : Nat) (s : State) : State :=
  if alive s && windowHas s unit claim ledger row && entryReady s claim ledger row then
    pumpPorts (leaveEntry s unit claim ledger row)
  else s

/-- The meaning of COALESCER_ENTRY_LEAVE. -/
def execCoalescerEntryLeave (unit claim ledger row : Nat) (s : State) : Host.Outcome State Fault Refusal :=
  .next (opCoalescerEntryLeave unit claim ledger row s)

/-- SKETCH_HALVING (R198, R199): after 4,194,304 look-ups every counter is halved, and pins of rows that fell below half
their threshold, or whose entries are unreachable, end. -/
def opSketchHalving (claim : Nat) (s : State) : State :=
  if alive s && decide (4194304 ≤ (gatherOf s claim).lookups) then
    let s1 := modGather s claim (fun g => { g with
      lookups := g.lookups - 4194304
      sketch := (g.sketch.map (fun x => (x.1, x.2 / 2))).filter (fun x => x.2 != 0) })
    let g := gatherOf s1 claim
    let thr := fun (l : Nat) => ((ledgerSecOf s claim l).map (·.hotThreshold)).getD 0
    let keep := fun (e : CacheEnt) => decide ((thr e.ledger + 1) / 2 ≤ sketchCount g e.ledger e.row)
      && entryIs (ledgerOf s claim e.ledger).live e.ledger e.row e
    modGather s1 claim (fun g => { g with cache := g.cache.map (fun e => { e with pinned := e.pinned && keep e }) })
  else s

/-- The meaning of SKETCH_HALVING. -/
def execSketchHalving (claim : Nat) (s : State) : Host.Outcome State Fault Refusal := .next (opSketchHalving claim s)

/-- The Lode of a bin of a ledger (R200). -/
def binLode (s : State) (c l b : Nat) : Nat :=
  let ls := lodesOf s c
  (kget (ledgerOf s c l).bins b).getD (ls.getD (b % max 1 ls.length) 0)

/-- The moves a window's counts call for (R201): up to 8 of the most-fetched bins of a shard above 1.25 times the mean,
to the least-fetched one below 0.8 times it. -/
def planMoves (s : State) (c l : Nat) : List (Nat × Nat) :=
  let t := ledgerOf s c l
  let ls := lodesOf s c
  let load := fun (j : Nat) => ((t.fetches.filter (fun f => binLode s c l f.1 == j)).map (·.2)).sum
  let total := (t.fetches.map (·.2)).sum
  let n := ls.length
  match leastBy (fun a b => decide (load b < load a)) (ls.filter (fun j => decide (5 * total < 4 * n * load j))),
      leastBy (fun a b => decide (load a < load b)) (ls.filter (fun j => decide (5 * n * load j < 4 * total))) with
  | some hi, some lo =>
    let bins := t.fetches.filter (fun f => binLode s c l f.1 == hi)
    ((sortBy (fun (a b : Nat × Nat) => decide (b.2 < a.2)) bins).take 8).map (fun b => (b.1, lo))
  | _, _ => []

/-- A ledger's fetch counts of a window reported by Lode, its moves planned where none are under way, and a new window. -/
def endLoadWindow (s : State) (c l : Nat) : State :=
  let t := ledgerOf s c l
  let loads := (lodesOf s c).map (fun j => (j, ((t.fetches.filter (fun f => binLode s c l f.1 == j)).map (·.2)).sum))
  let mv := if t.moves.isEmpty then planMoves s c l else t.moves
  modLedger s c l (fun t => { t with lastLoads := loads, moves := mv, fetches := [] })

/-- BIN_LOAD_WINDOW_END (R200, R201): after 4,194,304 fetches of a claim the counts are reported and unbalanced shards
start to migrate bins. -/
def opBinLoadWindowEnd (claim : Nat) (s : State) : State :=
  if alive s && decide (4194304 ≤ (gatherOf s claim).fetches) then
    let ls := (s.store.ledgers.filter (fun x => x.1.1 == claim)).map (·.1.2)
    modGather (ls.foldl (fun s l => endLoadWindow s claim l) s) claim (fun g => { g with fetches := g.fetches - 4194304 })
  else s

/-- The meaning of BIN_LOAD_WINDOW_END. -/
def execBinLoadWindowEnd (claim : Nat) (s : State) : Host.Outcome State Fault Refusal := .next (opBinLoadWindowEnd claim s)

/-- The resident pages of a bin of a ledger that lie on another Lode than one. -/
def binPages (s : State) (c l b lode : Nat) : List PageKey :=
  (s.cage.pages.filter (fun q => ofObj c 5 l q.1 && q.1.idx % 4096 == b && q.2.st == .resident && q.2.frame.map (·.1) != some lode)).map (·.1)

/-- A page of a bin on its new Lode; its old frame is free at once, or once the fetches issued to it have completed (R201). -/
def moveBinPage (s : State) (c l lode : Nat) (k : PageKey) : State :=
  let fetched := s.store.windows.flatten.any (fun e => e.claim == c && e.ledger == l && rowKey s c l e.row == k)
  modPage s k (fun p => { p with frame := some (lode, frameNo s lode), old := if fetched then p.frame else none })

/-- BIN_MIGRATE_DONE (R201): the resident pages of the first bin on the move are copied, pinned ones included, which takes a frame
of the pool on the new Lode for each, and its map entry flips; until the Lode has the frames, the bin waits. -/
def opBinMigrateDone (claim ledger : Nat) (s : State) : State :=
  match (ledgerOf s claim ledger).moves with
  | [] => s
  | (b, lode) :: rest =>
    let ks := binPages s claim ledger b lode
    let room := unitOk s 1 lode && decide (heldOn s claim 5 lode + ks.length ≤ poolShare s claim 5 lode)
      && decide (ks.length ≤ freeFrames s claim 5)
    if !(alive s && (ks.isEmpty || room)) then s
    else
      let s1 := modLedger s claim ledger (fun t => { t with
        bins := kset t.bins b lode, moves := rest, binsMoved := satAdd 32 t.binsMoved 1 })
      settlePages (ks.foldl (fun s k => moveBinPage s claim ledger lode k) s1)

/-- The meaning of BIN_MIGRATE_DONE. -/
def execBinMigrateDone (claim ledger : Nat) (s : State) : Host.Outcome State Fault Refusal :=
  .next (opBinMigrateDone claim ledger s)

end Sys2Proof.Machine
end

