-- ==== Sys2Proof/Machine/FlashRows.lean ====
section
/-! DEFINITION. The rows of the Seams (14): reads and rebuilds, programs, failures, collection, journal and
checkpoints. -/

namespace Sys2Proof.Machine

/-- Whether a seam die finishes programs under way: also after the power of the rest was shed (R351, R402). -/
def dieFinishes (s : State) (seam : Nat) : Bool :=
  s.boot.resetN && s.boot.stage == 3 && decide (seam < 64) && (dieOf s (seam / 16)).st == 2

/-- Whether a Seam's die runs. -/
def dieRuns (s : State) (seam : Nat) : Bool := alive s && decide (seam < 64) && (dieOf s (seam / 16)).st == 2

/-- Whether a Seam is in service. -/
def seamOk (s : State) (seam : Nat) : Bool := dieRuns s seam && unitOk s 3 seam

/-- A read of a block counted (R346); an open superblock that becomes read-worn closes at the end of its stripe. -/
def countBlockRead (s : State) (seam : Nat) (p : FlashPlace) : State :=
  modSeam s seam (fun v => { v with dgs := lmod v.dgs (p.die / 8) (fun g => { g with sbs := kmod g.sbs p.block (fun b =>
    let b1 := { b with reads := kset b.reads p.die (kgetD b.reads p.die 0 + 1) }
    if b1.st == 1 && decide (100000 ≤ readsOf b1) then
      { b1 with closing := true, st := if b1.fill = 0 then 2 else 1 }
    else b1) }) })

/-- Whether a place lies on a retired die (R348). -/
def dieLost (s : State) (seam : Nat) (p : FlashPlace) : Bool := ((seamOf s seam).dgs.getD (p.die / 8) {}).dead.testBit (p.die % 8)

/-- The reads of a rebuild counted (R342): one of each other page of the stripe whose die is not retired. -/
def countRebuild (s : State) (seam : Nat) (p : FlashPlace) : State :=
  let others := ((List.range 8).map (fun d => ({ p with die := p.die / 8 * 8 + d } : FlashPlace))).filter (fun x =>
    x.die != p.die && !dieLost s seam x)
  others.foldl (fun s x => countBlockRead s seam x) s

/-- PAGE_READ_DONE (R341, R348): a read of a mapped page, decoded at once or after retries, or to be rebuilt. A page on a
retired die is rebuilt whatever a read would give, and a page that was never written is not read from NAND. -/
def opPageReadDone (seam lpn : Nat) (outcome : ReadOutcome) (s : State) : State :=
  match kget (seamOf s seam).map lpn with
  | none => s
  | some e =>
    if seamOk s seam && e.st == 1 then
      let rebuild := fun (s : State) => modSeam s seam (fun v => { v with rebuilds := dedup (v.rebuilds ++ [lpn]) })
      let s1 := countBlockRead s seam e.place
      let s2 := if dieLost s seam e.place then rebuild s
        else match outcome with
          | .clean => s1
          | .retried => faultEvent (smErr s1 seam 1) 1 0
          | .undecodable => rebuild (smErr s1 seam 1)
      collect s2 seam
    else s

/-- The meaning of PAGE_READ_DONE. -/
def execPageReadDone (seam lpn : Nat) (outcome : ReadOutcome) (s : State) : Host.Outcome State Fault Refusal :=
  .next (opPageReadDone seam lpn outcome s)

/-- READ_REBUILD_DONE (R341): the page is rebuilt and rewritten as a group of one page, or it is LOST. -/
def opReadRebuildDone (seam lpn : Nat) (ok : Bool) (s : State) : State :=
  if seamOk s seam && (seamOf s seam).rebuilds.contains lpn then
    let s0 := match kget (seamOf s seam).map lpn with
      | some e => countRebuild s seam e.place
      | none => s
    let s1 := modSeam s0 seam (fun v => { v with rebuilds := v.rebuilds.filter (· != lpn) })
    if ok then
      let s2 := smErr (modDie s1 (seam / 16) (fun d => { d with rebuilt := satAdd 24 d.rebuilt 1 })) seam 2
      (issueGroup (faultEvent s2 1 0) seam [lpn] none).2
    else
      let s2 := smErr (modDie s1 (seam / 16) (fun d => { d with lost := satAdd 24 d.lost 1 })) seam 4
      modSeam s2 seam (fun v => { v with map := kmod v.map lpn (fun e => { e with st := 2 }) })
  else s

/-- The meaning of READ_REBUILD_DONE. -/
def execReadRebuildDone (seam lpn : Nat) (ok : Bool) (s : State) : Host.Outcome State Fault Refusal :=
  .next (opReadRebuildDone seam lpn ok s)

/-- Whether a queued page may be programmed: its superblock's OPEN record is programmed (R349), and no page of an
earlier stripe of the superblock is still to be programmed (R332). -/
def mayProgram (s : State) (seam : Nat) (q : QPage) : Bool :=
  !(dieOf s (seam / 16)).syncs.contains (.opened seam (q.place.die / 8) q.place.block)
    && (seamOf s seam).queue.all (fun r => r.2.done || !(r.2.place.die / 8 == q.place.die / 8 && r.2.place.block == q.place.block
      && decide (r.2.place.page < q.place.page)))

/-- PAGE_PROGRAM_DONE (R338, R339): a queued page is programmed; groups whose pages lie in complete stripes become
durable and the watermark advances. -/
def opPageProgramDone (seam seq : Nat) (s : State) : State :=
  match kget (seamOf s seam).queue seq with
  | none => s
  | some q =>
    if dieFinishes s seam && !q.done && mayProgram s seam q then
      let s1 := modSeam s seam (fun v => { v with queue := kset v.queue seq { q with done := true } })
      afterSeam (modDie s1 (seam / 16) (fun d => { d with spanPages := d.spanPages + 1 })) seam
    else s

/-- The meaning of PAGE_PROGRAM_DONE. -/
def execPageProgramDone (seam seq : Nat) (s : State) : Host.Outcome State Fault Refusal :=
  .next (opPageProgramDone seam seq s)

/-- FILLER pages queued until the open stripe of a superblock is full. -/
def fillStripe (fuel : Nat) (s : State) (seam group b stripe : Nat) : State :=
  match fuel with
  | 0 => s
  | fuel + 1 =>
    match kget ((seamOf s seam).dgs.getD group {}).sbs b with
    | some x => if x.st = 1 && x.stripe = stripe then fillStripe fuel (queueIn s seam group 4 0xFFFFFFF).2 seam group b stripe else s
    | none => s

/-- STRIPE_FILL (R338, R346): the open stripe of a die group, holding pages, is completed with FILLER pages. -/
def opStripeFill (seam group : Nat) (s : State) : State :=
  let g := (seamOf s seam).dgs.getD group {}
  match openSb g with
  | none => s
  | some b =>
    let x := kgetD g.sbs b ⟨1, 0, 0, [], false⟩
    if dieRuns s seam && decide (0 < x.fill) then
      afterSeam (fillStripe 8 s seam group b x.stripe) seam
    else s

/-- The meaning of STRIPE_FILL. -/
def execStripeFill (seam group : Nat) (s : State) : Host.Outcome State Fault Refusal := .next (opStripeFill seam group s)

/-- Queued data pages moved to new places: new SEQs, in the groups that named them (R347). -/
def requeue (s : State) (seam : Nat) (old : List (Nat × QPage)) : State :=
  old.foldl (fun s o =>
    let s1 := modSeam s seam (fun v => { v with queue := kdel v.queue o.1 })
    if o.2.kind != 0 then s1
    else
      let (p, s2) := queuePage s1 seam 0 o.2.lpn
      modSeam s2 seam (fun v => { v with groups := v.groups.map (fun w =>
        { w with pages := w.pages.map (fun x => if x.seq = o.1 then p else x) }) })) s

/-- What a failed program has rewritten: the queued pages of its stripe, and every page of the groups that hold the page,
those in complete stripes too, in the order of their SEQs. -/
def failedPages (v : SeamSt) (seq : Nat) (q : QPage) : List (Nat × QPage) :=
  let pages := ((v.groups.filter (fun w => w.pages.any (fun p => p.seq == seq))).map (·.pages)).flatten
  let queued := v.queue.filter (fun r => sameStripe r.2.place q.place || pages.any (fun p => p.seq == r.1))
  let rest := (pages.filter (fun p => !khas v.queue p.seq)).map (fun p => (p.seq, (⟨0, p.lpn, p.place, true, 0⟩ : QPage)))
  sortBy (fun (a b : Nat × QPage) => decide (a.1 < b.1)) (queued ++ rest)

/-- PROGRAM_FAIL (R347): the failed page's group and the data pages of its stripe are rewritten in a new stripe of
another superblock; the superblock closes and the block is retired. -/
def opProgramFail (seam seq : Nat) (s : State) : State :=
  let v := seamOf s seam
  match kget v.queue seq with
  | none => s
  | some q =>
    if dieFinishes s seam && !q.done && mayProgram s seam q then
      let gi := q.place.die / 8
      let s1 := modSeam (faultEvent (smErr s seam 8) 1 0) seam (fun v => { v with dgs := lmod v.dgs gi (fun g =>
        { g with sbs := kmod g.sbs q.place.block (fun b => { b with st := 2, stripe := max b.stripe (q.place.page + 1), fill := 0 }) }) })
      afterSeam (retireBlock (requeue s1 seam (failedPages v seq q)) seam gi q.place.die q.place.block) seam
    else s

/-- The meaning of PROGRAM_FAIL. -/
def execProgramFail (seam seq : Nat) (s : State) : Host.Outcome State Fault Refusal := .next (opProgramFail seam seq s)

/-- Whether a superblock under collection has nothing valid left, and no copy of it is on its way (R344). -/
def emptied (v : SeamSt) (gi b : Nat) : Bool :=
  (validPages v gi b).isEmpty && v.copies.all (fun c => !(c.2.die / 8 == gi && c.2.block == b))
    && v.groups.all (fun w => match w.copyOf with
      | some p => !(p.die / 8 == gi && p.block == b)
      | none => true)

/-- Whether a block of a superblock is still to be retired and replaced. -/
def retiring (s : State) (seam gi b : Nat) : Bool := (dieOf s (seam / 16)).syncs.any (fun r => match r with
  | .retire c g _ x => c == seam && g == gi && x == b
  | _ => false)

/-- ERASE_DONE (R344): a collected superblock, its failed blocks replaced, is erased and joins the free pool, with an ERASE record. -/
def opEraseDone (seam group superblock : Nat) (s : State) : State :=
  let v := seamOf s seam
  let g := v.dgs.getD group {}
  if dieRuns s seam && g.victim == some superblock && emptied v group superblock && !retiring s seam group superblock then
    let s1 := modSeam s seam (fun v => { v with dgs := lmod v.dgs group (fun g => { eraseBlocks g superblock with
      sbs := kdel g.sbs superblock, victim := none }) })
    afterSeam (journalRec s1 (seam / 16)) seam
  else s

/-- The meaning of ERASE_DONE. -/
def execEraseDone (seam group superblock : Nat) (s : State) : Host.Outcome State Fault Refusal :=
  .next (opEraseDone seam group superblock s)

/-- ERASE_FAIL (R347): the block that does not erase is retired and replaced in its superblock. -/
def opEraseFail (seam group superblock die : Nat) (s : State) : State :=
  let v := seamOf s seam
  let g := v.dgs.getD group {}
  if dieRuns s seam && g.victim == some superblock && emptied v group superblock && decide (die / 8 = group) then
    retireBlock (faultEvent (smErr s seam 16) 1 0) seam group die superblock
  else s

/-- The meaning of ERASE_FAIL. -/
def execEraseFail (seam group superblock die : Nat) (s : State) : Host.Outcome State Fault Refusal :=
  .next (opEraseFail seam group superblock die s)

/-- COLLECTION_COPY_DURABLE (R344): the map entry of a durable copy's page is changed to it, if it still names the
source. -/
def opCollectionCopyDurable (seam lpn : Nat) (s : State) : State :=
  match (seamOf s seam).copies.find? (fun c => c.1.lpn == lpn) with
  | none => s
  | some c =>
    if !dieRuns s seam then s
    else
      let s1 := modSeam s seam (fun v => { v with copies := v.copies.filter (fun x => x != c) })
      let s2 := match kget (seamOf s1 seam).map lpn with
        | some e => if e.place = c.2 then
            journalRec (modSeam s1 seam (fun v => { v with map := kset v.map lpn ⟨1, c.1.place, c.1.seq⟩ })) (seam / 16) else s1
        | none => s1
      collect s2 seam

/-- The meaning of COLLECTION_COPY_DURABLE. -/
def execCollectionCopyDurable (seam lpn : Nat) (s : State) : Host.Outcome State Fault Refusal :=
  .next (opCollectionCopyDurable seam lpn s)

/-- JOURNAL_STRIPE_PROGRAM (R349): a stripe of journal records is programmed; the events of the synchronous records come
about. -/
def opJournalStripeProgram (die : Nat) (s : State) : State :=
  let d := dieOf s die
  if alive s && decide (die < 4) && d.st == 2 && decide (0 < d.journal) then
    let s1 := journalDone (modDie s die (fun d => { d with
      journal := d.journal - 7 * 16384, spanStripes := d.spanStripes + 1, spanPages := d.spanPages + 8, seq := d.seq + 8 })) die
    modDie s1 die (fun d => { d with syncs := [] })
  else s

/-- The meaning of JOURNAL_STRIPE_PROGRAM. -/
def execJournalStripeProgram (die : Nat) (s : State) : Host.Outcome State Fault Refusal :=
  .next (opJournalStripeProgram die s)

/-- Whether checkpoints are due (R350): half the journal superblocks filled, or 2^30 pages programmed, since the last
CKPT_START. -/
def ckptDue (d : SeamDie) : Bool :=
  decide (2 * dieGroups * 16 * sbStripes ≤ d.spanStripes) || decide (2 ^ 30 ≤ d.spanPages)

/-- Whether a record of a checkpoint is still to be programmed. -/
def ckptWaits (d : SeamDie) : Bool := d.syncs.any (fun r => match r with
  | .ckptStart _ | .ckptEnd => true
  | _ => false)

/-- CHECKPOINT_START (R349, R350): the next Seam in turn; its checkpoint begins when its CKPT_START is programmed. -/
def opCheckpointStart (die : Nat) (s : State) : State :=
  let d := dieOf s die
  let todo := if d.todo.isEmpty && ckptDue d then List.range 16 else d.todo
  match todo with
  | [] => s
  | i :: rest =>
    if alive s && decide (die < 4) && d.st == 2 && d.ckpt.isNone && !ckptWaits d then
      journalSync (modDie s die (fun d => { d with todo := rest })) die (.ckptStart i)
    else s

/-- The meaning of CHECKPOINT_START. -/
def execCheckpointStart (die : Nat) (s : State) : Host.Outcome State Fault Refusal := .next (opCheckpointStart die s)

/-- CHECKPOINT_DONE (R350): the map of the Seam is written, in pages that took their SEQs and carry the watermark (log 101), and
CKPT_END journalled: the checkpoint is over when that is programmed. -/
def opCheckpointDone (die : Nat) (s : State) : State :=
  let d := dieOf s die
  if alive s && d.st == 2 && d.ckpt.isSome && !ckptWaits d then
    journalSync (modDie s die (fun d => { d with
      seq := d.seq + Config.ckptPages, spanPages := d.spanPages + Config.ckptPages, star := max d.star d.water })) die .ckptEnd
  else s

/-- The meaning of CHECKPOINT_DONE. -/
def execCheckpointDone (die : Nat) (s : State) : Host.Outcome State Fault Refusal := .next (opCheckpointDone die s)

end Sys2Proof.Machine
end

