-- ==== Sys2Proof/Machine/Recipe.lean ====
section
/-! DEFINITION. Recipe steps: the fields of their parameter words, and the rules a step must keep (04 R102 to R105,
R478, and the chapters that own the step types), as functions on data. The load check applies them to fixed words, and
admission to the words a descriptor supplies. -/

namespace Sys2Proof.Machine

/-! ### Fields of a step's words -/

/-- A parameter word. -/
def StepRec.word (t : StepRec) (k : Nat) : Nat := t.words.getD k 0

/-- Whether a word of a recipe takes a PARAM word of the descriptor, and which (R103). -/
def paramNo (w : Nat) : Option Nat := if 0xFFFFFFF0 ≤ w && w ≤ 0xFFFFFFF6 then some (w - 0xFFFFFFF0) else none

/-- A recipe's steps with its PARAM words taken. -/
def takeParams (ps : List Nat) (steps : List StepRec) : List StepRec :=
  steps.map (fun t => { t with words := t.words.map (fun w => match paramNo w with
    | some n => ps.getD n 0
    | none => w) })

/-- The role of a TOKENIZE step (R111). -/
def StepRec.role (t : StepRec) : Nat := t.word 0 % 2

/-- The encoder of an ENCODE step (R301). -/
def encModelOf (q : RecipeSec) (t : StepRec) : Option Nat := if t.word 0 % 256 = 0xFF then q.encModel else some (t.word 0 % 256)

/-- The feature ledger and the policy ledger of a FEATURES step (R207). -/
def featLedger (q : RecipeSec) (t : StepRec) : Option Nat := if t.word 0 % 256 = 0xFF then q.ledger else some (t.word 0 % 256)
def policyLedger (t : StepRec) : Option Nat := if bits (t.word 0) 15 8 = 0xFF then none else some (bits (t.word 0) 15 8)

/-- CANDIDATES of an ASSAY2 step (R212). -/
def candidatesOf (t : StepRec) : Nat := if bits (t.word 0) 15 8 = 0 then 64 else bits (t.word 0) 15 8

/-- The scatter ledger of an ASSAY2 step (R212). -/
def hitLedger (t : StepRec) : Option Nat := if t.word 2 % 256 = 0xFF then none else some (t.word 2 % 256)

/-- The template of a PACK step (R226). -/
def packTemplate (q : RecipeSec) (t : StepRec) : Option Nat := if t.word 0 % 65536 = 0xFFFF then q.template else some (t.word 0 % 65536)

/-- The draw parameters of a GENERATE step (R237). -/
def drawParamsOf (t : StepRec) : DrawParams :=
  let f := fun (n : Nat) => BitVec.ofNat 32 n
  { temperature := f (t.word 1), topK := t.word 4 % 65536, topP := f (t.word 2), minP := f (t.word 3)
    repetition := bfTo32 (BitVec.ofNat 16 (t.word 5)), presence := bfTo32 (BitVec.ofNat 16 (t.word 5 / 65536))
    frequency := bfTo32 (BitVec.ofNat 16 (t.word 6)), countPrompt := (t.word 0).testBit 8 }

/-! ### Rules of steps -/

/-- A rule that a recipe breaks: the words it reads, by step and word, and the code of R46 that refuses it. -/
structure Viol where
  words : List (Nat × Nat)
  code : Nat
deriving DecidableEq, Repr

/-- The codes a recipe can be refused with (R46). -/
def cdUnknown : Nat := 0x08
def cdReference : Nat := 0x0C
def cdReserved : Nat := 0x0D
def cdLimit : Nat := 0x11

/-- A rule broken unless it holds. -/
def rule (ok : Bool) (words : List (Nat × Nat)) (code : Nat) : List Viol := if ok then [] else [⟨words, code⟩]

/-- Reserved bits of a step's words, given as masks of the words from the first. -/
def reservedRule (i : Nat) (t : StepRec) (masks : List Nat) : List Viol :=
  ((List.range masks.length).map (fun k => rule (t.word k &&& masks.getD k 0 == 0) [(i, k)] cdReserved)).flatten

/-- A mask of a whole word. -/
def allBits : Nat := 0xFFFFFFFF

/-- The step a dependency names, if its type is one of `types`. -/
def depIs (steps : List StepRec) (d : Option Nat) (types : List Nat) : Option (Nat × StepRec) :=
  d.bind (fun j => (steps[j]?).bind (fun t => if types.contains t.typ then some (j, t) else none))

/-- A dependency on a TOKENIZE step of a role. -/
def roleRule (steps : List StepRec) (d : Option Nat) (role : Nat) : List Viol :=
  match depIs steps d [1] with
  | none => [⟨[], cdReference⟩]
  | some (j, t) => rule (t.role == role) [(j, 0)] cdReference

/-- K of a SEARCH step. -/
def StepRec.searchK (t : StepRec) : Nat := t.word 0 % 65536

/-- The stored run's vocabulary. -/
def runVocab (p : PitSec) (run : Nat) : Option Nat := if run = 0 then p.runVocab0 else p.runVocab1

/-- The rules that one step breaks, in the order of its chapter. The words of a WRITE_RESULT step have no meaning and no rule
reserves them: they are ignored (DESIGN CHOICE, log 113). -/
def stepRules (g : ClaimCfg) (q : RecipeSec) (steps : List StepRec) (i : Nat) (t : StepRec) : List Viol :=
  let pit := q.pit.bind (secOfCfg g.pits)
  let gen := q.genModel.bind (secOfCfg g.models)
  let ref := fun (b : Bool) => rule b [] cdReference
  if t.typ = 1 then
    reservedRule i t [0xFFFFFFFE, 0xFFFFFFFE, 0, 0, 0xFFFEF800, allBits, allBits] ++
    rule (((if t.role = 1 then q.genVocab else q.encVocab).bind (secOfCfg g.vocabs)).isSome) [(i, 0)] cdReference ++
    ((List.range i).map (fun j => rule (!(t.role == 1 && (match steps[j]? with
        | some u => u.typ == 1 && u.role == 1
        | none => false))) [(i, 0), (j, 0)] cdLimit)).flatten ++
    rule (t.role == 0 || t.word 4 % 2048 == 0x7FF || (match q.genVocab.bind (secOfCfg g.vocabs) with
      | some v => decide (t.word 4 % 2048 < v.stopsets.length)
      | none => true)) [(i, 4), (i, 0)] cdReference
  else if t.typ = 2 then
    reservedRule i t [0xFFFFFE00, 0, allBits, allBits, allBits, allBits, allBits] ++
    roleRule steps t.dep0 0 ++ ref t.dep1.isNone ++
    rule (match (encModelOf q t).bind (secOfCfg g.models) with
      | some m => m.kind == 2 && some m.vocab == q.encVocab
      | none => false) [(i, 0)] cdReference
  else if t.typ = 3 then
    reservedRule i t [0, 0xFFFF0000, 0, allBits, allBits, allBits, allBits] ++
    ref ((depIs steps t.dep0 [2]).isSome && pit.isSome) ++
    rule (decide (1 ≤ t.searchK) && decide (t.searchK ≤ 1024)) [(i, 0)] cdLimit ++
    rule (decide (t.word 1 % 256 ≤ 16) && decide (bits (t.word 1) 15 8 ≤ 8)) [(i, 1)] cdLimit ++
    (match depIs steps t.dep0 [2], pit with
      | some (j, e), some p => rule (match (encModelOf q e).bind (secOfCfg g.models) with
          | some m => m.outDim == p.dim
          | none => true) [(j, 0)] cdReference
      | _, _ => [])
  else if t.typ = 4 then
    let a := depIs steps t.dep0 [3]
    let b := depIs steps t.dep1 [3]
    let ka := (a.map (fun x => x.2.searchK)).getD 0
    let kb := (b.map (fun x => x.2.searchK)).getD 0
    reservedRule i t [0xFFFF0000, allBits, allBits, allBits, allBits, allBits, allBits] ++
    ref (a.isSome && (t.dep1.isNone || (b.isSome && (a.map (fun x => x.2.dep0)) == (b.map (fun x => x.2.dep0))))) ++
    rule (decide (ka + kb ≤ 1024)) ((a.toList ++ b.toList).map (fun x => (x.1, 0))) cdLimit ++
    rule (match (featLedger q t).bind (secOfCfg g.ledgers) with
      | some l => l.key == 1 && l.pit == q.pit
      | none => false) [(i, 0)] cdReference ++
    rule (match policyLedger t with
      | none => true
      | some n => match secOfCfg g.ledgers n with
        | some l => l.key == 3
        | none => false) [(i, 0)] cdReference
  else if t.typ = 5 then
    let a := depIs steps t.dep0 [4]
    reservedRule i t [0xFFF0, allBits, allBits, allBits, allBits, allBits, allBits] ++
    ref a.isSome ++
    (match a with
      | some (j, f) => rule (match (featLedger q f).bind (secOfCfg g.ledgers) with
          | some l => decide (t.word 0 % 16 < l.formulas.length)
          | none => true) [(i, 0), (j, 0)] cdReference
      | none => []) ++
    rule (decide (1 ≤ t.word 0 / 65536) && decide (t.word 0 / 65536 ≤ 1024)) [(i, 0)] cdLimit
  else if t.typ = 6 then
    reservedRule i t [0xFE, 0, 0xFF000000, 0, allBits, allBits, allBits] ++
    ref (depIs steps t.dep0 [3, 4, 5]).isSome ++ roleRule steps t.dep1 0 ++
    ref (match q.rerankModel.bind (secOfCfg g.models) with
      | some m => m.kind == 3 && some m.vocab == q.encVocab
      | none => false) ++
    rule (match pit with
      | some p => (runVocab p (t.word 0 % 2)).isSome && runVocab p (t.word 0 % 2) == q.encVocab
      | none => false) [(i, 0)] cdReference ++
    rule (decide (candidatesOf t ≤ 64) && decide (1 ≤ t.word 0 / 65536) && decide (t.word 0 / 65536 ≤ candidatesOf t))
      [(i, 0)] cdLimit ++
    rule (decide (t.word 1 % 65536 + t.word 1 / 65536 ≤ 512)) [(i, 1)] cdLimit ++
    rule (match hitLedger t with
      | none => true
      | some n => match secOfCfg g.ledgers n with
        | some l => l.scatter && l.key == 1 && l.pit == q.pit
        | none => false) [(i, 2)] cdReference
  else if t.typ = 7 then
    reservedRule i t [0xFFFE0000, 0, 0, 0xFFFF0000, allBits, allBits, allBits] ++
    ref ((t.dep0.isNone || (depIs steps t.dep0 [3, 4, 5, 6]).isSome) && gen.isSome) ++ roleRule steps t.dep1 1 ++
    rule (match (packTemplate q t).bind (secOfCfg g.templates) with
      | some x => some x.vocab == q.genVocab
      | none => false) [(i, 0)] cdReference ++
    rule (match pit with
      | some p => (runVocab p (bits (t.word 0) 16 16)).isSome && runVocab p (bits (t.word 0) 16 16) == q.genVocab
      | none => t.dep0.isNone) [(i, 0)] cdReference ++
    rule (decide (t.word 3 % 65536 ≤ 1024)) [(i, 3)] cdLimit
  else if t.typ = 8 then
    reservedRule i t [0xFFFF0000, allBits, allBits, allBits, allBits, allBits, allBits] ++
    ref ((depIs steps t.dep0 [7]).isSome && t.dep1.isNone && gen.isSome)
  else if t.typ = 9 then
    let p := drawParamsOf t
    reservedRule i t [0xFFFFFE00, 0, 0, 0, 0xFFFF0000, 0, 0xFFFF0000] ++
    ref ((depIs steps t.dep0 [8]).isSome && t.dep1.isNone) ++
    rule (decide (t.word 0 % 256 ≤ 8) || t.word 0 % 256 == 0xFF) [(i, 0)] cdLimit ++
    rule (drawParamsOk { p with topP := 0, minP := 0, topK := 0, repetition := 0x3F800000, presence := 0, frequency := 0 })
      [(i, 1)] cdLimit ++
    rule (drawParamsOk { p with temperature := 0, minP := 0, topK := 0, repetition := 0x3F800000, presence := 0, frequency := 0 })
      [(i, 2)] cdLimit ++
    rule (drawParamsOk { p with temperature := 0, topP := 0, topK := 0, repetition := 0x3F800000, presence := 0, frequency := 0 })
      [(i, 3)] cdLimit ++
    rule (decide (p.topK ≤ 2048)) [(i, 4)] cdLimit ++
    rule (drawParamsOk { p with temperature := 0, topP := 0, minP := 0, topK := 0, frequency := 0 }) [(i, 5)] cdLimit ++
    rule (drawParamsOk { p with temperature := 0, topP := 0, minP := 0, topK := 0, repetition := 0x3F800000, presence := 0 })
      [(i, 6)] cdLimit
  else rule (t.typ == 10) [] cdUnknown
where
  /-- A section of a claim's configuration by its instance. -/
  secOfCfg {α : Type} (m : AMap (Inst α)) (n : Nat) : Option α := (kget m n).map (·.sec)

/-- Whether a step's dependencies name lower-numbered steps (R103). -/
def depsRule (i : Nat) (t : StepRec) : List Viol :=
  rule ((t.dep0.map (fun d => decide (d < i))).getD true && (t.dep1.map (fun d => decide (d < i))).getD true) [] cdReference

/-- The rules a recipe's steps break, step by step. -/
def recipeViols (g : ClaimCfg) (q : RecipeSec) (steps : List StepRec) : List Viol :=
  ((List.range steps.length).map (fun i => match steps[i]? with
    | some t => depsRule i t ++ stepRules g q steps i t
    | none => [])).flatten

/-- Whether a word of a recipe takes a PARAM word. -/
def isParam (q : RecipeSec) (w : Nat × Nat) : Bool :=
  match q.steps[w.1]? with
  | some t => (paramNo (t.word w.2)).isSome
  | none => false

/-- The code the load check refuses a recipe's steps with: the first rule broken by fixed words alone (R478). -/
def recipeLoadCode (g : ClaimCfg) (q : RecipeSec) : Option Nat :=
  ((recipeViols g q q.steps).find? (fun v => !v.words.any (isParam q))).map (·.code)

/-- The reason admission refuses a descriptor's PARAM words with (R478): 0x10 or 0x16. -/
def recipeAdmitReason (g : ClaimCfg) (q : RecipeSec) (ps : List Nat) : Option Nat :=
  ((recipeViols g q (takeParams ps q.steps)).find? (fun v => v.words.any (isParam q))).map (fun v =>
    if v.code = cdReserved then 0x10 else 0x16)

end Sys2Proof.Machine
end

