-- ==== Sys2Proof/Machine/Steps.lean ====
section
/-! DEFINITION. The steps of a request (04 R105): which are issued, the buffers and commands they take (13 R304,
15 R361 to R365), what a step begins with, its completion, and the points that Watch can dump (19 R443 to R445). -/

namespace Sys2Proof.Machine

/-! ### Units of a claim -/

/-- The units of a class that a claim owns (R40, R419), in ascending order. -/
def claimUnits (s : State) (c cls : Nat) : List Nat :=
  if cls = 1 then lodesOf s c
  else if cls = 2 || cls = 3 then seamsOf s c
  else if cls = 0xE then bitList 17 (ownOf s c (·.bankMask))
  else if cls = 0xD then bitList 48 (ownOf s c (·.aditMask))
  else bitList 8 (ownOf s c (fun o =>
    if cls = 4 then o.crusher else if cls = 5 then o.selector else if cls = 6 then o.timber
    else if cls = 7 then o.packer else if cls = 8 then o.assay else if cls = 9 then o.gather
    else if cls = 0xA then o.cage else if cls = 0xB then o.face else if cls = 0xC then o.haulage
    else if cls = 0xF then o.staging else 0))

/-- The lowest unit of a class that a claim owns and that is in service: it takes the work of a step (log 27). -/
def firstUnit (s : State) (c cls : Nat) : Option Nat := (claimUnits s c cls).find? (unitOk s cls)

/-! ### The plan of a request -/

/-- The steps of a request: its recipe's, or for SEARCH_ONLY and FLAT_SCAN a search and the writing of its list. -/
def planOf (r : Req) : List StepRec :=
  match r.bind.recipe with
  | some q => q.steps
  | none => [⟨3, none, none, []⟩, ⟨10, some 0, none, []⟩]

/-- What a step of a request has produced. -/
def stepSt (r : Req) (i : Nat) : StepSt := r.steps.getD i {}

/-- The state with a step of a request changed. -/
def modStep (s : State) (n i : Nat) (f : StepSt → StepSt) : State := modReq s n (fun r => { r with steps := lmod r.steps i f })

/-- The roster engine classes whose units a step type works on (R104, R360); generation of a request with a grammar
uses Timber also. -/
def stepEngines (r : Req) (typ : Nat) : List Nat :=
  if typ = 1 then [4] else if typ = 2 then [0, 1] else if typ = 3 then [2] else if typ = 4 then [9]
  else if typ = 5 then [8, 5] else if typ = 6 then [8, 0, 5] else if typ = 7 then [7] else if typ = 8 then [0, 1]
  else if typ = 9 then [0, 1, 5, 4] ++ (if r.bind.grammar.isSome then [6] else [])
  else []

/-- The roster class of a tenant's work (R361). -/
def rosterClass (s : State) (c t : Nat) : Nat := unshaped.tenantClass s c t

/-- The commands that wait on a unit. -/
def queueOn (s : State) (k : RUnit) : List RCmd := (kgetD s.haul.rosters k {}).queue

/-- The unit that takes a step's work of an engine class: of the claim's that are in service the one with the fewest commands
waiting, the lowest of equals, so that independent steps run on two at once (R109; DESIGN CHOICE, log 27). -/
def pickUnit (s : State) (c engine : Nat) : Option Nat :=
  leastBy (fun a b => decide ((queueOn s ⟨c, engine, a⟩).length < (queueOn s ⟨c, engine, b⟩).length))
    ((claimUnits s c (unitClass engine)).filter (unitOk s (unitClass engine)))

/-- The unit that a command of a request's step waits on, else the claim's lowest in service. -/
def stepUnit (s : State) (c engine n i : Nat) : Option Nat :=
  ((s.haul.rosters.find? (fun p => p.1.claim == c && p.1.engine == engine
    && p.2.queue.any (fun x => x.slot == some n && x.step == i))).map (·.1.unit)).orElse (fun _ => firstUnit s c (unitClass engine))

/-- Whether the bank that takes a step's array work has room in its queue of 64 commands (R284). -/
def bankRoom (s : State) (c : Nat) (engines : List Nat) : Bool :=
  !engines.contains 0 || match pickUnit s c 0 with
    | some u => decide (((List.range 4).map (fun d => (queueOn s ⟨d, 0, u⟩).length)).sum < 64)
    | none => true

/-- A command put on the roster of the unit that takes a step's work (R365). -/
def pushCmd (s : State) (c engine : Nat) (x : RCmd) : State :=
  match pickUnit s c engine with
  | none => s
  | some u =>
    let k : RUnit := ⟨c, engine, u⟩
    let r := kgetD s.haul.rosters k {}
    let id : UnitId := ⟨unitClass engine, u⟩
    let g := kgetD s.hf.gates id {}
    { s with
      haul := { s.haul with rosters := kset s.haul.rosters k { r with queue := r.queue ++ [x] } }
      hf := { s.hf with gates := kset s.hf.gates id { g with issued := g.issued + 1 } } }

/-- The command of a request's step taken off the rosters of an engine class: it ends with its step. -/
def popCmd (s : State) (c n i engine : Nat) : State :=
  let mine := fun (x : RCmd) => x.slot == some n && x.step == i
  let f := fun (r : RosterRun) => match findIdx? mine r.queue with
    | none => r
    | some i => { r with queue := r.queue.take i ++ r.queue.drop (i + 1) }
  let here := fun (k : RUnit) => k.claim == c && k.engine == engine
  let s1 := (s.haul.rosters.filter (fun p => here p.1 && p.2.queue.any mine)).foldl (fun s p =>
    gateReturn s ⟨unitClass engine, p.1.unit⟩ 1) s
  { s1 with haul := { s1.haul with rosters := s1.haul.rosters.map (fun p => if here p.1 then (p.1, f p.2) else p) } }

/-! ### Watch (R443 to R445) -/

/-- Whether an arm watches the present occupant of a slot. -/
def armOf (s : State) (n : Nat) (a : Arm) : Bool := a.slot == n && a.o.req == handleOf s n

/-- Whether a dump of one of a step's tensors is still to be written: steps that depend on it wait (R445). -/
def dumping (s : State) (n i : Nat) : Bool := s.watch.arms.any (fun a => armOf s n a && a.wname.stepNo == i && a.fired.isSome)

/-- Arms that a tensor fires: those on a step and point, at an occurrence and, for HIDDEN and ATTN, a layer. -/
def fireArm (s : State) (n i point occ layer : Nat) (tensor : List Byte) (pos : Nat) : State :=
  let hit := fun (a : Arm) => armOf s n a && a.wname.stepNo == i && a.wname.point == point && a.step == occ
    && a.fired.isNone && (a.wname.layer == layer || (point != 4 && point != 5))
  { s with watch := { s.watch with
    arms := s.watch.arms.map (fun a => if hit a then { a with fired := some (tensor, pos) } else a) } }

/-- The HIDDEN and ATTN arms of a step that watch the position at an occurrence (R443). -/
def fireLayers (s : State) (n i occ pos : Nat) (m : ModelSec) : State :=
  let want := s.watch.arms.filter (fun a => armOf s n a && a.wname.stepNo == i && (a.wname.point == 4 || a.wname.point == 5)
    && a.step == occ && a.fired.isNone)
  want.foldl (fun s a =>
    let (bs, s1) := freeBytes s (2 * if a.wname.point = 4 then m.dModel else m.qHeads * m.headDim)
    fireArm s1 n i a.wname.point occ a.wname.layer bs pos) s

/-- No position: QUERY, RESULT and PROMPT (R446). -/
def noPos : Nat := 0xFFFFFFFF

/-! ### Result lists (R158) -/

/-- An entry of a result list. -/
def entBytes (e : ListEnt) : List Byte :=
  leBytes 8 e.handle ++ leBytes 4 e.score.toNat ++ leBytes 1 e.chan ++ leBytes 1 e.module ++ leBytes 2 0

/-- An entry without a node. -/
def nullEnt : List Byte := List.replicate 8 0xFF ++ List.replicate 4 0xFF ++ List.replicate 4 0

/-- The header of a result list. -/
def listHeader (k n flags epoch ties dups visited : Nat) : List Byte :=
  leBytes 2 k ++ leBytes 2 n ++ leBytes 2 flags ++ leBytes 2 0 ++ leBytes 8 epoch ++ leBytes 1 (min 15 ties)
    ++ leBytes 3 0 ++ leBytes 4 (min (2 ^ 32 - 1) dups) ++ leBytes 4 (min (2 ^ 32 - 1) visited) ++ leBytes 4 0

/-- A list with its K slots. -/
def listBytes (l : RList) : List Byte :=
  listHeader l.k l.ents.length (l.flags &&& (flTie ||| flDup ||| flBudget ||| flFlat)) l.epoch l.ties l.dups l.visited
    ++ (l.ents.map entBytes).flatten ++ (List.replicate (l.k - l.ents.length) nullEnt).flatten

/-! ### What a step begins with -/

/-- The pit a request searches, and its section. -/
def reqPit (s : State) (r : Req) : Option (Nat × PitSec) := r.bind.pit.bind (fun p => (pitSecOf s r.claim p).map (fun x => (p, x)))

/-- A SEARCH step's search put into its claim's queue at the crossbar (R148, R149). -/
def beginSearch (s : State) (n i : Nat) (r : Req) (t : StepRec) : State :=
  match reqPit s r with
  | none => s
  | some (p, sec) =>
    let own := r.bind.recipe.isNone
    let vec := if own then (stepSt r i).vec else (t.dep0.map (fun d => (stepSt r d).vec)).getD []
    let k := if own then r.desc.k else t.searchK
    let beam := if own then r.desc.beam else t.word 0 / 65536
    let dflt := fun (a b : Nat) => if a = 0 then b else a
    let x : Search :=
      { owner := .request n i, claim := r.claim, pit := p, epoch := r.bind.epoch
        query := convertQuery sec.vecFormat vec, k := k, beam := min 1024 (max (dflt beam sec.defaultBeam) k)
        nStrands := dflt (t.word 1 % 256) sec.defaultStrands, width := dflt (bits (t.word 1) 15 8) sec.expandWidth
        limit := dflt (t.word 2) 65536, label := r.desc.label, budget := dflt r.desc.filterBudget 65536
        flat := r.opcode == 0x11 }
    { s with drift := { s.drift with searches := kset s.drift.searches s.drift.next x, next := s.drift.next + 1 } }

/-- Positions of a KV page (R239). -/
def pppOf (m : ModelSec) : Nat := 32768 / max 1 (m.kvHeads * m.headDim * (if m.kvFormat = 0 then 1 else 2))

/-- The generator of a request, and the draft model prefilled with it (R236). -/
def genOf (s : State) (r : Req) : Option ModelSec := (r.bind.recipe.bind (·.genModel)).bind (modelOf s r.claim)
def draftOf (s : State) (r : Req) : Option ModelSec :=
  if r.desc.noSpec then none else (r.bind.recipe.bind (·.draftModel)).bind (modelOf s r.claim)

/-- The pages a request reserves (R242). -/
def reserveOf (s : State) (r : Req) (g : ModelSec) : Nat :=
  let last := min (r.bind.pfxLen + r.gen.prompt.length + r.desc.maxNew - 1) (g.seqLimit - 1)
  let part := fun (m : ModelSec) => m.layers * (last / pppOf m + 1 - r.bind.pfxLen / pppOf m)
  part g + ((draftOf s r).map part).getD 0 + 1

/-- PREFILL begins (R238 step 1, R242): a sequence at its limit ends, and the reservation is asked for. -/
def beginPrefill (s : State) (n : Nat) (r : Req) : State :=
  match genOf s r with
  | none => s
  | some g =>
    if g.seqLimit ≤ r.bind.pfxLen + r.gen.prompt.length then commitReq s n 0x0A 0
    else
      let want := reserveOf s r g
      if poolPages s r.claim 1 + poolPages s r.claim 0x10 < want then
        commitReq { s with face := { s.face with err := s.face.err ||| 2 } } n 0x0A 0
      else modReq s n (fun r => { r with gen := { r.gen with resvAsked := some want } })

/-- A token entered in a count table of 8,192 entries (R258), as generated or as packed; whether it was left out. -/
def enterCount (gen : Bool) (m : AMap (Nat × Nat)) (t : Nat) : AMap (Nat × Nat) × Bool :=
  match kget m t with
  | some (a, b) => (kset m t (if gen then (min 65535 (a + 1), b) else (a, min 65535 (b + 1))), false)
  | none => if m.length < 8192 then (kset m t (if gen then (1, 0) else (0, 1)), false) else (m, true)

/-- Tokens entered in a request's count table, in order; those left out are counted (COUNT_FULL). -/
def enterCounts (s : State) (n : Nat) (gen : Bool) (ts : List Nat) : State :=
  match reqOf s n with
  | none => s
  | some r =>
    let (m, full) := ts.foldl (fun (acc : AMap (Nat × Nat) × Nat) t =>
      let (m, f) := enterCount gen acc.1 t
      (m, acc.2 + if f then 1 else 0)) (r.gen.counts, 0)
    let s1 := modReq s n (fun r => { r with gen := { r.gen with counts := m } })
    if full = 0 then s1
    else { s1 with face := { s1.face with countFull := satAdd 32 s1.face.countFull full, err := s1.face.err ||| 1 } }

/-- GENERATE begins (R258, R275): the packed tokens are entered where COUNT_PROMPT says so, and Timber is at START. -/
def beginGenerate (s : State) (n : Nat) (r : Req) (t : StepRec) : State :=
  let s1 := modReq s n (fun r => { r with gen := { r.gen with timber := r.bind.grammar.map (fun g => ⟨g.start, []⟩) } })
  if (drawParamsOf t).countPrompt then enterCounts s1 n false r.gen.prompt else s1

/-! ### Stream shapers (R370, R374, R481) -/

/-- The rank of a tenant among those of its claim's TENANT_MAP. -/
def tenantRank (s : State) (c t : Nat) : Nat := ((List.range t).filter (tenantOk s c)).length

/-- The claim's Haulage groups in the order a tenant's request tries them: its own, then up and round. -/
def groupsFor (s : State) (c t : Nat) : List Nat :=
  let gs := claimUnits s c 0xC
  let i := tenantRank s c t / 512
  (gs.drop i ++ gs.take i).filter (unitOk s 0xC)

/-- Whether a group has a stream shaper free, of its 1,024. -/
def groupFree (s : State) (g : Nat) : Bool := decide ((s.haul.streams.filter (fun x => x.2.group == g)).length < 1024)

/-- A stream shaper taken by a request, full (R374); whether one was free. -/
def takeShaper (s : State) (n : Nat) (r : Req) : State × Bool :=
  match (groupsFor s r.claim r.tenant).find? (groupFree s) with
  | none => (s, false)
  | some g =>
    let b := ((kget s.haul.shapers r.claim).map (fun x => (x.stream.getD (rosterClass s r.claim r.tenant) ⟨0, 0⟩).burst)).getD 0
    let s1 := modReq s n (fun r => { r with stream := { r.stream with granted := true } })
    ({ s1 with haul := { s1.haul with streams := kset s1.haul.streams n ⟨r.claim, g, 1000000 * (b : Int)⟩ } }, true)

/-- A wait for a stream shaper, with SHAPER_WAIT. -/
def waitShaper (s : State) (n : Nat) : State :=
  { s with haul := { s.haul with
    err := s.haul.err ||| 1, streamWaits := if s.haul.streamWaits.contains n then s.haul.streamWaits else s.haul.streamWaits ++ [n] } }

/-! ### Staging buffers (R304) -/

/-- LIMIT of a TOKENIZE step (R111). -/
def tokLimit (q : RecipeSec) (t : StepRec) : Nat := if t.word 2 = 0 then q.maxInputTokens else min (t.word 2) q.maxInputTokens

/-- The budget of a PACK step (R226). -/
def packBudget (s : State) (r : Req) (t : StepRec) : Nat :=
  if t.word 1 = 0 then ((genOf s r).map (·.seqLimit)).getD 0 - r.bind.pfxLen - r.desc.maxNew else t.word 1

/-- The bytes of a staging group. -/
def groupBytes : Nat := 16777216

/-- The most entries that the list of a step of a request holds. -/
def listRoom (r : Req) (d : Option Nat) : Nat :=
  match d.bind (fun j => (planOf r)[j]?) with
  | none => 0
  | some t =>
    if t.typ = 3 then (if r.bind.recipe.isNone then r.desc.k else t.searchK)
    else if t.typ = 5 || t.typ = 6 then t.word 0 / 65536
    else if t.typ = 4 then
      let k := fun (e : Option Nat) => ((e.bind (fun j => (planOf r)[j]?)).map (·.searchK)).getD 0
      k t.dep0 + k t.dep1
    else 0

/-- The bytes of its staging area that a step takes (R304): the tokens, values, entries and rows that it leaves there, and for
GENERATE the detokenizing state of 128 bytes (R109) and Timber's: 64 bytes, MAX_DEPTH of stack and 8 speculative entries of 64
(R260). The spec gives those two alone; the others are the sizes of what the step produces (DESIGN CHOICE, log 72). -/
def stagingNeed (s : State) (r : Req) (i : Nat) (t : StepRec) : Nat :=
  let k := listRoom r (some i)
  let row := fun (l : Option Nat) => (l.map (fun l => (ledgerOf s r.claim l).live.hdr.rowBytes)).getD 0
  min groupBytes (
    if t.typ = 1 then 4 * min ((r.bind.recipe.map (fun q => tokLimit q t)).getD 0) r.desc.inputBytes
    else if t.typ = 2 then 4 * (((r.bind.recipe.bind (fun q => encModelOf q t)).bind (modelOf s r.claim)).map (·.outDim)).getD 0
    else if t.typ = 3 || t.typ = 5 || t.typ = 6 then 32 + 16 * k
    else if t.typ = 4 then 32 + 16 * k + k * row (r.bind.recipe.bind (fun q => featLedger q t)) + row (policyLedger t)
    else if t.typ = 7 then 4 * packBudget s r t
    else if t.typ = 9 then 128 + ((r.bind.grammar.map (fun g => 64 + g.maxDepth + 8 * 64)).getD 0)
    else 0)

/-- The bytes of a staging group that steps hold. -/
def groupUsed (s : State) (g : Nat) : Nat :=
  ((requests s).map (fun r => ((r.2.steps.filter (fun x => x.staging == some g)).map (·.bytes)).sum)).sum

/-- The claim's lowest staging group in service that has room for a number of bytes. -/
def roomyGroup (s : State) (c need : Nat) : Option Nat :=
  (claimUnits s c 0xF).find? (fun g => unitOk s 0xF g && decide (groupUsed s g + need ≤ groupBytes))

/-- The staging of complete steps freed whose results have been consumed: every step that depends on one is complete, and for
a list every WRITE_RESULT step also (R304). -/
def freeConsumed (s : State) (n : Nat) : State :=
  modReq s n (fun r =>
    let ts := (List.range (planOf r).length).zip (planOf r)
    let used := fun (i : Nat) =>
      let isList := (((planOf r)[i]?).map (fun t => decide (3 ≤ t.typ) && decide (t.typ ≤ 6))).getD false
      ts.all (fun x => !(x.2.dep0 == some i || x.2.dep1 == some i || (isList && x.2.typ == 10)) || (stepSt r x.1).st == 2)
    { r with steps := ((List.range r.steps.length).zip r.steps).map (fun x =>
        if x.2.st = 2 && used x.1 then { x.2 with staging := none, bytes := 0 } else x.2) })

/-! ### Issue and completion (R24, R105, R304) -/

/-- Whether a dependency lets a step be issued: complete, and its dump written. -/
def depReady (s : State) (n : Nat) (r : Req) (d : Option Nat) : Bool :=
  match d with
  | none => true
  | some j => (stepSt r j).st == 2 && !dumping s n j

/-- A step issued with its staging group, if it takes one: its commands go to the rosters, and it begins. -/
def startStep (s : State) (n i : Nat) (g : Option Nat) (r : Req) (t : StepRec) : State :=
  let s1 := modStep s n i (fun x => { x with st := 1, staging := g, bytes := stagingNeed s r i t })
  let cls := rosterClass s r.claim r.tenant
  let s2 := (stepEngines r t.typ).foldl (fun s e => pushCmd s r.claim e ⟨some n, cls, i⟩) s1
  if t.typ = 3 then beginSearch s2 n i r t
  else if t.typ = 8 then beginPrefill s2 n r
  else if t.typ = 9 then beginGenerate s2 n r t
  else s2

/-- A step issued if it can be: its dependencies complete, its shaper taken where it opens a stream, its staging buffers
granted, and a place in its bank's queue (WRITE_RESULT, whose list another step produced, takes none; log 39); a WRITE_RESULT without an address is complete
at once. -/
def tryIssue (s : State) (n i : Nat) : State :=
  match running s n with
  | none => s
  | some r =>
    match (planOf r)[i]? with
    | none => s
    | some t =>
      if !((stepSt r i).st == 0 && depReady s n r t.dep0 && depReady s n r t.dep1) then s
      else if t.typ = 10 && r.desc.resultAddr = 0 then modStep s n i (fun x => { x with st := 2 })
      else
        let (s1, ok) := if t.typ = 9 && r.hasStream && !r.stream.granted then takeShaper s n r else (s, true)
        if !ok then waitShaper s1 n
        else if t.typ = 10 then startStep s1 n i none r t
        else
          match (roomyGroup s1 r.claim (stagingNeed s1 r i t)).filter (fun _ => bankRoom s1 r.claim (stepEngines r t.typ)) with
          | some g => startStep s1 n i (some g) r t
          | none =>
            if s1.cage.staging.contains (n, i) then s1
            else { s1 with cage := { s1.cage with staging := s1.cage.staging ++ [(n, i)] } }

/-- Every step of a request that can be issued, lowest first. -/
def issueSteps (s : State) (n : Nat) : State :=
  match running s n with
  | none => s
  | some r => (List.range (planOf r).length).foldl (fun s i => tryIssue s n i) s

/-- A request whose every step is complete retires with DONE (R98, R105). -/
def endIfComplete (s : State) (n : Nat) : State :=
  match running s n with
  | none => s
  | some r => if r.steps.all (fun x => x.st == 2) then commitReq s n 0 r.out.detail else s

/-- Steps issued, and the request ended if none is left. -/
def goOn (s : State) (n : Nat) : State := endIfComplete (issueSteps s n) n

/-- A step complete with what it produced: its commands are over, buffers whose results have been consumed are free, and what
depends on it goes on. -/
def completeStep (s : State) (n i : Nat) (f : StepSt → StepSt) : State :=
  match running s n with
  | none => s
  | some r =>
    let typ := (((planOf r)[i]?).map (·.typ)).getD 0
    let s1 := (stepEngines r typ).foldl (fun s e => popCmd s r.claim n i e) s
    goOn (freeConsumed (modStep s1 n i (fun x => { f x with st := 2 })) n) n

/-- Whether a step's commands are the first of their request on the units they wait on (R23, R365): before them stands no
command of another step. The commands of PREFILL and GENERATE come one after another as Face issues them, so that those steps hold
back no other (log 114). -/
def inOrder (s : State) (n i : Nat) (r : Req) : Bool :=
  let long := fun (j : Nat) => (((planOf r)[j]?).map (fun t => t.typ == 8 || t.typ == 9)).getD false
  long i || s.haul.rosters.all (fun p =>
    match (p.2.queue.filter (fun x => x.slot == some n && !long x.step)).map (·.step) with
    | [] => true
    | j :: rest => j == i || !rest.contains i)

/-- A request's issued step of a type, where units of its engines are in service and no earlier command of the request stands
before its own. -/
def issued (s : State) (n i typ : Nat) : Option (Req × StepRec) :=
  if !alive s then none
  else
    match running s n with
    | none => none
    | some r =>
      match (planOf r)[i]? with
      | none => none
      | some t =>
        if t.typ = typ && (stepSt r i).st = 1
            && (stepEngines r typ).all (fun e => (firstUnit s r.claim (unitClass e)).isSome) && inOrder s n i r then some (r, t)
        else none

/-- Flags set on a request. -/
def flagReq (s : State) (n m : Nat) : State := modReq s n (fun r => r.flag m)

/-- Invalid UTF-8 of a request counted (R116). -/
def countInvalid (s : State) (n k : Nat) : State :=
  if k = 0 then s
  else
    let s1 := modReq s n (fun r => { r.flag flUtf8 with out := { (r.flag flUtf8).out with invalid := r.out.invalid + k } })
    { s1 with eng := { s1.eng with crInvalid := satAdd 32 s1.eng.crInvalid k } }

end Sys2Proof.Machine
end

