-- ==== Sys2Proof/Machine/Weights.lean ====
section
/-! DEFINITION. The products that models and adapter versions ask of the weights the Cage holds (10 R234, R246, R247, R253). -/

namespace Sys2Proof.Machine

/-! ### Weights (R234) -/

/-- The rows and the row length of a tensor of a model by its number in the blob; none for a norm vector. -/
def tensorShape (m : ModelSec) (entries t : Nat) : Option (Nat × Nat) :=
  let q := m.qHeads * m.headDim
  let kv := m.kvHeads * m.headDim
  let outs := if m.kind = 2 then m.outDim else if m.kind = 3 then 1 else entries
  if t < 9 * m.layers then
    ([none, some (q, m.dModel), some (kv, m.dModel), some (kv, m.dModel), some (m.dModel, q), none,
      some (m.ffnDim, m.dModel), some (m.ffnDim, m.dModel), some (m.dModel, m.ffnDim)] : List (Option (Nat × Nat))).getD (t % 9) none
  else if t = 9 * m.layers + 1 then some (outs, m.dModel)
  else none

/-- The number of UNEMBED among a model's tensors. -/
def unembedNo (m : ModelSec) : Nat := 9 * m.layers + 1

/-- Some bits of a row, from a bit on. -/
def rowBits (row : List Byte) (pos n : Nat) : BitVec 16 := BitVec.ofNat 16 (fld row (pos / 8) 3 / 2 ^ (pos % 8) % 2 ^ n)

/-- A row of a tensor as an operand of the arrays (R234, R286). Where MX formats put elements and scales, and which of two element
formats they use, is open (log 120). -/
def weightOp (fmt inputs : Nat) (row : List Byte) : TileOp :=
  let mx := fun (f : NumFmt) (n : Nat) => ({
    fmt := f,
    elems := (List.range inputs).map (fun k => rowBits row (Config.mxElemBit fmt inputs k) n),
    scales := (List.range ((inputs + 31) / 32)).map (fun b => BitVec.ofNat 8 (byteAt row (Config.mxScaleByte fmt inputs b))) } : TileOp)
  if fmt = 0 then mx .mxE2m1 4
  else if fmt = 1 then mx (if Config.mx6E3M2 then .mxE3m2 else .mxE2m3) 6
  else if fmt = 2 then mx (if Config.mx8E5M2 then .mxE5m2 else .mxE4m3) 8
  else if fmt = 3 then { fmt := .e4m3, elems := (List.range inputs).map (fun k => rowBits row (8 * k) 8), scales := [] }
  else { fmt := .bf16, elems := (List.range inputs).map (fun k => rowBits row (16 * k) 16), scales := [] }

/-- The byte of a model's blob at which a tensor starts. -/
def tensorStart (m : ModelSec) (entries t : Nat) : Nat := (((tensorBytes m entries).take t).map (fun b => roundUp b 65536)).sum

/-- The bytes of rows `lo` up to but not at `lo + count` of a tensor: where they start in the blob, and the length of a row. -/
def rowSpan (m : ModelSec) (entries t lo inputs : Nat) : Nat × Nat :=
  let w := weightRow m.weightFormat inputs
  (tensorStart m entries t + lo * w, w)

/-- Rows of a tensor from the pages the Cage holds. -/
def weightRows (s : State) (c mi : Nat) (m : ModelSec) (t lo count inputs : Nat) : List TileOp :=
  let n := objectPages s c 2 mi
  let (o, w) := rowSpan m (vocabSize s c m.vocab) t lo inputs
  (List.range count).map (fun i => weightOp m.weightFormat inputs (objectBytes s c 2 mi n (o + i * w) w))

/-- The pages that rows of a tensor lie in. -/
def weightPages (s : State) (c mi : Nat) (m : ModelSec) (t lo count inputs : Nat) : List PageKey :=
  let (o, w) := rowSpan m (vocabSize s c m.vocab) t lo inputs
  if count * w = 0 then []
  else (List.range ((o + count * w - 1) / 65536 + 1 - o / 65536)).map (fun i => ⟨c, 2, mi, o / 65536 + i⟩)

/-- The tiles of a product of activations with weight rows: the reduction dimension in runs of up to 4,096 terms (R288). -/
def productTiles (x : List (List B16)) (ws : List TileOp) (inputs : Nat) : List (List TileOp × List TileOp) :=
  (List.range ((inputs + 4095) / 4096)).map (fun i =>
    (x.map (fun a => bfOp ((a.drop (4096 * i)).take 4096)),
      ws.map (fun w => { w with elems := (w.elems.drop (4096 * i)).take 4096, scales := (w.scales.drop (128 * i)).take 128 })))

/-- Whether rows of a tensor belong to the slice of a Lode: each begins in a page of its run, or in that of a fenced Lode before it
(R307, R422). -/
def inSlice (s : State) (unit c mi : Nat) (m : ModelSec) (t lo count inputs : Nat) : Bool :=
  let (o, w) := rowSpan m (vocabSize s c m.vocab) t lo inputs
  (List.range count).all (fun i => bufferLode s ⟨c, 2, mi, (o + i * w) / 65536⟩ == unit)

/-- Whether a unit multiplies rows of a model's tensor for a pass over `n` positions (R246): the Lode engine of their slice does so
for a generator or draft model up to CROSSOVER positions, the arrays otherwise. -/
def multiplies (engine n : Nat) (m : ModelSec) (slice : Bool) : Bool :=
  let small := decide (m.kind ≤ 1) && decide (n ≤ m.crossover)
  if engine = 1 then small && slice else engine == 0 && !small

/-- The product of `weights` (R246); none where the unit does not multiply it. -/
def weightsWork (s : State) (c engine unit mi t n lo count : Nat) (x : List (List B16)) (order : List Nat) : BankWork :=
  match modelOf s c mi with
  | none => .none
  | some m =>
    match tensorShape m (vocabSize s c m.vocab) t with
    | none => .none
    | some (rows, inputs) =>
      if decide (lo + count ≤ rows) && decide (x.length ≤ n) && x.all (fun a => a.length == inputs)
          && (weightPages s c mi m t lo count inputs).all (isResident s)
          && multiplies engine n m (inSlice s unit c mi m t lo count inputs) then
        .mma false none (arrive order (productTiles x (weightRows s c mi m t lo count inputs) inputs))
      else .none

/-! ### Adapters (R247, R253) -/

/-- The input and output dimensions of the targets of an adapter, in bit order. -/
def adapterDims (m : ModelSec) : List (Nat × Nat) :=
  let q := m.qHeads * m.headDim
  let kv := m.kvHeads * m.headDim
  [(m.dModel, q), (m.dModel, kv), (m.dModel, kv), (q, m.dModel), (m.dModel, m.ffnDim), (m.dModel, m.ffnDim), (m.ffnDim, m.dModel)]

/-- The bytes of an element of an adapter's FORMAT. -/
def adapterElem (fmt : Nat) : Nat := if fmt = 0 then 1 else 2

/-- The lengths of the matrices of an adapter image, in order (R253). -/
def adapterMatrices (m : ModelSec) (rank fmt targets : Nat) : List Nat :=
  let sz := adapterElem fmt
  let layer := ((List.range 7).map (fun i => if targets.testBit i then
    let x := (adapterDims m).getD i (0, 0)
    [rank * x.1 * sz, x.2 * rank * sz] else [])).flatten
  (List.replicate m.layers layer).flatten

/-- Where a matrix of an adapter image starts: each on a 128-byte boundary, the first after the header. -/
def matrixStart (lens : List Nat) (k : Nat) : Nat := roundUp ((lens.take k).foldl (fun o n => roundUp o 128 + n) 64) 128

/-- The rows of matrix A (0) or B (1) of a target of a layer of a version. -/
def adapterRows (s : State) (h : Nat) (v : AdapterVer) (m : ModelSec) (layer target ab : Nat) : List TileOp :=
  let fmt := byteAt v.header 1
  let targets := byteAt v.header 2 % 128
  let per := popcount 7 targets
  let k := 2 * (layer * per + popcount target (targets % 2 ^ target)) + ab
  let dims := (adapterDims m).getD target (0, 0)
  let (rows, inputs) := if ab = 0 then (v.rank, dims.1) else (dims.2, v.rank)
  let w := inputs * adapterElem fmt
  let o := matrixStart (adapterMatrices m v.rank fmt targets) k - 128
  (List.range rows).map (fun i =>
    weightOp (if fmt = 0 then 3 else 4) inputs (objectBytes s v.claim 3 h (objectPages s v.claim 3 h) (o + i * w) w))

/-- ALPHA / RANK of a version. -/
def adapterGain (v : AdapterVer) : F32 := fdiv (BitVec.ofNat 32 (fld v.header 8 4)) (intTo32 v.rank)

/-- The term (ALPHA / RANK) × B × rnbf16(A × x) of a target of a layer, by output row (R247). -/
def adapterTerm (s : State) (h : Nat) (v : AdapterVer) (m : ModelSec) (layer target : Nat) (x : List B16) (order : List Nat) : List F32 :=
  let t := (adapterRows s h v m layer target 0).map (fun w => toBf (dotTiles x w order))
  (adapterRows s h v m layer target 1).map (fun w => fmul (adapterGain v) (dotTiles t w []))

/-- The work of `adapter` (R247): on the arrays, with the version's pages in the Lode tier, the term added in FP32 to the product
W × x of one position and the sum rounded once to BF16. -/
def adapterWork (s : State) (c engine h layer target : Nat) (x : List B16) (wx : List F32) (order : List Nat) : BankWork :=
  match (adapterOf s h).filter (fun v => v.claim == c) with
  | none => .none
  | some v =>
    match modelOf s c v.model with
    | none => .none
    | some m =>
      let dims := (adapterDims m).getD target (0, 0)
      let ks := (List.range (objectPages s c 3 h)).map (fun i => (⟨c, 3, h, i⟩ : PageKey))
      if engine == 0 && (byteAt v.header 2).testBit target && decide (layer < m.layers) && x.length == dims.1 && wx.length == dims.2
          && ks.all (isResident s) then
        .elementwise (.add true) wx (adapterTerm s h v m layer target x order)
      else .none

/-- A command's work with the weights it needs from the Lodes put in. -/
def stateWork (s : State) (c engine unit : Nat) (w : BankWork) : BankWork :=
  match w with
  | .weights mi t n lo count x order => weightsWork s c engine unit mi t n lo count x order
  | .adapter h layer target x wx order => adapterWork s c engine h.toNat layer target x wx order
  | w => w

end Sys2Proof.Machine
end

