-- ==== Sys2Proof/Machine/Kv.lean ====
section
/-! DEFINITION. The contents of KV pages and attention beside them (10 R239, R241, R243, R244). -/

namespace Sys2Proof.Machine

/-! ### Elements (R239) -/

/-- A value over a positive scale, rounded once to an FP8 E4M3 element, saturating at 448: RNE(x / KV_SCALE). The quotient is kept to
64 bits beyond the divisor and its last bit holds what is left. -/
def kvFp8 (x scale : F32) : BitVec 16 :=
  match dec32 x, dec32 scale with
  | .nan, _ | _, .nan => 0x7F
  | .inf n1, .inf _ => if n1 then 0xFE else 0x7E
  | .inf n1, .fin n2 _ _ => if n1 == n2 then 0x7E else 0xFE
  | .fin .., .inf _ => 0
  | .fin n1 m1 e1, .fin n2 m2 e2 =>
    let neg := n1 != n2
    if m2 = 0 then (if m1 = 0 then 0x7F else if neg then 0xFE else 0x7E)
    else
      let q := m1 * 2 ^ 64 / m2
      let rest := m1 * 2 ^ 64 % m2
      encSmall .e4m3 neg (2 * q + (if rest = 0 then 0 else 1)) (e1 - e2 - 65)

/-- The bytes of a KV element, and the element read back (R239). -/
def kvSize (m : ModelSec) : Nat := if m.kvFormat = 0 then 1 else 2
def kvEnc (m : ModelSec) (x : F32) : List Byte :=
  if m.kvFormat = 0 then leBytes 1 (kvFp8 x m.kvScale).toNat else leBytes 2 (toBf x).toNat
def kvDec (m : ModelSec) (v : Nat) : F32 :=
  if m.kvFormat = 0 then fmul (enc32 (decElem .e4m3 (BitVec.ofNat 16 v))) m.kvScale else bfTo32 (BitVec.ofNat 16 v)

/-- Bytes put at a place of a page's contents. -/
def setBytes (data : List Byte) (off : Nat) (bs : List Byte) : List Byte :=
  padTo off (data.take off) ++ bs ++ data.drop (off + bs.length)

/-- Where the elements of a position of a block start in the half for keys (0) or values (1) of a page. -/
def kvOff (m : ModelSec) (half p : Nat) : Nat := 32768 * half + p % max 1 (pppOf m) * (m.kvHeads * m.headDim * kvSize m)

/-- The key or value of a position for a KV head, as a page holds it. -/
def kvRead (m : ModelSec) (data : List Byte) (half p head : Nat) : List F32 :=
  (List.range m.headDim).map (fun e => kvDec m (fld data (kvOff m half p + (head * m.headDim + e) * kvSize m) (kvSize m)))

/-- A position's key and value written into a page's contents. -/
def kvWrite (m : ModelSec) (data : List Byte) (x : KvRow) : List Byte :=
  setBytes (setBytes data (kvOff m 0 x.pos) ((x.k.map (kvEnc m)).flatten)) (kvOff m 1 x.pos) ((x.v.map (kvEnc m)).flatten)

/-- Whether rows give the key and the value of every position from `lo` up to but not at `hi` for a layer. -/
def kvGiven (m : ModelSec) (kv : List KvRow) (layer lo hi : Nat) : Bool :=
  (List.range (hi - lo)).all (fun i => (kv.find? (fun x => x.layer == layer && x.pos == lo + i)).any (fun x =>
    x.k.length == m.kvHeads * m.headDim && x.v.length == m.kvHeads * m.headDim))

/-! ### Partials (R243, R244) -/

/-- The dot product of a query and a key in FP32, in an order of its dimensions. -/
def dotIn (dims : List Nat) (q k : List F32) : F32 :=
  match arrive dims ((q.zip k).map (fun p => fmul p.1 p.2)) with
  | [] => 0
  | x :: r => r.foldl fadd x

/-- A sum in FP32 in the order given. -/
def sumIn (xs : List F32) : F32 :=
  match xs with
  | [] => 0
  | x :: r => r.foldl fadd x

/-- The partial of one query head over keys and values (R243), summed in the order given: the greatest score m, l = Σ exp(s − m) and
o = Σ exp(s − m) × v, with s = (q · k) × 1 / √HEAD_DIM; none of no position. -/
def formPartial (headDim : Nat) (dims : List Nat) (q : List F32) (kvs : List (List F32 × List F32)) : Option AttnPartial :=
  let inv := fdiv 0x3F800000 (fsqrt (intTo32 headDim))
  let ss := kvs.map (fun x => fmul (dotIn dims q x.1) inv)
  match ss with
  | [] => none
  | x :: r =>
    let m := r.foldl fmax x
    let ws := ss.map (fun y => fexp (fsub y m))
    some { m := m, l := sumIn ws
           o := (List.range headDim).map (fun d => sumIn ((ws.zip kvs).map (fun w => fmul w.1 (w.2.2.getD d 0)))) }

/-- The partials of one query head merged in their order of arrival (R244). -/
def mergePartials (ps : List AttnPartial) : List F32 :=
  let m := (ps.map (·.m)).foldl fmax (((ps.head?).map (·.m)).getD 0)
  let w := fun (p : AttnPartial) => fexp (fsub p.m m)
  let den := sumIn (ps.map (fun p => fmul (w p) p.l))
  let dim := ((ps.head?).map (·.o.length)).getD 0
  (List.range dim).map (fun d => fdiv (sumIn (ps.map (fun p => fmul (w p) (p.o.getD d 0)))) den)

end Sys2Proof.Machine
end

