-- ==== Sys2Proof/Machine/Search.lean ====
section
/-! DEFINITION. Searches on the Drift crossbar (06 R148 to R162): their start, the rounds and hand-offs of strands,
scans, and the merge; and the payloads by which shards ask and answer (16 R161, R392). -/

namespace Sys2Proof.Machine

/-- What a search's strands ask (R151, R155). -/
def askOf (s : State) (x : Search) : WalkAsk :=
  let total := if x.label.isSome then x.budget else x.limit
  { q := x.query, k := x.k, beam := x.beam, width := x.width, limit := (total + x.nStrands - 1) / max 1 x.nStrands
    label := x.label, epoch := some x.epoch, pit := x.pit, module := moduleIdOf s x.claim }

/-! ### Buffers and places (R149, R162) -/

/-- The strand buffers of a claim that are in use, and those it has. -/
def buffersUsed (s : State) (c : Nat) : Nat :=
  (((kvals s.drift.searches).filter (fun x => x.claim == c && x.started)).map (·.buffers)).sum
def buffersOf (s : State) (c : Nat) : Nat := 16 * (seamsOf s c).length

/-! ### The payloads of QUERY and ANSWER (log 26) -/

/-- A QUERY's payload: the parameters in 32 bytes, then the converted query. -/
def queryPayload (x : Search) : List Byte :=
  leBytes 2 x.k ++ leBytes 2 x.beam ++ leBytes 1 x.nStrands ++ leBytes 1 x.width ++ leBytes 1 (if x.flat then 1 else 0)
    ++ leBytes 1 0 ++ leBytes 4 (x.label.getD 0xFFFFFFFF) ++ leBytes 4 x.limit ++ leBytes 4 x.budget
    ++ leBytes 4 x.query.scale.toNat ++ leBytes 4 x.query.norm.toNat ++ leBytes 4 0 ++ x.query.bytes

/-- The search a QUERY's payload asks of a pit at an epoch. -/
def querySearch (owner : SearchOwner) (c pit epoch : Nat) (b : List Byte) : Search :=
  let l := fld b 8 4
  { owner := owner, claim := c, pit := pit, epoch := epoch
    query := ⟨b.drop 32, BitVec.ofNat 32 (fld b 20 4), BitVec.ofNat 32 (fld b 24 4)⟩
    k := fld b 0 2, beam := fld b 2 2, nStrands := byteAt b 4, width := byteAt b 5, limit := fld b 12 4
    label := if l = 0xFFFFFFFF then none else some l, budget := fld b 16 4, flat := byteAt b 6 == 1 }

/-- An ANSWER's payload: the header of a result list and its entries, with ties. -/
def answerPayload (k flags epoch ties dups visited : Nat) (es : List ListEnt) : List Byte :=
  listHeader k es.length flags epoch ties dups visited ++ (es.map entBytes).flatten

/-- The entries of an ANSWER. -/
def answerEntries (b : List Byte) : List ListEnt :=
  (List.range (fld b 2 2)).map (fun i =>
    let o := 32 + 16 * i
    ⟨fld b o 8, BitVec.ofNat 32 (fld b (o + 8) 4), byteAt b (o + 12), 0, byteAt b (o + 13)⟩)

/-! ### SEARCH_START -/

/-- The other modules that hold shards of a pit (R161). -/
def otherShards (s : State) (c : Nat) (p : PitSec) : List Nat :=
  if p.shards ≤ 1 then [] else (bitList 32 p.shardModules).filter (· != moduleIdOf s c)

/-- The QUERY messages of a search that starts at home, and what it awaits; a shard whose module is lost already ends the request
(R161). -/
def askShards (s : State) (num : Nat) (x : Search) (p : PitSec) : State :=
  match x.owner with
  | .peer .. => s
  | .request n i =>
    match reqOf s n with
    | none => s
    | some r =>
      let ps := otherShards s x.claim p
      match lostPeer s x.claim ps with
      | some m => endPeer s n m
      | none =>
      let s1 := modSearch s num (fun x => { x with shards := ps })
      ps.foldl (fun s peer =>
        let s2 := sendMsg s x.claim peer 1 (handleOf s n) (moduleIdOf s x.claim) i r.tenant x.pit (queryPayload x)
        { s2 with adit := { s2.adit with awaits := s2.adit.awaits ++ [⟨n, i, 1, peer, []⟩] } }) s1

/-- A search started with its buffers: a FLAT_SCAN, a label scan below FLAT_THRESHOLD (R156), or its strands. -/
def startSearch (s : State) (num : Nat) (x : Search) (p : PitSec) : State :=
  let d := (pitOf s x.claim x.pit).live
  let chans := bitList 64 p.seamMask
  let few := match x.label with
    | some l => decide (kgetD d.pops l 0 < p.flatThreshold)
    | none => false
  let bufs := if x.flat then chans.length else x.nStrands
  let y : Search := { x with started := true, buffers := bufs }
  let s1 :=
    if x.flat || few then
      let kind := if x.flat then 2 else 1
      let on := if x.flat then chans.filter (fun e => decide (engineLoad s e < 16)) else []
      modSearch s num (fun _ => { y with kind := kind, scans := chans, scanOn := on })
    else
      let locs := (entryLocs p d (signBits p.vecFormat x.query.bytes) (4 * x.nStrands)).take (4 * x.nStrands)
      let ts := (List.range x.nStrands).map (fun i => strandStart (strandEntries locs x.nStrands i))
      ts.foldl (fun s t =>
        let w := !t.done && decide (16 ≤ engineLoad s t.engine)
        modSearch s num (fun x => { x with strands := x.strands ++ [{ t with waiting := w }] })) (modSearch s num (fun _ => y))
  let s2 := { s1 with drift := { s1.drift with peak := lmod s1.drift.peak x.claim (fun a => max a (buffersUsed s1 x.claim)) } }
  askShards s2 num x p

/-- SEARCH_START (R149): the first search waiting in a claim's queue starts if it can take all its buffers. -/
def opSearchStart (claim : Nat) (s : State) : State :=
  match s.drift.searches.find? (fun p => p.2.claim == claim && !p.2.started) with
  | none => s
  | some (num, x) =>
    match pitSecOf s claim x.pit with
    | none => s
    | some p =>
      let need := if x.flat then popcount 64 p.seamMask else x.nStrands
      if alive s && unitOk s 0x11 0 && decide (buffersUsed s claim + need ≤ buffersOf s claim) then startSearch s num x p else s

/-- The meaning of SEARCH_START. -/
def execSearchStart (claim : Nat) (s : State) : Host.Outcome State Fault Refusal := .next (opSearchStart claim s)

/-! ### STRAND_ROUND and STRAND_HANDOFF -/

/-- Records that a search read: counted for their engine and for the pit's hot nodes, unreadable ones in DR_ERR. -/
def countRound (s : State) (c p e : Nat) (ev : RoundEv) : State :=
  let s1 := { s with drift := { s.drift with records := kset s.drift.records e (satAdd 32 (kgetD s.drift.records e 0) ev.scored) } }
  modPit (countUnread s1 (e / 16) ev.dropped ev.chains) c p (fun t => countReads t ev.reads)

/-- STRAND_ROUND (R151 to R155). -/
def opStrandRound (search strand : Nat) (s : State) : State :=
  match kget s.drift.searches search with
  | none => s
  | some x =>
    match x.strands[strand]?, pitSecOf s x.claim x.pit with
    | some t, some p =>
      let a := askOf s x
      if alive s && x.started && !t.done && !t.waiting && !wantsHandoff a t && unitOk s 2 t.engine then
        let (t1, ev) := strandRoundOf (pitView s x.claim x.pit p) a t
        let s1 := modSearch s search (fun x => { x with strands := lmod x.strands strand (fun _ => t1) })
        let s2 := countRound s1 x.claim x.pit t.engine ev
        if t1.done then admitStrand s2 t.engine else s2
      else s
    | _, _ => s

/-- The meaning of STRAND_ROUND. -/
def execStrandRound (search strand : Nat) (s : State) : Host.Outcome State Fault Refusal := .next (opStrandRound search strand s)

/-- STRAND_HANDOFF (R149, R152): the strand's state moves to the target engine; it waits in its buffer where 16 strands
run there. -/
def opStrandHandoff (search strand : Nat) (s : State) : State :=
  match kget s.drift.searches search with
  | none => s
  | some x =>
    match x.strands[strand]? with
    | none => s
    | some t =>
      let a := askOf s x
      if alive s && x.started && !t.waiting && wantsHandoff a t && unitOk s 0x11 0 then
        let e := handoffTarget a (engineLoad s) t
        let t1 := { t with engine := e, waiting := decide (16 ≤ engineLoad s e) }
        let s1 := modSearch s search (fun x => { x with strands := lmod x.strands strand (fun _ => t1) })
        let s2 := { s1 with drift := { s1.drift with
          handoffs := kset s1.drift.handoffs t.engine (satAdd 32 (kgetD s1.drift.handoffs t.engine 0) 1) } }
        admitStrand s2 t.engine
      else s

/-- The meaning of STRAND_HANDOFF. -/
def execStrandHandoff (search strand : Nat) (s : State) : Host.Outcome State Fault Refusal :=
  .next (opStrandHandoff search strand s)

/-! ### LABEL_SCAN (R156, R162) -/

/-- One channel scanned: the returnable records that match, best K with ties, and what was read. -/
def scanChannel (v : PitView) (a : WalkAsk) (slots : List Nat) (chan : Nat) : List ListEnt × RoundEv :=
  slots.foldl (fun (acc : List ListEnt × RoundEv) sl =>
    let (l, ev) := acc
    match readPrimary v 4 chan sl with
    | .empty => (l, ev)
    | .unreadable ch => (l, { ev with dropped := ev.dropped + 1, chains := ev.chains + if ch then 1 else 0 })
    | .node c sl r =>
      let e : ListEnt := ⟨passageHandle a.pit r.passage, vecScore v.sec.vecFormat v.sec.metric a.q r.vec, c, sl, a.module⟩
      (if returnable a.epoch r && labelOk a.label r then addResult a.k l e else l,
        { ev with scored := ev.scored + 1, reads := ev.reads ++ [(c, sl)] })) ([], ⟨0, 0, 0, []⟩)

/-- LABEL_SCAN: a channel's posting list for the label read, or for a FLAT_SCAN, once it has one of the engine's 16 places,
every primary record of the channel. -/
def opLabelScan (search channel : Nat) (s : State) : State :=
  match kget s.drift.searches search with
  | none => s
  | some x =>
    match pitSecOf s x.claim x.pit with
    | none => s
    | some p =>
      if alive s && x.started && x.scans.contains channel && unitOk s 2 channel
          && (x.kind != 2 || x.scanOn.contains channel) then
        let d := (pitOf s x.claim x.pit).live
        let slots := if x.kind = 2 then (d.recs.filter (fun r => r.1.1 == channel && r.2.kind == 1)).map (·.1.2)
          else kgetD d.posts (channel, x.label.getD 0) []
        let (l, ev) := scanChannel (pitView s x.claim x.pit p) (askOf s x) slots channel
        let s1 := modSearch s search (fun x => { x with
          scans := x.scans.filter (· != channel), scanOn := x.scanOn.filter (· != channel), scanLists := x.scanLists ++ [l], scanVisits := x.scanVisits + ev.scored })
        admitStrand (countRound s1 x.claim x.pit channel ev) channel
      else s

/-- The meaning of LABEL_SCAN. -/
def execLabelScan (search channel : Nat) (s : State) : Host.Outcome State Fault Refusal := .next (opLabelScan search channel s)

/-! ### SEARCH_MERGE (R157 to R159, R161) -/

/-- The lists of a search, the flags its strands and scans set, and its visits. -/
def searchLists (x : Search) : List (List ListEnt) := x.strands.map (·.results) ++ x.scanLists ++ x.shardLists
def searchFlags (x : Search) : Nat :=
  (if x.strands.any (·.hit) then flBudget else 0) ||| (if x.kind = 0 then 0 else flFlat)
    ||| (x.shardFlags &&& (flBudget ||| flFlat))
def searchVisits (x : Search) : Nat := (x.strands.map (·.visits)).sum + x.scanVisits + x.shardVisits

/-- Whether every strand, scan and shard of a search is finished. -/
def searchOver (x : Search) : Bool := x.started && x.strands.all (·.done) && x.scans.isEmpty && x.shards.isEmpty

/-- A result list counted in the request that holds it: flags, ties, duplicates and a list shorter than asked. -/
def noteList (s : State) (n : Nat) (flags ties dups visited : Nat) (short : Bool) : State :=
  modReq s n (fun r => { r with out := { r.out with
    flags := r.out.flags ||| flags, ties := if ties = 0 then r.out.ties else ties
    dups := r.out.dups + dups, visited := r.out.visited + visited, short := r.out.short || short } })

/-- The current retrieved list of a request (R105). -/
def setCur (s : State) (n : Nat) (l : RList) : State := modReq s n (fun r => { r with cur := some l })

/-- SEARCH_MERGE: the lists merged. At home the list is the step's result; on a shard it is sent as an ANSWER with its
ties, and the remote work is over. -/
def opSearchMerge (search : Nat) (s : State) : State :=
  match kget s.drift.searches search with
  | none => s
  | some x =>
    if !(alive s && searchOver x && unitOk s 0x11 0) then s
    else
      let (ents, dups, ties) := mergeLists x.k (searchLists x)
      let flags := searchFlags x ||| (if ties = 0 then 0 else flTie) ||| (if dups + x.shardDups = 0 then 0 else flDup)
      let s1 := { s with drift := { s.drift with searches := kdel s.drift.searches search } }
      match x.owner with
      | .request n i =>
        let l : RList := { k := x.k, ents := ents, flags := flags, epoch := x.epoch, ties := ties
                           dups := dups + x.shardDups, visited := searchVisits x }
        let s2 := setCur (noteList s1 n flags ties l.dups l.visited (decide (ents.length < x.k))) n l
        completeStep (fireArm s2 n i 2 0 0 (listBytes l) noPos) n i (fun t => { t with list := some l })
      | .peer c _ src home handle _ =>
        let all := (mergeLists (x.k + 15) (searchLists x)).1
        let work := (gangOf s c).remote.find? (fun w => w.search == some search)
        let pay := answerPayload x.k flags x.epoch ties dups (searchVisits x) (keepTies x.k all)
        let s2 := modGang s1 c (fun g => { g with remote := g.remote.filter (fun w => w.search != some search) })
        match work with
        | none => s2
        | some w => sendMsg s2 c src 2 handle home w.msg.step w.msg.tenant w.msg.object pay

/-- The meaning of SEARCH_MERGE. -/
def execSearchMerge (search : Nat) (s : State) : Host.Outcome State Fault Refusal := .next (opSearchMerge search s)

end Sys2Proof.Machine
end

