-- ==== Sys2Proof/Machine/EngineSteps.lean ====
section
/-! DEFINITION. The steps of the Crusher, the encoder, Assay, the Packer and WRITE_RESULT (05 R111 to R126, 12 R301,
R302, 08 R205 to R213, 09 R226 to R230, 04 R105). -/

namespace Sys2Proof.Machine

/-! ### What several steps share -/

/-- Whether a model is ready for a step: a BAD one ends the request, any other state but READY makes it wait (R234);
the model's weight pages are needed in the Lode tier. -/
def modelGate (s : State) (n c m : Nat) : State × Bool :=
  let st := kgetD s.face.models (c, m) 0
  if st = 3 then (commitReq s n 0x06 0, false)
  else if st != 2 then (s, false)
  else gatherPages s n ((List.range (objectPages s c 2 m)).map (fun i => ⟨c, 2, m, i⟩))

/-- The key of what was fetched from a peer for an entry (R206): 0 a ledger row, 1 a text extent, with its object. -/
def fetchKey (kind obj handle : Nat) : Nat := kind * 2 ^ 96 + obj * 2 ^ 64 + handle

/-- What a list's entries of other modules need, fetched from each of them (R206, R227): whether all of it is here. One that is
lost already ends the request. -/
def fetchAll (s : State) (n i kind obj : Nat) (r : Req) (es : List ListEnt) : State × Bool :=
  let me := moduleIdOf s r.claim
  let miss := es.filter (fun e => e.module != me && !khas s.adit.fetched (n, fetchKey kind obj e.handle))
  if miss.isEmpty then (s, true)
  else if awaiting s n i then (s, false)
  else
    let peers := dedup (miss.map (·.module))
    match lostPeer s r.claim peers with
    | some m => (endPeer s n m, false)
    | none =>
    (peers.foldl (fun s p =>
      let hs := (miss.filter (fun e => e.module == p)).map (·.handle)
      let pay := leBytes 8 kind ++ (hs.map (leBytes 8)).flatten
      let s1 := sendMsg s r.claim p 3 (handleOf s n) me i r.tenant obj pay
      { s1 with adit := { s1.adit with awaits := s1.adit.awaits ++ [⟨n, i, 3, p, hs⟩] } }) s, false)

/-- A node's text extent on this module, unless one of its pages is LOST. -/
def extentOf (s : State) (c p : Nat) (sec : PitSec) (chan slot : Nat) : Option (List Byte) :=
  let d := (pitOf s c p).live
  (kget d.recs (chan, slot)).bind (fun r =>
    let lost := lostPages s sec.seamMask
    if (textLpns sec chan r.textOff r.textLen).any (fun l => lost.contains (chan, l)) then none
    else kget d.texts (chan, r.textOff))

/-- The extent of a list entry, here or fetched; none where it is unreadable (R213). -/
def entryText (s : State) (n c p : Nat) (sec : PitSec) (e : ListEnt) : Option (List Byte) :=
  if e.module = moduleIdOf s c then extentOf s c p sec e.chan e.slot
  else (kget s.adit.fetched (n, fetchKey 1 p e.handle)).filter (fun b => !b.isEmpty)

/-- The extent of a list entry for the Packer: none where it is unreadable or carries another passage (R227). -/
def entryExtent (s : State) (n c p : Nat) (sec : PitSec) (e : ListEnt) : Option (List Byte) :=
  (entryText s n c p sec e).filter (fun b => fld b 0 5 == passageOf e.handle)

/-- A stored token run of an extent (R142). -/
def extentRun (ext : List Byte) (run : Nat) : List Nat :=
  let text := fld ext 8 4
  let o := 32 + text + if run = 0 then 0 else 3 * fld ext 12 4
  (List.range (fld ext (12 + 4 * run) 4)).map (fun i => fld ext (o + 3 * i) 3)

/-- The rows that a step looks up in a ledger as one batch (R194): whether it can go now, its ledger open and no window full. -/
def rowsReady (s : State) (c l : Nat) (rows : List Nat) : Bool := rows.isEmpty || (ledgerOpen s c l && !rowsStall s c l rows)

/-- The pages of a model. -/
def modelKeys (s : State) (c mi : Nat) : List PageKey := (List.range (objectPages s c 2 mi)).map (fun i => ⟨c, 2, mi, i⟩)

/-- The gate of a step that runs a model over tokens: the model READY, its weights and the tokens' embeddings in the Lode tier, and
room for their look-ups (R193, R234). -/
def runGate (s : State) (n c mi : Nat) (m : ModelSec) (toks : List Nat) : State × Bool :=
  if !rowsReady s c m.embedLedger toks then (s, false)
  else
    let (s1, ok) := modelGate s n c mi
    if ok then gatherPages s1 n (rowPages s1 c m.embedLedger toks) else (s1, false)

/-- A model run over tokens: the weight pages used, and the embeddings looked up (R194, R313). -/
def runModel (s : State) (n c mi : Nat) (m : ModelSec) (toks : List Nat) : State :=
  (serveRows (usePages (unpinPages s n (rowPages s c m.embedLedger toks)) n (modelKeys s c mi)) c m.embedLedger (some n) toks).2

/-! ### TOKENIZE -/

/-- Whether a step that reads lines of a vocabulary's sections reads a bad one (R110, R418). -/
def readsBad (s : State) (v : Nat) (lines : List (Nat × Nat)) : Bool :=
  s.eng.badLines.any (fun b => b.1 == v && lines.contains b.2)

/-- A block whose SRAM holds a bad line ends the request whose step reads it (R418). -/
def endBadSram (s : State) (n c cls : Nat) : State :=
  commitReq s n 0x09 (unitDetail ⟨cls, (firstUnit s c cls).getD 0⟩ 3)

/-- TOKENIZE_STEP with the INPUT_BYTES bytes read at INPUT_ADDR; the read waits while Hoistlink is not UP (R86). -/
def opTokenizeStep (slot : BitVec 16) (step : Nat) (input : List Byte) (s : State) : State :=
  let n := slot.toNat
  match issued s n step 1 with
  | none => s
  | some (r, t) =>
    match r.bind.recipe with
    | none => s
    | some q =>
      let v := if t.role = 1 then q.genVocab else q.encVocab
      match v.bind (vocabOf s r.claim) with
      | none => s
      | some sec =>
        if input.length != r.desc.inputBytes || (!dataUp s r.claim && !input.isEmpty) then s
        else
          let mg := (cfgOf s r.claim).bind (fun g => secOf g.merges (v.getD 0))
          let cl := (cfgOf s r.claim).bind (fun g => secOf g.classes (v.getD 0))
          if readsBad s (v.getD 0) (tokenizeLines sec mg cl (t.word 1 % 2 == 1) input) then endBadSram s n r.claim 4 else
          let (ts, bad) := tokenize sec mg cl (t.word 1 % 2 == 1) input
          let (kept, cut) := truncTokens (tokLimit q t) (t.word 3) ts
          let s1 := countInvalid (hlGot s 1 (granules input.length)) n bad
          let s2 := if cut then
            { flagReq s1 n flTrunc with eng := { s1.eng with crTrunc := satAdd 16 s1.eng.crTrunc 1 } } else s1
          completeStep s2 n step (fun x => { x with tokens := kept })

/-- The meaning of TOKENIZE_STEP. -/
def execTokenizeStep (slot : BitVec 16) (step : Nat) (input : List Byte) (s : State) : Host.Outcome State Fault Refusal :=
  .next (opTokenizeStep slot step input s)

/-! ### ENCODE -/

/-- The output of an ENCODE step from the projected values (R302): divided by its norm where NORMALIZE says so, and
every value that is not finite replaced by 0; whether one was. -/
def encodeOut (normalize : Bool) (values : List F32) : List F32 × Bool :=
  let nrm := fsqrt (rowSumSq values)
  let out := if normalize then values.map (fun x => fdiv x nrm) else values
  let bad := fun (x : F32) => isNan32 x || isInf32 x
  (out.map (fun x => if bad x then 0 else x), out.any bad)

/-- The tokens that an ENCODE step runs over (R301): those of its TOKENIZE step, the leading MAX_TOKENS of them. -/
def encodeTokens (r : Req) (t : StepRec) : List Nat :=
  let ts := (t.dep0.map (fun d => (stepSt r d).tokens)).getD []
  if t.word 1 = 0 then ts else ts.take (t.word 1)

/-- The final states pooled (R232, R235): the mean of the positions, or the first. -/
def pooled (m : ModelSec) (states : List (List B16)) : List B16 :=
  if m.pool = 0 then (ewRow (.poolMean states.length) (states.flatten.map bfTo32) []).map toBf else states.headD []

/-- The pooled state projected through UNEMBED (R235): one value a row, from what the Lodes hold. -/
def projected (s : State) (c mi : Nat) (m : ModelSec) (x : List B16) (order : List Nat) : List F32 :=
  (weightRows s c mi m (unembedNo m) 0 m.outDim m.dModel).map (fun w => dotTiles x w order)

/-- ENCODE_STEP with the final states of the encoder over its tokens, which R300 leaves open (log 29): BF16 (R235); they are pooled,
projected through UNEMBED, whose tiles arrive in `order`, and divided by their norm. -/
def opEncodeStep (slot : BitVec 16) (step : Nat) (states : List (List B16)) (order : List Nat) (s : State) : State :=
  let n := slot.toNat
  match issued s n step 2 with
  | none => s
  | some (r, t) =>
    match r.bind.recipe.bind (fun q => encModelOf q t) with
    | none => s
    | some mi =>
      match modelOf s r.claim mi with
      | none => s
      | some m =>
        let toks := encodeTokens r t
        if states.length != toks.length || states.any (fun x => x.length != m.dModel) then s
        else
          let (s1, ok) := runGate s n r.claim mi m toks
          if !ok then s1
          else
            let values := projected s1 r.claim mi m (pooled m states) order
            let (vec, nf) := if toks.isEmpty then (List.replicate m.outDim 0, false) else encodeOut ((t.word 0).testBit 8) values
            let b := (stepUnit s1 r.claim 0 n step).getD 0
            let s2 := if nf then { s1 with banks := lmod s1.banks b (fun x => { x with numErr := x.numErr ||| 8 }) } else s1
            let s3 := runModel s2 n r.claim mi m toks
            let bytes := (vec.map (fun x => leBytes 4 x.toNat)).flatten
            completeStep (fireArm s3 n step 1 0 0 bytes noPos) n step (fun x => { x with vec := vec })

/-- The meaning of ENCODE_STEP. -/
def execEncodeStep (slot : BitVec 16) (step : Nat) (run : EncodeRun) (s : State) : Host.Outcome State Fault Refusal :=
  .next (opEncodeStep slot step run.states run.order s)

/-! ### FEATURES (R205 to R207) -/

/-- A row that a peer sent: its format, its elements and its bytes; an empty reply is a row of zeros. -/
def fetchedRow (b : List Byte) : FeatRow := ⟨byteAt b 0, fld b 1 2, b.drop 3⟩

/-- The united list of a FEATURES step (R207). -/
def uniteLists (a : RList) (b : Option RList) : RList × Nat :=
  match b with
  | none => (a, 0)
  | some b =>
    let (es, dups, _) := mergeLists (a.k + b.k) [a.ents, b.ents]
    ({ k := a.k + b.k, ents := es, flags := a.flags ||| b.flags ||| (if dups = 0 then 0 else flDup), epoch := a.epoch
       ties := if b.ties = 0 then a.ties else b.ties, dups := a.dups + b.dups + dups, visited := a.visited + b.visited }, dups)

/-- The entries of a list whose rows this module holds, and those rows. -/
def myEntries (s : State) (c : Nat) (es : List ListEnt) : List ListEnt := es.filter (fun e => e.module == moduleIdOf s c)
def myRows (s : State) (c : Nat) (es : List ListEnt) : List Nat := (myEntries s c es).map (fun e => passageOf e.handle)

/-- The rows of a list's entries (R194, R206): this module's as one batch of look-ups, the others as they were fetched. -/
def gatherRows (s : State) (n c l : Nat) (es : List ListEnt) : AMap FeatRow × State :=
  let h := (ledgerOf s c l).live.hdr
  let (rows, s1) := serveRows s c l (some n) (myRows s c es)
  let here : AMap FeatRow := ((myEntries s c es).zip rows).foldl (fun m x => kset m x.1.handle ⟨h.fmt, h.elements, x.2⟩) []
  let far := es.filter (fun e => e.module != moduleIdOf s c)
  (far.foldl (fun m e => kset m e.handle (fetchedRow ((kget s.adit.fetched (n, fetchKey 0 l e.handle)).getD []))) here, s1)

/-- The policy row of a FEATURES step, the tenant's (R207); POLICY_MISSING where the table has none (R210). -/
def gatherPolicy (s : State) (n c tenant : Nat) (p : Option Nat) : Option FeatRow × State :=
  match p with
  | none => (none, s)
  | some p =>
    let d := (ledgerOf s c p).live
    let (rows, s1) := serveRows s c p (some n) [tenant]
    (some ⟨d.hdr.fmt, d.hdr.elements, rows.headD []⟩,
      if rowIn d tenant then s1 else { s1 with eng := { s1.eng with asErr := s1.eng.asErr ||| 1 } })

/-- FEATURES_STEP: the lists united, and the feature rows and the policy row gathered, each as one batch (R207); a batch that would
stall at its port waits (R196). -/
def opFeaturesStep (slot : BitVec 16) (step : Nat) (s : State) : State :=
  let n := slot.toNat
  match issued s n step 4 with
  | none => s
  | some (r, t) =>
    match r.bind.recipe.bind (fun q => featLedger q t), t.dep0.bind (fun d => (stepSt r d).list) with
    | some l, some a =>
      let c := r.claim
      let pol := policyLedger t
      let (u, dups) := uniteLists a (t.dep1.bind (fun d => (stepSt r d).list))
      let mine := myRows s c u.ents
      if !(ledgerOpen s c l && rowsReady s c l mine && (match pol with
          | some p => rowsReady s c p [r.tenant]
          | none => true)) then s
      else
        let (s1, here) := fetchAll s n step 0 l r u.ents
        let keys := rowPages s1 c l mine ++ (match pol with
          | some p => rowPages s1 c p [r.tenant]
          | none => [])
        let (s2, ok) := gatherPages s1 n keys
        if !(here && ok) then s2
        else
          let (rows, s3) := gatherRows (unpinPages s2 n keys) n c l u.ents
          let (prow, s4) := gatherPolicy s3 n c r.tenant pol
          let s5 := setCur (noteList s4 n (if dups = 0 then 0 else flDup) 0 dups 0 false) n u
          completeStep (fireArm s5 n step 2 0 0 (listBytes u) noPos) n step
            (fun x => { x with list := some u, feats := rows, pol := prow })
    | _, _ => s

/-- The meaning of FEATURES_STEP. -/
def execFeaturesStep (slot : BitVec 16) (step : Nat) (s : State) : Host.Outcome State Fault Refusal := .next (opFeaturesStep slot step s)

/-! ### ASSAY1 and ASSAY2 (R208 to R213) -/

/-- A cut of Assay (R211): the best KEEP of scored entries, with the ties it left out. -/
def assayCut (l : RList) (keep : Nat) (es : List ListEnt) : RList × Nat :=
  let (kept, ties) := selectBest (fun e => (e.score, e.handle)) keep es
  ({ l with k := keep, ents := kept, ties := if ties = 0 then l.ties else ties
            flags := l.flags ||| (if ties = 0 then 0 else flTie) }, ties)

/-- A cut noted in its request, and the kept list the current one. -/
def noteCut (s : State) (n keep : Nat) (l : RList) (ties : Nat) : State :=
  setCur (noteList s n (if ties = 0 then 0 else flTie) ties 0 0 (decide (l.ents.length < keep))) n l

/-- The stage-1 score of an entry from the rows a FEATURES step holds (R210); `open_` is the value the spec does not
state (log 17). -/
def stage1Score (fs : StepSt) (formula : List FSlot) (e : ListEnt) (open_ : F32) : F32 :=
  let row := (kget fs.feats e.handle).getD ⟨0, 0, []⟩
  formulaScore formula e.score (rowElem row.fmt row.elements row.bytes)
    (fs.pol.map (fun p => rowElem p.fmt p.elements p.bytes)) open_

/-- ASSAY1_STEP. -/
def opAssay1Step (slot : BitVec 16) (step : Nat) (s : State) : State :=
  let n := slot.toNat
  match issued s n step 5 with
  | none => s
  | some (r, t) =>
    match r.bind.recipe, t.dep0, t.dep0.bind (fun d => (stepSt r d).list) with
    | some q, some d, some l =>
      let f := ((planOf r)[d]?).bind (fun u => (featLedger q u).bind (ledgerSecOf s r.claim))
      let formula := (f.map (fun x => x.formulas.getD (t.word 0 % 16) [])).getD []
      let es := (List.range l.ents.length).zip l.ents |>.map (fun x =>
        { x.2 with score := stage1Score (stepSt r d) formula x.2 (BitVec.ofNat 32 (Config.free (s.freeCtr + x.1))) })
      let (out, ties) := assayCut l (t.word 0 / 65536) es
      let s1 := { s with freeCtr := s.freeCtr + es.length
                         eng := { s.eng with asCandidates := satAdd 32 s.eng.asCandidates es.length } }
      let s2 := noteCut s1 n (t.word 0 / 65536) out ties
      completeStep (fireArm s2 n step 2 0 0 (listBytes out) noPos) n step (fun x => { x with list := some out })
    | _, _, _ => s

/-- The meaning of ASSAY1_STEP. -/
def execAssay1Step (slot : BitVec 16) (step : Nat) (s : State) : Host.Outcome State Fault Refusal := .next (opAssay1Step slot step s)

/-- A row of deltas that raises one element of a ledger by 1 (R212). -/
def hitDelta (d : LedgerData) (el : Nat) : List Byte :=
  let sz := elemSize d.hdr.fmt
  List.replicate (sz * el) 0 ++ leBytes sz 1

/-- The hits of kept passages added to the HIT_LEDGER as one scatter batch, on each entry's module (R206, R212). A ledger whose
elements are no integers holds no HIT_ELEMENT: its batch is dropped (R195). -/
def sendHits (s : State) (n i : Nat) (r : Req) (l el : Nat) (es : List ListEnt) : State :=
  let d := (ledgerOf s r.claim l).live
  if es.isEmpty then s
  else if d.hdr.fmt != 4 && d.hdr.fmt != 5 then lgErr s 2
  else
    let me := moduleIdOf s r.claim
    let pairs := fun (p : Nat) => (es.filter (fun e => e.module == p)).map (fun e => (passageOf e.handle, hitDelta d el))
    let s1 := startScatter s r.claim l (gatherPort s r.claim) (pairs me)
    match lostPeer s r.claim (es.map (·.module)) with
    | some m => endPeer s1 n m
    | none => (dedup ((es.filter (fun e => e.module != me)).map (·.module))).foldl (fun s p =>
      sendMsg s r.claim p 5 (handleOf s n) me i r.tenant l
        (((pairs p).map (fun x => leBytes 8 x.1 ++ leBytes 4 x.2.length ++ x.2)).flatten)) s1

/-- The tokens of the pair that the re-ranker scores for a candidate (R213, R235): FRAME0, the leading question tokens, FRAME1, the
leading tokens of the run, FRAME2, a frame token that is absent left out. -/
def pairTokens (m : ModelSec) (t : StepRec) (question : List Nat) (ext : List Byte) : List Nat :=
  m.frame0.toList ++ question.take (t.word 1 % 65536) ++ m.frame1.toList
    ++ (extentRun ext (t.word 0 % 2)).take (t.word 1 / 65536) ++ m.frame2.toList

/-- The pairs of an ASSAY2 step: the candidates whose extent can be read, each with its tokens. -/
def assayPairs (s : State) (n : Nat) (r : Req) (t : StepRec) (m : ModelSec) (p : Nat) (sec : PitSec) (cands : List ListEnt) :
    List (List Nat) :=
  let question := (t.dep1.map (fun d => (stepSt r d).tokens)).getD []
  cands.filterMap (fun e => (entryText s n r.claim p sec e).map (pairTokens m t question))

/-- ASSAY2_STEP with one logit for each candidate of the input list, in list order; R300 leaves logits open (log 29). The pairs are
formed and their embeddings looked up; a candidate whose extent is unreadable is dropped. -/
def opAssay2Step (slot : BitVec 16) (step : Nat) (logits : List F32) (s : State) : State :=
  let n := slot.toNat
  match issued s n step 6 with
  | none => s
  | some (r, t) =>
    match r.bind.recipe.bind (·.rerankModel), t.dep0.bind (fun d => (stepSt r d).list), reqPit s r with
    | some mi, some l, some (p, sec) =>
      match modelOf s r.claim mi with
      | none => s
      | some m =>
        let cands := l.ents.take (candidatesOf t)
        if logits.length != cands.length then s
        else
          let (s1, here) := fetchAll s n step 1 p r cands
          let toks := (assayPairs s1 n r t m p sec cands).flatten
          let (s2, ok) := if here then runGate s1 n r.claim mi m toks else (s1, false)
          let hitsOpen := match hitLedger t with
            | some h => ledgerOpen s2 r.claim h
            | none => true
          if !(ok && hitsOpen) then s2
          else
            let good := (cands.zip logits).filter (fun x => (entryText s2 n r.claim p sec x.1).isSome)
            let dropped := cands.length - good.length
            let blend : F32 := BitVec.ofNat 32 (t.word 3)
            let es := good.map (fun x => { x.1 with score := fadd x.2 (fmul blend x.1.score) })
            let keep := t.word 0 / 65536
            let (out, ties) := assayCut l keep es
            let s3 := runModel s2 n r.claim mi m toks
            let e := s3.eng
            let s4 := { s3 with eng := { e with
              asPairs := satAdd 32 e.asPairs good.length, asDropped := satAdd 32 e.asDropped dropped
              asErr := if dropped = 0 then e.asErr else e.asErr ||| 2 } }
            let s5 := match hitLedger t with
              | none => s4
              | some h => sendHits s4 n step r h (bits (t.word 2) 23 8) out.ents
            let s6 := noteCut s5 n keep out ties
            completeStep (fireArm s6 n step 2 0 0 (listBytes out) noPos) n step (fun x => { x with list := some out })
    | _, _, _ => s

/-- The meaning of ASSAY2_STEP. -/
def execAssay2Step (slot : BitVec 16) (step : Nat) (logits : List F32) (s : State) : Host.Outcome State Fault Refusal :=
  .next (opAssay2Step slot step logits s)

/-! ### PACK (R226 to R229) -/

/-- What the passages of a prompt come to (R228): the run tokens taken of each passage packed, the budget left, whether
one was cut, and the passages left out as unreadable or mismatched. -/
structure Packed where
  runs : List (List Nat)
  left : Nat
  cuts : Nat
  dropped : Nat
deriving DecidableEq, Repr

/-- The passages packed within what is left (R227, R228), in list order, at most `room`: `none` is an unreadable or
mismatched extent, and an empty run takes no part. -/
def packPassages (cover minP : Nat) (left : Nat) (runs : List (Option (List Nat))) (room : Nat) : Packed :=
  match runs, room with
  | [], _ => ⟨[], left, 0, 0⟩
  | _, 0 => ⟨[], left, 0, 0⟩
  | none :: rest, room + 1 =>
    let p := packPassages cover minP left rest (room + 1)
    { p with dropped := p.dropped + 1 }
  | some [] :: rest, room + 1 => packPassages cover minP left rest (room + 1)
  | some (x :: r) :: rest, room + 1 =>
    if (x :: r).length + cover ≤ left then
      let p := packPassages cover minP (left - ((x :: r).length + cover)) rest room
      { p with runs := (x :: r) :: p.runs }
    else if 0 < minP && cover + minP ≤ left then ⟨[(x :: r).take (left - cover)], 0, 1, 0⟩
    else ⟨[], left, 0, 0⟩

/-- The prompt a PACK step places (R228, R229): the tokens, what its passages came to, and the history tokens kept; none
where the fixed parts exceed the budget. -/
def packPrompt (t : TemplateSec) (budget minP histKeep maxP : Nat) (question history : List Nat)
    (runs : List (Option (List Nat))) : Option (List Nat × Packed × Nat) :=
  let items := t.items.filter (fun i => !i.scopePrefix)
  let lit := fun (off cnt : Nat) => (t.tokens.drop off).take cnt
  let fixed := ((items.filter (fun i => i.kind == 1)).map (·.count)).sum + question.length
  if budget < fixed then none
  else
    let left := budget - fixed
    let keep1 := min history.length (min histKeep left)
    let pi := items.find? (fun i => i.kind == 3)
    let cover := (pi.map (fun i => i.count + i.closeCount)).getD 0
    let ps := packPassages cover minP (left - keep1) runs maxP
    let keep := keep1 + min (history.length - keep1) ps.left
    let hist := history.drop (history.length - keep)
    let place := fun (i : TItem) =>
      if i.kind = 1 then lit i.off i.count
      else if i.kind = 2 then hist
      else if i.kind = 3 then (ps.runs.map (fun run => lit i.off i.count ++ run ++ lit (i.off + i.count) i.closeCount)).flatten
      else question
    some ((items.map place).flatten, ps, keep)

/-- A prompt packed (R228, R229): what was packed, cut and dropped is counted, and the tokens are the step's. -/
def packDone (s : State) (n step : Nat) (history ts : List Nat) (ps : Packed) (keep : Nat) : State :=
  let cut := decide (keep < history.length)
  let e := s.eng
  let s1 := { s with eng := { e with
    pkPassages := satAdd 32 e.pkPassages ps.runs.length, pkCut := satAdd 16 e.pkCut ps.cuts
    pkDropped := satAdd 32 e.pkDropped ps.dropped, pkErr := if ps.dropped = 0 then e.pkErr else 1
    pkHistoryCut := satAdd 16 e.pkHistoryCut (if cut then 1 else 0) } }
  let s2 := modReq (if cut then flagReq s1 n flTrunc else s1) n (fun r => { r with
    gen := { r.gen with prompt := ts }, out := { r.out with passages := ps.runs.length } })
  completeStep (fireArm s2 n step 3 0 0 ((ts.map (leBytes 4)).flatten) noPos) n step (fun x => { x with tokens := ts })

/-- The list of a PACK step, and the runs of its passages: none of one that is left out (R227). -/
def packList (r : Req) (t : StepRec) : List ListEnt := (t.dep0.bind (fun d => (stepSt r d).list)).map (·.ents) |>.getD []
def packRuns (s : State) (n : Nat) (r : Req) (t : StepRec) : List (Option (List Nat)) :=
  match reqPit s r with
  | some (p, sec) => (packList r t).map (fun e => (entryExtent s n r.claim p sec e).map (fun b => extentRun b (bits (t.word 0) 16 16)))
  | none => []

/-- PACK_STEP with the history tokens read at HISTORY_ADDR; the read waits while Hoistlink is not UP (R86). -/
def opPackStep (slot : BitVec 16) (step : Nat) (history : List Byte) (s : State) : State :=
  let n := slot.toNat
  match issued s n step 7 with
  | none => s
  | some (r, t) =>
    match (r.bind.recipe.bind (fun q => packTemplate q t)).bind (kget r.bind.templates) with
    | none => s
    | some tpl =>
      let list := packList r t
      let got := match reqPit s r with
        | some (p, _) => fetchAll s n step 1 p r list
        | none => (s, true)
      if !got.2 || history.length != 4 * r.desc.historyTokens || (!dataUp got.1 r.claim && !history.isEmpty) then got.1
      else
        let s1 := hlGot got.1 1 (granules history.length)
        let hist := (List.range r.desc.historyTokens).map (fun i => fld history (4 * i) 3)
        let maxP := if t.word 3 % 65536 = 0 then list.length else t.word 3 % 65536
        let question := (t.dep1.map (fun d => (stepSt r d).tokens)).getD []
        match packPrompt tpl (packBudget s r t) (t.word 2 % 65536) (t.word 2 / 65536) maxP question hist (packRuns s1 n r t) with
        | none => commitReq s1 n 0x0A 0
        | some (ts, ps, keep) => packDone s1 n step hist ts ps keep

/-- The meaning of PACK_STEP. -/
def execPackStep (slot : BitVec 16) (step : Nat) (history : List Byte) (s : State) : Host.Outcome State Fault Refusal :=
  .next (opPackStep slot step history s)

/-! ### WRITE_RESULT (R105, R158) -/

/-- The bytes WRITE_RESULT writes: nothing below 32 bytes; without a list a header alone. -/
def resultBytes (r : Req) : List Byte :=
  if r.desc.resultBytes < 32 then []
  else match r.cur with
    | none => listHeader 0 0 0 (if r.bind.pit.isSome then r.bind.epoch else 0) 0 0 0
    | some l => (listBytes l).take (32 + 16 * min l.k ((r.desc.resultBytes - 32) / 16))

/-- The entries of a list that WRITE_RESULT writes as valid ones: PASSAGES of the completion record where no PACK step
counts what it packed (R94). -/
def resultsWritten (r : Req) : Nat :=
  if r.desc.resultBytes < 32 then 0
  else match r.cur with
    | none => 0
    | some l => min l.ents.length ((r.desc.resultBytes - 32) / 16)

/-- WRITE_RESULT_STEP. -/
def opWriteResultStep (slot : BitVec 16) (step : Nat) (s : State) : State :=
  let n := slot.toNat
  match issued s n step 10 with
  | none => s
  | some (r, _) =>
    if !dataUp s r.claim then s
    else
      let packs := (planOf r).any (fun t => t.typ == 7)
      let s1 := if packs then s
        else modReq s n (fun r => { r with out := { r.out with passages := resultsWritten r } })
      completeStep (putHost s1 r.desc.resultAddr (resultBytes r)) n step id

/-- The meaning of WRITE_RESULT_STEP. -/
def execWriteResultStep (slot : BitVec 16) (step : Nat) (s : State) : Host.Outcome State Fault Refusal :=
  .next (opWriteResultStep slot step s)

end Sys2Proof.Machine
end

