-- ==== Sys2Proof/Machine/Generate.lean ====
section
/-! DEFINITION. Face (10 R236 to R252, R258, R259), with the Selector, Timber and the Crusher's detokenizing as they
serve it (11, 05 R127 to R133), and the waits for a reservation, a shaper and staging (10 R242, 15 R370, 13 R304). -/

namespace Sys2Proof.Machine

/-! ### Steps and pages of a generating request -/

/-- The number of the issued step of a type in a request. -/
def stepNoOf (s : State) (n typ : Nat) : Option Nat :=
  match running s n with
  | none => none
  | some r => (List.range (planOf r).length).find? (fun i => (issued s n i typ).isSome)

/-- The layers whose KV a request keeps: the layer's place among those of its pages, the positions of its pages, and
whether it is the draft model's (R239). -/
def layersOf (s : State) (r : Req) : List (Nat × Nat × Bool) :=
  match genOf s r with
  | none => []
  | some g => (List.range g.layers).map (fun l => (l, pppOf g, false)) ++
    (match draftOf s r with
      | none => []
      | some d => (List.range d.layers).map (fun l => (g.layers + l, pppOf d, true)))

/-- A KV page of a request, or of its prefix for the blocks below the prefix's last (R241). -/
def kvPage (s : State) (n : Nat) (r : Req) (l ppp b : Nat) : PageKey :=
  let t := max 1 (kvLayers s ⟨r.claim, 1, n, 0⟩)
  if b < r.bind.pfxLen / ppp then ⟨r.claim, 4, r.bind.pfx.getD 0, b * t + l⟩ else ⟨r.claim, 1, n, b * t + l⟩

/-- The pages of the generator, or of the draft model, that hold positions of a sequence from `lo` up to but not at
`hi`. -/
def modelPages (s : State) (n : Nat) (r : Req) (draft : Bool) (lo hi : Nat) : List PageKey :=
  if hi ≤ lo then []
  else (((layersOf s r).filter (fun x => x.2.2 == draft)).map (fun x =>
    (List.range ((hi - 1) / x.2.1 + 1 - lo / x.2.1)).map (fun b => kvPage s n r x.1 x.2.1 (lo / x.2.1 + b)))).flatten

/-- The pages of both models that hold positions from `lo` up to but not at `hi`. -/
def seqPages (s : State) (n : Nat) (r : Req) (lo hi : Nat) : List PageKey :=
  modelPages s n r false lo hi ++ modelPages s n r true lo hi

/-- The pages that a verification step of `d` drafts writes: the generator's at C to C + d, and the draft model's from its
own committed length, where it catches up, to C + d - 1 (R249, R250). Generated token 0 is drawn without a pass (R238). -/
def verifyWrites (s : State) (n : Nat) (r : Req) (d : Nat) : List PageKey :=
  if r.gen.toks.isEmpty then []
  else modelPages s n r false r.gen.committed (r.gen.committed + d + 1) ++
    modelPages s n r true r.gen.draftCommitted (r.gen.committed + d)

/-- The prefix's last page of each layer, where positions of the request go on inside it (R241). -/
def tailPages (s : State) (n : Nat) (r : Req) : List PageKey :=
  let t := max 1 (kvLayers s ⟨r.claim, 1, n, 0⟩)
  match r.bind.pfx with
  | none => []
  | some h => (layersOf s r).filterMap (fun x =>
    if r.bind.pfxLen % x.2.1 = 0 then none else some ⟨r.claim, 4, h, r.bind.pfxLen / x.2.1 * t + x.1⟩)

/-- The granules of a KV page that positions `lo` up to but not at `hi` of its block occupy (R239, R317). -/
def kvGranules (ppp lo hi : Nat) : Nat :=
  let w := 32768 / max 1 ppp
  let a := lo * w / 128
  let b := (hi * w - 1) / 128
  let m := 2 ^ (b + 1) - 2 ^ a
  m + m * 2 ^ 256

/-- The granules of positions written, of the layers of one model, marked in the Cage (R251, R317). -/
def markSeq (s : State) (n : Nat) (r : Req) (draft : Bool) (lo hi : Nat) : State :=
  if hi ≤ lo then s
  else ((layersOf s r).filter (fun x => x.2.2 == draft)).foldl (fun s x =>
    let ppp := x.2.1
    (List.range ((hi - 1) / ppp + 1 - lo / ppp)).foldl (fun s j =>
      let b := lo / ppp + j
      let a := max lo (b * ppp) - b * ppp
      let e := min hi ((b + 1) * ppp) - b * ppp
      modPage s (kvPage s n r x.1 ppp b) (fun p => markGranules p (kvGranules ppp a e))) s) s

/-- The positions of a chunk marked for both models; the first chunk's with those of the tail copy, from the start of the
block that holds position P (R241). -/
def markChunk (s : State) (n : Nat) (r : Req) (lo hi : Nat) : State :=
  let p := r.bind.pfxLen
  let from_ := fun (m : Option ModelSec) => if lo = 0 then p - p % max 1 ((m.map pppOf).getD 1) else p + lo
  markSeq (markSeq s n r false (from_ (genOf s r)) (p + hi)) n r true (from_ (draftOf s r)) (p + hi)

/-- Pages of a request written for the first time: created, or waited for. -/
def newPages (s : State) (n : Nat) (ks : List PageKey) : State :=
  ks.foldl (fun s k => if k.kind = 1 then createPage s k (.request n 0) else s) s

/-- Pages that a pass writes: all in the Lode tier, or the waits begun. -/
def writePages (s : State) (n : Nat) (ks : List PageKey) : State × Bool :=
  ks.foldl (fun (acc : State × Bool) k =>
    let s1 := needFor acc.1 n k
    let there := match pageOf s1 k with
      | some p => p.st == .resident || p.st == .demoting
      | none => false
    (s1, acc.2 && there)) (newPages s n ks, true)

/-- The pages of an adapter version. -/
def adapterKeys (s : State) (c : Nat) (h : Option Nat) : List PageKey :=
  match h with
  | none => []
  | some h => (List.range (objectPages s c 3 h)).map (fun i => ⟨c, 3, h, i⟩)

/-- The pages of the models and of the adapter that a pass uses (R234, R247). -/
def passPages (s : State) (r : Req) : List PageKey :=
  let ms := ((r.bind.recipe.bind (·.genModel)).toList) ++
    (if r.desc.noSpec then [] else (r.bind.recipe.bind (·.draftModel)).toList)
  (ms.map (modelKeys s r.claim)).flatten ++ adapterKeys s r.claim r.bind.adapter

/-- The embeddings that a pass gathers (R238, R249): of the tokens each model runs over, by its EMBED_LEDGER. -/
def passLooks (s : State) (r : Req) (gen draft : List Nat) : List (Nat × List Nat) :=
  ((genOf s r).map (fun m => (m.embedLedger, gen))).toList ++ ((draftOf s r).map (fun m => (m.embedLedger, draft))).toList

/-- Whether look-ups can go, the pages they fetch from, and the look-ups made for a request or for a command (R193, R196). -/
def looksReady (s : State) (c : Nat) (ls : List (Nat × List Nat)) : Bool := ls.all (fun x => rowsReady s c x.1 x.2)
def lookPages (s : State) (c : Nat) (ls : List (Nat × List Nat)) : List PageKey := (ls.map (fun x => rowPages s c x.1 x.2)).flatten
def lookUps (s : State) (c : Nat) (slot : Option Nat) (ls : List (Nat × List Nat)) : State :=
  ls.foldl (fun s x => (serveRows s c x.1 slot x.2).2) s

/-- The tokens at the positions that the models run over in a verification step of `ds` drafts: the generator from C, the draft
model from its own committed length, where it catches up (R249, R250). -/
def stepTokens (r : Req) (ds : List Nat) : List Nat × List Nat :=
  if r.gen.toks.isEmpty then ([], [])
  else
    ((r.gen.toks.getLast?).toList ++ ds, (r.gen.toks.drop (r.gen.draftCommitted - (r.bind.pfxLen + r.gen.prompt.length)) ++ ds).dropLast)

/-- What a verification step of `ds` drafts reads: the pages of its pass, and the committed pages of each model (R248,
R249). Generated token 0 is drawn from the logits that prefill left. -/
def verifyReads (s : State) (n : Nat) (r : Req) (ds : List Nat) : List PageKey :=
  if r.gen.toks.isEmpty then []
  else passPages s r ++ lookPages s r.claim (passLooks s r (stepTokens r ds).1 (stepTokens r ds).2)
    ++ modelPages s n r false 0 r.gen.committed ++ modelPages s n r true 0 r.gen.draftCommitted

/-- The models of a request in the state a pass needs (R234): READY, or the pass waits, or the request has ended. -/
def modelsReady (s : State) (n : Nat) (r : Req) : State × Bool :=
  let ms := ((r.bind.recipe.bind (·.genModel)).toList) ++
    (if r.desc.noSpec then [] else (r.bind.recipe.bind (·.draftModel)).toList)
  let st := fun (m : Nat) => kgetD s.face.models (r.claim, m) 0
  if ms.any (fun m => st m == 3) then (commitReq s n 0x06 0, false) else (s, ms.all (fun m => st m == 2))

/-! ### KV_RESERVATION_GRANT (R242) -/

/-- KV_RESERVATION_GRANT: the claim's first reservation in admission order, where the unreserved pages of its KV and HOST
pools, less the HOST frames of shared pages, cover it (R242, R309). -/
def opKvReservationGrant (claim : Nat) (s : State) : State :=
  let want := (requests s).filter (fun x => x.2.claim == claim && x.2.commit.isNone && x.2.gen.resvAsked.isSome && !x.2.gen.granted)
  match leastBy (fun (a b : Nat × Req) => decide (a.2.bind.order < b.2.bind.order)) want with
  | none => s
  | some (n, r) =>
    let k := r.gen.resvAsked.getD 0
    if alive s && decide (booked s claim + k ≤ reservable s claim) then
      modReq s n (fun r => { r with gen := { r.gen with granted := true, resv := k } })
    else s

/-- The meaning of KV_RESERVATION_GRANT. -/
def execKvReservationGrant (claim : Nat) (s : State) : Host.Outcome State Fault Refusal := .next (opKvReservationGrant claim s)

/-! ### The keys and values a pass writes (R239, R241, R244) -/

/-- The generator of a request, or the draft model prefilled with it. -/
def passModel (s : State) (r : Req) (draft : Bool) : Option ModelSec := if draft then draftOf s r else genOf s r

/-- The first position from `lo` on whose KV of a layer the pass under way has still to write. -/
def kvFrom (r : Req) (layer lo : Nat) : Nat := max lo (kgetD r.gen.kvDone layer 0)

/-- Whether rows give what a pass still writes of a model's positions from `lo` up to but not at `hi`. -/
def rowsGiven (s : State) (r : Req) (draft : Bool) (lo hi : Nat) (kv : List KvRow) : Bool :=
  match passModel s r draft with
  | none => true
  | some m => ((layersOf s r).filter (fun x => x.2.2 == draft)).all (fun x => kvGiven m kv x.1 (kvFrom r x.1 lo) hi)

/-- Rows of a layer of a model written to the request's pages. -/
def writeLayer (s : State) (n : Nat) (r : Req) (m : ModelSec) (layer lo hi : Nat) (kv : List KvRow) : State :=
  (kv.filter (fun x => x.layer == layer && decide (lo ≤ x.pos) && decide (x.pos < hi))).foldl (fun s x =>
    modPage s (kvPage s n r layer (pppOf m) (x.pos / max 1 (pppOf m))) (fun p => { p with data := kvWrite m p.data x })) s

/-- What a pass still writes of a model's positions from `lo` up to but not at `hi`. -/
def writeRows (s : State) (n : Nat) (r : Req) (draft : Bool) (lo hi : Nat) (kv : List KvRow) : State :=
  match passModel s r draft with
  | none => s
  | some m => ((layersOf s r).filter (fun x => x.2.2 == draft)).foldl (fun s x =>
      writeLayer s n r m x.1 (kvFrom r x.1 lo) hi kv) s

/-- The first positions of a block copied from one page to another: keys and values. -/
def copyHead (m : ModelSec) (count : Nat) (src dst : List Byte) : List Byte :=
  let w := count * (m.kvHeads * m.headDim * kvSize m)
  setBytes (setBytes dst 0 (slice src 0 w)) 32768 (slice src 32768 w)

/-- The tail copy (R241): of each layer, the positions of the prefix's last page before position P, into the request's own page. -/
def tailCopy (s : State) (n : Nat) (r : Req) : State :=
  let t := max 1 (kvLayers s ⟨r.claim, 1, n, 0⟩)
  match r.bind.pfx with
  | none => s
  | some h => (layersOf s r).foldl (fun s x =>
      let b := r.bind.pfxLen / x.2.1
      if r.bind.pfxLen % x.2.1 = 0 then s
      else match passModel s r x.2.2, pageOf s ⟨r.claim, 4, h, b * t + x.1⟩ with
        | some m, some q => modPage s (kvPage s n r x.1 x.2.1 b) (fun p => { p with data := copyHead m (r.bind.pfxLen % x.2.1) q.data p.data })
        | _, _ => s) s

/-! ### PREFILL_CHUNK (R238, R241) -/

/-- HIDDEN and ATTN arms on positions of a chunk. -/
def fireChunk (s : State) (n i : Nat) (r : Req) (lo hi : Nat) (g : ModelSec) : State :=
  let occs := dedup ((s.watch.arms.filter (fun a => armOf s n a && a.wname.stepNo == i && decide (lo ≤ a.step) && decide (a.step < hi))).map (·.step))
  occs.foldl (fun s o => fireLayers s n i o (r.bind.pfxLen + o) g) s

/-- The next chunk of a prompt: from and up to which of its tokens. -/
def chunkOf (r : Req) (t : StepRec) (g : ModelSec) : Nat × Nat :=
  let chunk := max 1 (if t.word 0 % 65536 = 0 then g.prefillChunk else t.word 0 % 65536)
  (r.gen.prefilled, min r.gen.prompt.length (r.gen.prefilled + chunk))

/-- PREFILL_CHUNK: the next chunk of a prompt, once its reservation is granted and its pages are at hand; the first
makes the tail copy of the prefix's last page. `kv` holds the keys and values of the chunk's positions, which R300 leaves open (log 29),
but for those that attention of the chunk has written already. -/
def opPrefillChunk (slot : BitVec 16) (kv : List KvRow) (s : State) : State :=
  let n := slot.toNat
  match stepNoOf s n 8, running s n with
  | some i, some r =>
    match genOf s r, (planOf r)[i]? with
    | some g, some t =>
      let (lo, hi) := chunkOf r t g
      let p := r.bind.pfxLen
      let toks := (r.gen.prompt.drop lo).take (hi - lo)
      let looks := passLooks s r toks toks
      if !r.gen.granted || !looksReady s r.claim looks || !rowsGiven s r false (p + lo) (p + hi) kv
          || !rowsGiven s r true (p + lo) (p + hi) kv then s
      else
        let (s1, ready) := modelsReady s n r
        let reads := passPages s1 r ++ lookPages s1 r.claim looks
        let (s2, ok) := gatherPages s1 n (reads ++ tailPages s1 n r ++ seqPages s1 n r 0 (p + lo))
        if !(ready && ok) then s2
        else
          let own := ⟨r.claim, 1, n, countTableIdx⟩ :: seqPages s2 n r (p + lo) (p + hi)
          let (s3, here) := writePages s2 n own
          if !here then s3
          else
            let s4 := usePages (unpinPages s3 n reads) n (passPages s3 r ++ tailPages s3 n r ++ seqPages s3 n r 0 (p + hi))
            let s5 := lookUps s4 r.claim (some n) looks
            let s6 := if lo = 0 then tailCopy s5 n r else s5
            let s7 := writeRows (writeRows s6 n r false (p + lo) (p + hi) kv) n r true (p + lo) (p + hi) kv
            let s8 := fireChunk (markChunk s7 n r lo hi) n i r lo hi g
            let whole := hi = r.gen.prompt.length
            let s9 := modReq s8 n (fun r => { r with
              gen := { r.gen with prefilled := hi, kvDone := [], committed := if whole then p + hi else r.gen.committed
                                  draftCommitted := if whole then p + hi else r.gen.draftCommitted }
              out := { r.out with tokensIn := r.out.tokensIn + (hi - lo) } })
            if whole then completeStep s9 n i id else s9
    | _, _ => s
  | _, _ => s

/-- The meaning of PREFILL_CHUNK. -/
def execPrefillChunk (run : ChunkRun) (s : State) : Host.Outcome State Fault Refusal :=
  .next (opPrefillChunk run.slot run.kv s)

/-! ### VERIFY_STEP (R248 to R251, R259) -/

/-- Timber's state of a position: none without a grammar. EOS takes no edge and leaves it. -/
def specAdvance (g : Option GrammarSec) (eos : Nat) (t : Option TimberSt) (tok : Nat) : Option TimberSt :=
  match g, t with
  | some g, some t => if tok = eos then some t else some ((timberAdvance g t tok).getD t)
  | _, _ => t

/-- Whether a token is allowed at a position. -/
def specAllows (g : Option GrammarSec) (eos : Nat) (t : Option TimberSt) (tok : Nat) : Bool :=
  match g, t with
  | some g, some t => timberAllows g eos t tok
  | _, _ => true

/-- The draft model's proposals (R249): at each position the highest-scoring allowed token whose logit is no NaN, ties to
the lower ID; a position without one ends drafting. -/
def proposals (g : Option GrammarSec) (eos : Nat) (t : Option TimberSt) (logits : List (List F32)) : List Nat :=
  match logits with
  | [] => []
  | l :: rest =>
    let open_ := ((List.range l.length).zip l).filter (fun x => specAllows g eos t x.1 && !isNan32 x.2)
    match leastBy (fun (a b : Nat × F32) => before (satInf32 a.2, a.1) (satInf32 b.2, b.1)) open_ with
    | none => []
    | some x => x.1 :: proposals g eos (specAdvance g eos t x.1) rest

/-- The draws of a verification step (R250): the draws made, in order, up to the first that is no draft. -/
def verifyDraws (p : DrawParams) (seed : W64) (g : Option GrammarSec) (eos : Nat) (idx : Nat) (t : Option TimberSt)
    (counts : AMap (Nat × Nat)) (drafts : List Nat) (logits : List (List F32)) : List DrawRes :=
  match logits with
  | [] => []
  | l :: rest =>
    let d := draw p seed idx (specAllows g eos t) counts l
    match d.tok, drafts with
    | some x, y :: ys =>
      if x = y then d :: verifyDraws p seed g eos (idx + 1) (specAdvance g eos t x) (enterCount true counts x).1 ys rest
      else [d]
    | _, _ => [d]

/-- How many of the tokens drawn are kept, and the ending that keeps them (R259, R130): 0 EOS, 1 stop string,
2 MAX_TOKENS, 3 LENGTH_LIMIT. `idx` is the generated index of the first and `pos` its position. -/
def endingOf (v : VocabSec) (stops : List (List Byte)) (d : Detok) (eos maxNew limit idx pos : Nat) (ts : List Nat) :
    Nat × Option Nat :=
  match ts with
  | [] => (0, none)
  | t :: r =>
    let (d1, _, _) := detokToken v stops false d t
    if t = eos then (1, some 0)
    else if d1.stop.isSome then (1, some 1)
    else if idx + 1 = maxNew then (1, some 2)
    else if pos + 1 = limit then (1, some 3)
    else
      let (k, e) := endingOf v stops d1 eos maxNew limit (idx + 1) (pos + 1) r
      (k + 1, e)

/-- The TOKENIZE step with ROLE 1 that configures a request's detokenizing (R111, R112). -/
def roleOne (r : Req) : Option StepRec := (planOf r).find? (fun t => t.typ == 1 && t.role == 1)

/-- GEN_VOCAB of a request's recipe: its number and the vocabulary. -/
def genVocabOf (s : State) (r : Req) : Option (Nat × VocabSec) :=
  (r.bind.recipe.bind (·.genVocab)).bind (fun v => (vocabOf s r.claim v).map (fun x => (v, x)))

/-- The stop strings of a request, a stop set of GEN_VOCAB, and INCLUDE_STOP: those of its TOKENIZE step with ROLE 1 (R111,
R112). -/
def stopsOf (s : State) (r : Req) : List (List Byte) × Bool :=
  match roleOne r with
  | none => ([], false)
  | some t => (((genVocabOf s r).map (fun v => v.2.stopsets.getD (t.word 4 % 2048) [])).getD [], (t.word 4).testBit 16)

/-- Whether a batch's detokenizing reads a bad line: of the strings of its tokens, or of the stop set (R110, R418). -/
def detokBad (s : State) (r : Req) (vn : Nat) (v : VocabSec) (ts : List Nat) : Bool :=
  readsBad s vn (detokLines v ts) || (match genVocabOf s r, roleOne r with
    | some (g, x), some t => readsBad s g (stopLines x (t.word 4 % 2048))
    | _, _ => false)

/-- Whether a request stalls on its stream (R83, R374): unshaped with a record that waits for the ring, or with 64
records held. -/
def stalled (s : State) (n : Nat) (r : Req) : Bool :=
  if unshaped s n r then !r.stream.held.isEmpty else decide (64 ≤ r.stream.held.length)

/-- The draft length of a step (R237, R249); 0 for the first draw. -/
def draftLenOf (r : Req) (t : StepRec) (g : ModelSec) (hasDraft : Bool) : Nat :=
  let dl := if !hasDraft then 0 else if t.word 0 % 256 = 0xFF then g.draftLen else t.word 0 % 256
  if r.gen.toks.isEmpty then 0
  else min dl (min (g.seqLimit - 2 - r.gen.committed) (r.desc.maxNew - r.gen.toks.length - 1))

/-- KV pages of a request that hold only positions at or above a committed length released (R251). -/
def dropAbove (s : State) (n : Nat) (r : Req) (c : Nat) : State :=
  let t := max 1 (kvLayers s ⟨r.claim, 1, n, 0⟩)
  let ls := layersOf s r
  dropPages s (fun k => ofObj r.claim 1 n k && k.idx != countTableIdx &&
    (match ls.find? (fun x => x.1 == k.idx % t) with
      | some x => decide (c ≤ k.idx / t * x.2.1)
      | none => false))

/-! ### ATTENTION_PARTIAL_MERGE (R243, R244) -/

/-- The positions of a model that the pass under way writes: from, and up to which at most. A chunk's (R238), or those of a
verification step with all its drafts (R249, R250). -/
def passRange (s : State) (n : Nat) (r : Req) (draft : Bool) : Option (Nat × Nat) :=
  match genOf s r with
  | none => none
  | some g =>
    match stepNoOf s n 8, stepNoOf s n 9 with
    | some i, _ => if !r.gen.granted then none else ((planOf r)[i]?).map (fun t =>
        (r.bind.pfxLen + (chunkOf r t g).1, r.bind.pfxLen + (chunkOf r t g).2))
    | none, some i => if r.gen.toks.isEmpty || r.gen.ended.isSome then none else ((planOf r)[i]?).map (fun t =>
        let d := draftLenOf r t g (draftOf s r).isSome
        if draft then (r.gen.draftCommitted, r.gen.committed + d) else (r.gen.committed, r.gen.committed + d + 1))
    | none, none => none

/-- The pages of one layer that hold positions from `lo` up to but not at `hi`. -/
def layerPages (s : State) (n : Nat) (r : Req) (layer ppp lo hi : Nat) : List PageKey :=
  if hi ≤ lo then []
  else (List.range ((hi - 1) / ppp + 1 - lo / ppp)).map (fun b => kvPage s n r layer ppp (lo / ppp + b))

/-- The Lode that attends to a page in a request's pass: the one that holds it, or into whose page buffer it was copied (R245). -/
def attnLode (s : State) (n : Nat) (k : PageKey) : Option Nat :=
  (pageOf s k).bind (fun p => (p.frame.map (·.1)).orElse (fun _ => if p.copied.contains n then some (bufferLode s k) else none))

/-- The positions up to `pos` of a layer that a Lode holds: S_j of R243. -/
def lodePositions (s : State) (n : Nat) (r : Req) (layer ppp pos lode : Nat) : List Nat :=
  (List.range (pos + 1)).filter (fun i => attnLode s n (kvPage s n r layer ppp (i / ppp)) == some lode)

/-- The Lodes whose S_j is not empty. -/
def attnLodes (s : State) (n : Nat) (r : Req) (layer ppp pos : Nat) : List Nat :=
  dedup ((layerPages s n r layer ppp 0 (pos + 1)).filterMap (attnLode s n))

/-- The partial of a Lode (R243) over its positions in the order its base die sums them. -/
def lodePartial (s : State) (n : Nat) (r : Req) (m : ModelSec) (layer head : Nat) (q : List F32) (dims order : List Nat) : Option AttnPartial :=
  let kvh := head / (m.qHeads / max 1 m.kvHeads)
  let data := fun (i : Nat) => ((pageOf s (kvPage s n r layer (pppOf m) (i / max 1 (pppOf m)))).map (·.data)).getD []
  formPartial m.headDim dims q (order.map (fun i => (kvRead m (data i) 0 i kvh, kvRead m (data i) 1 i kvh)))

/-- One query head of one position merged, the keys and values there: `parts` names each Lode that holds positions of the sequence,
in the order in which its partial arrives, with the order of its sums. -/
def mergeHead (s : State) (n : Nat) (r : Req) (m : ModelSec) (layer head pos : Nat) (q : List F32) (dims : List Nat)
    (parts : List (Nat × List Nat)) : State :=
  let ppp := max 1 (pppOf m)
  if (parts.map (·.1)).isPerm (attnLodes s n r layer ppp pos) && parts.all (fun x => x.2.isPerm (lodePositions s n r layer ppp pos x.1)) then
    let out := mergePartials (parts.filterMap (fun x => lodePartial s n r m layer head q dims x.2))
    modReq (parts.foldl (fun s x => lodeRan s x.1 0) s) n (fun r => { r with gen := { r.gen with attn := out } })
  else s

/-- ATTENTION_PARTIAL_MERGE for a query head of a layer at a position of the pass of PREFILL or GENERATE under way (R243, R244).
`kv` holds the keys and values of the layer's positions in the pass that are not yet written: they are written first. The query, the
rows, and the orders of sums and of arrival are open (R300, log 29). -/
def opAttentionPartialMerge (slot : BitVec 16) (layer head pos : Nat) (q : List F32) (kv : List KvRow) (dims : List Nat)
    (parts : List (Nat × List Nat)) (s : State) : State :=
  let n := slot.toNat
  match running s n with
  | none => s
  | some r =>
    match (layersOf s r).find? (fun x => x.1 == layer) with
    | none => s
    | some x =>
      match passModel s r x.2.2, passRange s n r x.2.2 with
      | some m, some (lo, top) =>
        let low := kvFrom r layer lo
        let hi := min top (((kv.filter (fun y => y.layer == layer)).map (·.pos + 1)).foldl max low)
        if decide (pos < lo) || decide (hi ≤ pos) || decide (m.qHeads ≤ head) || q.length != m.headDim || !kvGiven m kv layer low hi then s
        else
          let first := lo == r.bind.pfxLen && (stepNoOf s n 8).isSome
          let ppp := max 1 (pppOf m)
          let (s1, ready) := modelsReady s n r
          let (s2, ok) := gatherPages s1 n ((if first then tailPages s1 n r else []) ++ layerPages s1 n r layer ppp 0 lo)
          if !(ready && ok) then s2
          else
            let (s3, here) := writePages s2 n (layerPages s2 n r layer ppp lo hi)
            if !here then s3
            else
              let s4 := writeLayer (if first then tailCopy s3 n r else s3) n r m layer low hi kv
              let s5 := modReq s4 n (fun r => { r with gen := { r.gen with kvDone := kset r.gen.kvDone layer hi } })
              mergeHead s5 n r m layer head pos q dims parts
      | _, _ => s

/-- The meaning of ATTENTION_PARTIAL_MERGE. -/
def execAttentionPartialMerge (slot : BitVec 16) (run : AttnRun) (s : State) : Host.Outcome State Fault Refusal :=
  .next (opAttentionPartialMerge slot run.layer run.head run.pos run.q run.kv run.dims run.parts s)

/-! ### What a verification step commits -/

/-- LOGITS, SELECTION, HIDDEN and ATTN arms of the kept tokens of a step (R443, R445). -/
def fireTokens (s : State) (n i : Nat) (r : Req) (g : ModelSec) (ds : List DrawRes) (logits : List (List F32)) (k : Nat) : State :=
  (List.range k).foldl (fun s j =>
    let idx := r.gen.toks.length + j
    let pos := r.bind.pfxLen + r.gen.prompt.length + idx - 1
    let d := ds.getD j ⟨none, 0, 0, false, false, 0, 0, []⟩
    let sel := leBytes 8 d.selMass ++ leBytes 8 d.leftMass ++
      (d.final.map (fun x => leBytes 4 x.1 ++ leBytes 4 0 ++ leBytes 8 x.2)).flatten
    let raw := ((logits.getD j []).map (fun x => leBytes 4 x.toNat)).flatten
    fireLayers (fireArm (fireArm s n i 6 idx 0 raw pos) n i 7 idx 0 sel pos) n i idx pos g) s

/-- The counters of a step's draws (SL_COUNTS, SL_ERR, TB_COUNTS.MASKS, FC_SPEC). -/
def countStep (s : State) (c : Nat) (hasGrammar : Bool) (ds : List DrawRes) (drafted accepted : Nat) : State :=
  let e := s.eng
  let nans := (ds.map (·.nans)).sum
  { s with
    eng := { e with
      slDraws := satAdd 32 e.slDraws ds.length, slCapped := satAdd 16 e.slCapped ((ds.filter (·.capped)).length)
      slTies := satAdd 16 e.slTies ((ds.filter (·.tie)).length), slNan := satAdd 32 e.slNan nans
      slErr := if nans = 0 then e.slErr else e.slErr ||| 4
      tbMasks := if hasGrammar then satAdd 32 e.tbMasks (ds.length + drafted) else e.tbMasks
      tbSpecPeak := if hasGrammar then max e.tbSpecPeak drafted else e.tbSpecPeak }
    face := { s.face with
      drafted := lmod s.face.drafted c (fun a => satAdd 32 a drafted)
      accepted := lmod s.face.accepted c (fun a => satAdd 32 a accepted) } }

/-- A request ends with GRAMMAR_DEAD_END (R278), counted in TB_COUNTS.DEAD_ENDS. -/
def endDead (s : State) (n d : Nat) : State :=
  commitReq { s with eng := { s.eng with tbDeadEnds := satAdd 16 s.eng.tbDeadEnds 1 } } n 0x0B d

/-- What a verification step commits: the tokens kept, the draws made, the tokens drafted and accepted, the ending with
its DETAIL, and the logits its draws used. -/
structure StepRes where
  kept : List Nat
  draws : List DrawRes
  drafts : List Nat
  accepted : Nat
  ending : Option (Nat × Nat)

/-- The computation of a verification step (R249, R250, R259, R278). -/
def verifyRes (s : State) (r : Req) (t : StepRec) (m : ModelSec) (v : VocabSec) (hasDraft : Bool) (draft gen : List (List F32)) : StepRes :=
  let dlen := draftLenOf r t m hasDraft
  let idx := r.gen.toks.length
  let ds := proposals r.bind.grammar v.eos r.gen.timber (draft.take dlen)
  let draws := verifyDraws (drawParamsOf t) r.desc.seed r.bind.grammar v.eos idx r.gen.timber r.gen.counts ds (gen.take (ds.length + 1))
  let toks := draws.filterMap (·.tok)
  let (stops, _) := stopsOf s r
  let pos := r.bind.pfxLen + r.gen.prompt.length + idx
  let (k, e) := endingOf v stops r.stream.detok v.eos r.desc.maxNew m.seqLimit idx pos toks
  let dead := match draws.getLast? with
    | some d => if d.tok.isNone then some (4, d.detail) else none
    | none => none
  { kept := toks.take k, draws := draws, drafts := ds
    accepted := min k (((toks.zip ds).takeWhile (fun x => x.1 == x.2)).length)
    ending := match e with
      | some x => some (x, 0)
      | none => dead }

/-- The step committed (R250, R251, R258): tokens, lengths, counts, Timber, pages and the batch for the Crusher. -/
def commitStep (s : State) (n i : Nat) (r : Req) (m : ModelSec) (v : VocabSec) (res : StepRes) (gen : List (List F32)) : State :=
  let c := r.gen.committed
  let k := res.kept.length
  let c1 := if r.gen.toks.isEmpty then c else c + k
  let d1 := if r.gen.toks.isEmpty then r.gen.draftCommitted else min c1 (c + res.drafts.length)
  let s1 := countStep s r.claim r.bind.grammar.isSome res.draws res.drafts.length res.accepted
  let s2 := enterCounts s1 n true res.kept
  let s3 := modReq s2 n (fun r => { r with
    out := { r.out with tokensOut := r.out.tokensOut + k, accepted := r.out.accepted + res.accepted
                        flags := r.out.flags ||| (if res.drafts.isEmpty then 0 else flSpec) }
    gen := { r.gen with
      toks := r.gen.toks ++ res.kept, committed := c1, draftCommitted := d1, kvDone := []
      timber := res.kept.foldl (specAdvance r.bind.grammar v.eos) r.gen.timber
      batches := if k = 0 then [] else [⟨r.gen.toks.length, res.kept, res.ending.isSome⟩], ended := res.ending } })
  let s4 := markSeq (markSeq s3 n r false c c1) n r true r.gen.draftCommitted d1
  let s5 := fireTokens (dropAbove s4 n r c1) n i r m res.draws gen k
  match res.ending with
  | some (4, d) => if k = 0 then endDead s5 n d else s5
  | _ => s5

/-- Whether a request can be in a decode pass: its GENERATE step issued, no batch on its way, its stream not stalled, and its output
not ended. -/
def decodeReady (s : State) (n : Nat) (r : Req) : Bool :=
  r.gen.ended.isNone && r.gen.batches.isEmpty && !stalled s n r && (stepNoOf s n 9).isSome

/-- The positions of a request in a decode pass (R249): D + 1. -/
def decodePositions (s : State) (n : Nat) (r : Req) : Nat :=
  match genOf s r, (stepNoOf s n 9).bind (fun i => (planOf r)[i]?) with
  | some m, some t => draftLenOf r t m (draftOf s r).isSome + 1
  | _, _ => 0

/-- Whether a request and others make up a decode pass of its generator (R238): each of them ready, past generated token 0, with
DECODE_PASS positions in all at most. One alone always does. -/
def groupOk (s : State) (n : Nat) (r : Req) (m : ModelSec) (others : List Nat) : Bool :=
  let same := fun (k : Nat) => match running s k with
    | some x => x.claim == r.claim && x.bind.recipe.bind (·.genModel) == r.bind.recipe.bind (·.genModel) && decodeReady s k x
        && !x.gen.toks.isEmpty
    | none => false
  let count := ((others.filterMap (running s)).zip others).map (fun x => decodePositions s x.2 x.1)
  others.isEmpty || (decide (n :: others).Nodup && others.all same && !r.gen.toks.isEmpty
    && decide (decodePositions s n r + count.sum ≤ m.decodePass))

/-- VERIFY_STEP with the logits of the draft positions and of the generator's positions, and the keys and values of the pass's
positions that are not yet written, which R300 leaves open (log 29): the first draws generated token 0 from the last prefill position.
`group` names the other requests of the decode pass; the step is this request's. -/
def opVerifyStep (slot : BitVec 16) (group : List (BitVec 16)) (draft gen : List (List F32)) (kv : List KvRow) (s : State) : State :=
  let n := slot.toNat
  match stepNoOf s n 9, running s n with
  | some i, some r =>
    match genOf s r, (planOf r)[i]? with
    | some m, some t =>
      match vocabOf s r.claim m.vocab with
      | none => s
      | some v =>
        let hasDraft := (draftOf s r).isSome
        let dlen := draftLenOf r t m hasDraft
        let sizes := gen.all (fun l => l.length == v.toks.length) && draft.all (fun l => l.length == v.toks.length)
        let ds := proposals r.bind.grammar v.eos r.gen.timber (draft.take dlen)
        let looks := passLooks s r (stepTokens r ds).1 (stepTokens r ds).2
        let (c, d, top) := (r.gen.committed, r.gen.draftCommitted, r.gen.committed + ds.length)
        let given := r.gen.toks.isEmpty || (rowsGiven s r false c (top + 1) kv && rowsGiven s r true d top kv)
        if !decodeReady s n r || !sizes || draft.length < dlen || gen.length < ds.length + 1 || !given || !looksReady s r.claim looks
            || !groupOk s n r m (group.map (·.toNat)) then s
        else if ((r.bind.recipe.bind (·.grammar)).map (fun x => s.eng.badGrammars.contains (r.claim, x))).getD false then
          endBadSram s n r.claim 5
        else
          let (s1, ready) := modelsReady s n r
          let (s2, ok) := gatherPages s1 n (verifyReads s1 n r ds)
          if !(ready && ok) then s2
          else
            let own := verifyWrites s2 n r ds.length
            let (s3, here) := writePages s2 n own
            if !here then s3
            else
              let emb := lookPages s3 r.claim looks
              let s4 := usePages (unpinPages s3 n emb) n ((verifyReads s3 n r ds).filter (fun k => !emb.contains k) ++ own)
              let s5 := lookUps s4 r.claim (some n) looks
              let s6 := if r.gen.toks.isEmpty then s5 else writeRows (writeRows s5 n r false c (top + 1) kv) n r true d top kv
              commitStep s6 n i r m v (verifyRes s6 r t m v hasDraft draft gen) gen
    | _, _ => s
  | _, _ => s

/-- The meaning of VERIFY_STEP. -/
def execVerifyStep (run : VerifyRun) (draft gen : List (List F32)) (s : State) : Host.Outcome State Fault Refusal :=
  .next (opVerifyStep run.slot run.group draft gen run.kv s)

/-! ### DETOKENIZE_BATCH (R127 to R133) -/

/-- The end of generation after its last batch: the flag, or the status, of its ending. -/
def finishGenerate (s : State) (n i : Nat) (r : Req) (stop : Option Nat) : State :=
  match r.gen.ended with
  | none => s
  | some (0, _) => completeStep (flagReq s n flEos) n i id
  | some (1, _) =>
    let s1 := { s with eng := { s.eng with crStops := satAdd 16 s.eng.crStops 1 } }
    completeStep (modReq s1 n (fun r => { r.flag flStop with out := { (r.flag flStop).out with detail := stop.getD 0 } })) n i id
  | some (2, _) => completeStep (flagReq s n flMax) n i id
  | some (3, _) => commitReq s n 0x0A 0
  | some (_, d) => endDead s n d

/-- DETOKENIZE_BATCH: a batch's text released (the strings and EOS are those of the generator model's VOCAB, whose IDs the
tokens are; the stop set is GEN_VOCAB's: DESIGN CHOICE where the two differ, log 113), cut into records, and handed to the stream; after the last batch the held
text of an EOS or MAX_TOKENS ending, and the end of generation. -/
def opDetokenizeBatch (slot : BitVec 16) (s : State) : State :=
  let n := slot.toNat
  match stepNoOf s n 9, running s n with
  | some i, some r =>
    match r.gen.batches, (genOf s r).bind (fun m => vocabOf s r.claim m.vocab) with
    | b :: rest, some v =>
      if stalled s n r then s
      else if detokBad s r (((genOf s r).map (·.vocab)).getD 0) v b.toks then endBadSram s n r.claim 4
      else
        let (stops, incl) := stopsOf s r
        let (d1, cs, bad1) := detokTokens v stops incl r.stream.detok b.toks
        let flush := b.last && (match r.gen.ended with
          | some (e, _) => e == 0 || e == 2
          | none => false)
        let (more, bad2) := if flush then detokFlush d1 else ([], 0)
        let recs := cutRecords [] (cs ++ more)
        let held := (List.range recs.length).zip recs |>.map (fun x =>
          (if x.1 = 0 then ⟨x.2, b.toks.length, b.first⟩ else ⟨x.2, 0, b.first + b.toks.length⟩ : TextRec))
        let s1 := countInvalid s n (bad1 + bad2)
        let s2 := modReq s1 n (fun r => { r with
          gen := { r.gen with batches := rest }
          stream := { r.stream with detok := d1, held := if r.hasStream then r.stream.held ++ held else r.stream.held } })
        let s3 := pumpStream s2 n
        if b.last then finishGenerate s3 n i r d1.stop else s3
    | _, _ => s
  | _, _ => s

/-- The meaning of DETOKENIZE_BATCH. -/
def execDetokenizeBatch (slot : BitVec 16) (s : State) : Host.Outcome State Fault Refusal := .next (opDetokenizeBatch slot s)

/-! ### Shapers and staging buffers granted -/

/-- STREAM_SHAPER_GRANT (R370, R481): the claim's first waiting request takes a shaper that is free, and its GENERATE step
is issued. -/
def opStreamShaperGrant (slot : BitVec 16) (s : State) : State :=
  let n := slot.toNat
  match running s n with
  | none => s
  | some r =>
    let head := s.haul.streamWaits.find? (fun m => ((reqOf s m).map (·.claim)) == some r.claim)
    if alive s && head == some n then
      let (s1, ok) := takeShaper s n r
      if ok then goOn { s1 with haul := { s1.haul with streamWaits := s1.haul.streamWaits.filter (· != n) } } n else s
    else s

/-- The meaning of STREAM_SHAPER_GRANT. -/
def execStreamShaperGrant (slot : BitVec 16) (s : State) : Host.Outcome State Fault Refusal := .next (opStreamShaperGrant slot s)

/-- STAGING_BUFFER_GRANT (R304): the claim's first step that waits for buffers gets them once a staging group of the
claim in service has room, and its bank's queue a place (R284). -/
def opStagingBufferGrant (claim : Nat) (s : State) : State :=
  match s.cage.staging.find? (fun a => ((reqOf s a.1).map (·.claim)) == some claim) with
  | none => s
  | some a =>
    let need := ((reqOf s a.1).bind (fun r => ((planOf r)[a.2]?).map (stagingNeed s r a.2))).getD 0
    let room := ((reqOf s a.1).bind (fun r => ((planOf r)[a.2]?).map (fun t => bankRoom s claim (stepEngines r t.typ)))).getD true
    if alive s && (roomyGroup s claim need).isSome && room then
      goOn { s with cage := { s.cage with staging := s.cage.staging.filter (· != a) } } a.1
    else s

/-- The meaning of STAGING_BUFFER_GRANT. -/
def execStagingBufferGrant (claim : Nat) (s : State) : Host.Outcome State Fault Refusal := .next (opStagingBufferGrant claim s)

end Sys2Proof.Machine
end

