-- ==== Sys2Proof/Machine/ImageFmt.lean ====
section
/-! DEFINITION. The sections of a Jepor image read from their bytes, each with the checks of its own fields (02 R34,
R36, R40, R41, R476, and the chapters that own the formats). A check that fails gives the refusal code of R46. -/

namespace Sys2Proof.Machine

/-! ### Codes and checks -/

/-- The refusal codes of R46 that the load checks give, beside those of recipes. -/
def cdMagic : Nat := 0x01
def cdMajor : Nat := 0x02
def cdGeneration : Nat := 0x03
def cdLength : Nat := 0x04
def cdSignature : Nat := 0x05
def cdKey : Nat := 0x06
def cdTable : Nat := 0x07
def cdOverlap : Nat := 0x09
def cdClaim : Nat := 0x0A
def cdFlash : Nat := 0x0B
def cdState : Nat := 0x0E
def cdBase : Nat := 0x0F
def cdStructural : Nat := 0x10
def cdChanged : Nat := 0x12

/-- A result, or the code of a check that failed. -/
abbrev Chk (α : Type) := Except Nat α

/-- A check: its code unless it holds. -/
def need (ok : Bool) (code : Nat) : Chk Unit := if ok then .ok () else .error code

/-- Whether a value lies in a range. -/
def within (lo hi v : Nat) : Bool := decide (lo ≤ v) && decide (v ≤ hi)

/-- A reference of 8 or 16 bits; all ones is none. -/
def ref8 (v : Nat) : Option Nat := if v = 0xFF then none else some v
def ref16 (v : Nat) : Option Nat := if v = 0xFFFF then none else some v

/-- `n` records of `k` bytes from byte `o`. -/
def records (b : List Byte) (o k n : Nat) : List (List Byte) := chunks n k ((b.drop o).take (k * n))

/-- A token field of 24 bits whose upper bits are reserved (R12): whether they are 0. -/
def tokOk (v : Nat) : Bool := decide (v < 2 ^ 18)

/-! ### CLAIM (R40, R41) -/

/-- A pool record: its POOL_KIND and PAGES. -/
def poolRec (b : List Byte) : Nat × Nat := (byteAt b 0, fld b 4 4)

/-- The fixed part of a CLAIM section, as it stands. -/
def claimFields (b : List Byte) : ClaimSec :=
  { gangMember := byteAt b 1 == 1, gangModuleId := byteAt b 4, gangSize := byteAt b 6, bankMask := fld b 8 4
    lodeMask := fld b 12 2, arrayFloor := fld b 14 2, seamMask := fld b 16 8, aditMask := fld b 24 8
    crusher := byteAt b 32, selector := byteAt b 33, timber := byteAt b 34, packer := byteAt b 35, assay := byteAt b 36
    gather := byteAt b 37, face := byteAt b 38, cage := byteAt b 39, haulage := byteAt b 40, staging := byteAt b 41
    rowCache := byteAt b 42, subRings := fld b 44 2, cplRings := fld b 46 2, slotFirst := fld b 48 2
    slotBlocks := fld b 50 2, adapterFirst := fld b 52 2, adapterCount := fld b 54 2, tenantMap := slice b 64 512
    raw := b.take 640 }

/-- A CLAIM section of claim `c`, with its pool records. -/
def parseClaim (c : Nat) (b : List Byte) : Chk (ClaimSec × AMap Nat) := do
  need (decide (640 ≤ b.length)) cdTable
  let x := claimFields b
  need (zeroAt b 7 1 && zeroAt b 43 1 && zeroAt b 56 8 && zeroAt b 576 64 && decide (byteAt b 1 < 2)
    && decide (x.gangModuleId < 32) && byteAt b 5 == 0 && decide (x.bankMask < 2 ^ 17) && decide (x.lodeMask < 2 ^ 12)
    && decide (x.aditMask < 2 ^ 48) && decide (x.packer < 16) && decide (x.assay < 16)) cdReserved
  need (byteAt b 0 == c) cdTable
  let n := fld b 2 2
  need (within 1 16 n) cdLimit
  need (b.length == 640 + 16 * n) cdTable
  let ps := records b 640 16 n
  need (ps.all (fun p => zeroAt p 1 3 && zeroAt p 8 8)) cdReserved
  need (ps.all (fun p => [1, 2, 3, 4, 5, 0x10].contains (byteAt p 0))) cdLimit
  need (if x.gangMember then within 1 32 x.gangSize else x.gangModuleId == 0 && x.gangSize == 1) cdLimit
  need (x.slotFirst % 1024 == 0 && decide (x.slotFirst + 1024 * x.slotBlocks ≤ 65536) && decide (x.slotBlocks ≤ 64)
    && decide (x.adapterFirst + x.adapterCount ≤ 16384) && decide (x.rowCache ≤ 16) && decide (x.subRings ≤ 256)
    && decide (x.cplRings ≤ 256)) cdLimit
  pure (x, ps.map poolRec)

/-! ### ROSTER (R362) -/

/-- A table of a ROSTER section, from its descriptor. -/
def parseTable (b d : List Byte) : Chk RosterTable := do
  need (decide (byteAt d 0 < 16) && zeroAt d 1 1 && zeroAt d 6 2 && zeroAt d 12 4) cdReserved
  let n := fld d 2 2
  let o := fld d 8 4
  need (decide (byteAt d 0 ≤ 10) && within 1 256 n && within 1 4096 (fld d 4 2) && o % 4 == 0
    && decide (o + 4 * n ≤ b.length)) cdLimit
  let es := (records b o 4 n).map (fun e => fld e 0 4)
  need (es.all (fun e => bits e 7 5 == 0 && bits e 31 24 == 0)) cdReserved
  need (es.all (fun e => decide (bits e 4 0 ≤ 18) && bits e 23 8 != 0)) cdLimit
  pure { engine := byteAt d 0, cmdUnits := fld d 4 2, entries := es.map (fun e => (bits e 4 0, bits e 23 8)) }

/-- A ROSTER section. Its tables' places are its own fields, so no length follows from its layout (DEDUCED, log 30). -/
def parseRoster (b : List Byte) : Chk RosterSec := do
  need (decide (2112 ≤ b.length)) cdTable
  need (zeroAt b 2 62) cdReserved
  let n := byteAt b 0
  need (within 1 11 n && within 1 64 (byteAt b 1)) cdLimit
  need (decide (2112 + 16 * n ≤ b.length)) cdTable
  let ts ← (records b 2112 16 n).mapM (parseTable b)
  pure { hoistShare := byteAt b 1, tenantClass := slice b 64 2048, tables := ts }

/-! ### RECIPE (R102, R103) -/

/-- A step record. -/
def parseStep (b : List Byte) : StepRec :=
  { typ := byteAt b 0, dep0 := ref8 (byteAt b 2), dep1 := ref8 (byteAt b 3)
    words := (List.range 7).map (fun k => fld b (4 + 4 * k) 4) }

/-- A RECIPE section; its references and its steps' rules are checked with the claim's other sections. -/
def parseRecipe (b : List Byte) : Chk RecipeSec := do
  need (decide (64 ≤ b.length)) cdTable
  need (decide (byteAt b 1 < 2) && zeroAt b 14 2 && zeroAt b 32 32) cdReserved
  let n := byteAt b 0
  need (within 1 64 n) cdLimit
  need (b.length == 64 + 32 * n) cdTable
  let ss := records b 64 32 n
  need (ss.all (fun s => zeroAt s 1 1)) cdReserved
  pure
    { streams := byteAt b 1 == 1, encVocab := ref8 (byteAt b 2), genVocab := ref8 (byteAt b 3)
      genModel := ref8 (byteAt b 4), draftModel := ref8 (byteAt b 5), encModel := ref8 (byteAt b 6)
      rerankModel := ref8 (byteAt b 7), pit := ref16 (fld b 8 2), ledger := ref8 (byteAt b 10)
      grammar := ref8 (byteAt b 11), template := ref16 (fld b 12 2), policeCost := fld b 16 4
      maxNewTokens := fld b 20 4, maxInputTokens := fld b 24 4, filterBudget := fld b 28 4, steps := ss.map parseStep }

/-! ### VOCAB, MERGES, CLASSES (R118 to R124) -/

/-- A token table entry, with its string from the string area. -/
def parseTok (area : List Byte) (w : Nat) : TokEnt :=
  { off := bits w 23 0, str := slice area (bits w 23 0) (bits w 31 24), rank := bits w 49 32, special := w.testBit 50, render := w.testBit 51 }

/-- A stop set of 1,088 bytes. -/
def parseStops (b : List Byte) : Chk (List (List Byte)) := do
  let n := byteAt b 0
  need (zeroAt b 1 63) cdReserved
  need (decide (n ≤ 16)) cdLimit
  let slots := records b 64 64 16
  need ((List.range 16).all (fun j =>
    let s := slots.getD j []
    if j < n then zeroAt s (1 + byteAt s 0) 64 else zeroAt s 0 64)) cdReserved
  let used := slots.take n
  need (used.all (fun s => within 1 63 (byteAt s 0) && utf8Ok (slice s 1 (byteAt s 0)))) cdLimit
  pure (used.map (fun s => slice s 1 (byteAt s 0)))

/-- A VOCAB section. Byte tokens and EOS are tokens of the table, strings lie in the string area (DEDUCED, log 30). -/
def parseVocab (b : List Byte) : Chk VocabSec := do
  need (decide (64 ≤ b.length)) cdTable
  let n := fld b 0 4
  let sb := fld b 4 4
  let base := fld b 8 4
  let eos := fld b 12 4
  let k := fld b 16 2
  need (zeroAt b 18 46 && tokOk base && tokOk eos) cdReserved
  need (within 256 262144 n && decide (sb ≤ 16777216) && decide (k ≤ 1024) && decide (base + 256 ≤ n)
    && decide (eos < n)) cdLimit
  let so := 64 + 8 * n
  let sl := roundUp sb 64
  need (b.length == so + sl + 1088 * k) cdTable
  let ws := (records b 64 8 n).map leNat
  need (ws.all (fun w => bits w 63 52 == 0) && zeroAt b (so + sb) (sl - sb)) cdReserved
  need (ws.all (fun w => bits w 31 24 != 0 && decide (bits w 23 0 + bits w 31 24 ≤ sb)
    && (!w.testBit 50 || bits w 49 32 == 0x3FFFF) && (w.testBit 50 || !w.testBit 51))) cdLimit
  need (((ws.drop base).take 256).all (fun w => bits w 49 32 == 0x3FFFF)) cdLimit
  let area := (b.drop so).take sb
  let sets ← (records b (so + sl) 1088 k).mapM parseStops
  pure { strBytes := sb, byteBase := base, eos := eos, toks := ws.map (parseTok area), stopsets := sets }

/-- A MERGES section; R124 is checked with its VOCAB. -/
def parseMerges (b : List Byte) : Chk (MergesSec) := do
  need (decide (64 ≤ b.length)) cdTable
  let n := fld b 0 4
  let k := fld b 4 4
  need (zeroAt b 8 56) cdReserved
  need (isPow2 k && within 512 524288 k && decide (4 * n ≤ 3 * k)) cdLimit
  need (b.length == 64 + 8 * k) cdTable
  let ws := (records b 64 8 k).map leNat
  need (ws.all (fun w => bits w 62 54 == 0)) cdReserved
  let es := ((List.range k).zip ws).filter (fun p => p.2.testBit 63)
  need (es.length == n) cdLimit
  pure { slots := k, table := es.map (fun p => (p.1, { left := bits p.2 17 0, right := bits p.2 35 18, result := bits p.2 53 36 })) }

/-- R124: the rules every valid merge entry keeps. -/
def mergesOk (v : VocabSec) (m : MergesSec) : Bool :=
  let rs := m.table.map (fun p => p.2.result)
  (dedup rs).length == rs.length &&
    m.table.all (fun p => match v.toks[p.2.left]?, v.toks[p.2.right]?, v.toks[p.2.result]? with
      | some l, some r, some x => x.str == l.str ++ r.str && x.rank != 0x3FFFF
          && mergeLookup m p.2.left p.2.right == some p.2.result
      | _, _, _ => false)

/-- A CLASSES section. -/
def parseClasses (b : List Byte) : Chk ClassesSec := do
  need (decide (9024 ≤ b.length)) cdTable
  need (zeroAt b 1 1 && zeroAt b 6 58) cdReserved
  let n := byteAt b 0
  let k := fld b 2 2
  need (within 1 16 n && within 1 4352 k && within 4 256 (fld b 4 2)) cdLimit
  need (b.length == 9024 + 128 * k) cdTable
  let mx := (slice b 64 256).map (·.toNat)
  let idx := (records b 320 2 4352).map leNat
  let ps := slice b 9024 (128 * k)
  need (mx.all (fun x => decide (x ≤ 1)) && idx.all (fun p => decide (p < k))
    && ps.all (fun x => decide (x.toNat % 16 < n) && decide (x.toNat / 16 < n))) cdLimit
  pure { classCount := n, maxPiece := fld b 4 2, matrix := mx, pageIndex := idx, pages := ps }

/-! ### GRAMMAR (R272 to R274) -/

/-- The length of a GRAMMAR section. -/
def grammarLen (entries states edges : Nat) : Nat := 64 + roundUp (2 * entries) 64 + roundUp (8 * states) 64 + 8 * edges

/-- The bytes a grammar takes in SRAM: its section (R272, R279). -/
def grammarBytes (g : GrammarSec) : Nat := grammarLen g.classMap.length g.states.length g.edges.length

/-- Whether the edges of a state are sorted by CLASS and TOP, and no two of one class can match one stack. -/
def edgesOk (es : List GEdge) : Bool :=
  match es with
  | a :: b :: r => (decide (a.cls < b.cls) || (a.cls == b.cls && decide (a.top < b.top) && b.top != 0xFF)) && edgesOk (b :: r)
  | _ => true

/-- A GRAMMAR section compiled against a vocabulary. -/
def parseGrammar (vocab : Nat → Option VocabSec) (b : List Byte) : Chk GrammarSec := do
  need (decide (64 ≤ b.length)) cdTable
  need (zeroAt b 1 1 && zeroAt b 11 1 && zeroAt b 16 48) cdReserved
  let ns := fld b 2 2
  let ne := fld b 4 4
  let nc := fld b 8 2
  let sy := byteAt b 10
  need (decide (1 ≤ ns) && within 1 1048576 ne && within 2 4096 nc && within 1 253 sy && within 1 1024 (fld b 12 2)
    && decide (fld b 14 2 < ns)) cdLimit
  match vocab (byteAt b 0) with
  | none => .error cdReference
  | some v =>
    let n := v.toks.length
    need (b.length == grammarLen n ns ne) cdTable
    let so := 64 + roundUp (2 * n) 64
    let eo := so + roundUp (8 * ns) 64
    let cm := (records b 64 2 n).map leNat
    let sw := (records b so 8 ns).map leNat
    let ew := (records b eo 8 ne).map leNat
    need (cm.all (fun x => decide (x < 4096)) && zeroAt b (64 + 2 * n) (so - 64 - 2 * n) && zeroAt b (so + 8 * ns) (eo - so - 8 * ns)
      && sw.all (fun w => bits w 63 49 == 0) && ew.all (fun w => bits w 31 30 == 0 && bits w 63 48 == 0)) cdReserved
    let sts := sw.map (fun w => ({ first := bits w 31 0, count := bits w 47 32, accept := w.testBit 48 } : GState))
    let eds := ew.map (fun w =>
      ({ cls := bits w 11 0, top := bits w 19 12, op := bits w 21 20, symbol := bits w 29 22, next := bits w 47 32 } : GEdge))
    need (cm.all (fun x => decide (x < nc)) && cm.getD v.eos 0 == 0
      && sts.all (fun q => decide (q.first + q.count ≤ ne))
      && eds.all (fun e => within 1 (nc - 1) e.cls && (decide (e.top < sy) || e.top == 0xFE || e.top == 0xFF)
        && decide (e.symbol < sy) && decide (e.next < ns))) cdLimit
    need (sts.all (fun q => edgesOk ((eds.drop q.first).take q.count))) cdLimit
    pure { vocab := byteAt b 0, classCount := nc, symbols := sy, maxDepth := fld b 12 2, start := fld b 14 2,
           classMap := cm, states := sts, edges := eds }

/-! ### TEMPLATE (R216 to R218) -/

/-- An item record. -/
def parseItem (b : List Byte) : TItem :=
  { kind := byteAt b 0, scopePrefix := byteAt b 1 % 2 == 1, off := fld b 4 4, count := fld b 8 2, closeCount := fld b 10 2 }

/-- A TEMPLATE section of number `no`. -/
def parseTemplate (vocab : Nat → Option VocabSec) (no : Nat) (b : List Byte) : Chk TemplateSec := do
  need (decide (64 ≤ b.length)) cdTable
  need (zeroAt b 8 56) cdReserved
  need (fld b 0 2 == no) cdTable
  let n := byteAt b 3
  let k := fld b 4 4
  need (within 1 64 n && decide (k ≤ 65536)) cdLimit
  need (b.length == 64 + 16 * n + 4 * k) cdTable
  let rs := records b 64 16 n
  let ts := (records b (64 + 16 * n) 4 k).map leNat
  need (rs.all (fun r => decide (byteAt r 1 < 2) && zeroAt r 2 2 && zeroAt r 12 4) && ts.all tokOk) cdReserved
  let its := rs.map parseItem
  let inPrompt := fun (kd : Nat) => ((its.filter (fun i => i.kind == kd && !i.scopePrefix)).length)
  need (its.all (fun i => within 1 4 i.kind && (i.kind == 3 || i.closeCount == 0) && (!i.scopePrefix || i.kind == 1)
      && decide (i.off + i.count + i.closeCount ≤ k))
    && inPrompt 4 == 1 && decide (inPrompt 2 ≤ 1) && decide (inPrompt 3 ≤ 1)) cdLimit
  match vocab (byteAt b 2) with
  | none => .error cdReference
  | some v =>
    need (ts.all (fun t => decide (t < v.toks.length))) cdLimit
    pure { vocab := byteAt b 2, items := its, tokens := ts }

/-! ### PIT (R136 to R138) -/

/-- A region: first page and count. -/
def parseRegion (b : List Byte) (o : Nat) : Region := ⟨fld b o 8, fld b (o + 8) 8⟩

/-- A channel table entry. -/
def parseChan (b : List Byte) : PitChan :=
  { node := parseRegion b 0, rep := parseRegion b 16, text := parseRegion b 32, post := parseRegion b 48 }

/-- A PIT section of ID `no`. -/
def parsePit (no : Nat) (b : List Byte) : Chk PitSec := do
  need (b.length == 4224) cdTable
  need (zeroAt b 33 7 && zeroAt b 60 68) cdReserved
  need (fld b 0 2 == no) cdTable
  let dim := fld b 4 2
  let deg := byteAt b 6
  let slots := byteAt b 7
  let fmt := byteAt b 2
  let mask := fld b 16 8
  let cs := records b 128 64 64
  need (decide (fmt ≤ 2) && decide (byteAt b 3 ≤ 2) && within 64 4096 dim && dim % 64 == 0 && decide (8 ≤ deg)
    && [1, 2, 4].contains slots && decide (byteAt b 8 ≤ 6) && within 4 32 (byteAt b 9) && within 1 32 (byteAt b 14)
    && decide (byteAt b 15 < byteAt b 14) && within 1 1024 (fld b 28 2) && within 1 16 (byteAt b 30)
    && within 1 8 (byteAt b 31) && decide (byteAt b 32 < 64)
    && decide (64 + (if fmt = 2 then 2 * dim else dim) + 8 * deg ≤ 2048 * slots)
    && (List.range 64).all (fun c => bit mask c || zeroAt (cs.getD c []) 0 64)) cdLimit
  pure
    { vecFormat := fmt, metric := byteAt b 3, dim := dim, degree := deg, recordSlots := slots, levels := byteAt b 8
      upperDegree := byteAt b 9, runVocab0 := ref8 (byteAt b 10), runVocab1 := ref8 (byteAt b 11)
      labelCount := fld b 12 2, shards := byteAt b 14, shardIndex := byteAt b 15, seamMask := mask
      flatThreshold := fld b 24 4, defaultBeam := fld b 28 2, defaultStrands := byteAt b 30, expandWidth := byteAt b 31
      upperChannel := byteAt b 32, upperFirst := fld b 40 8, upperBytes := fld b 48 8, shardModules := fld b 56 4
      chans := cs.map parseChan }

/-! ### LEDGER (R188, R209) -/

/-- A formula slot. -/
def parseSlot (b : List Byte) : FSlot :=
  { source := byteAt b 0, transform := byteAt b 1, e := fld b 2 2, w := ref16 (fld b 4 2), f := fld b 6 2
    weight := BitVec.ofNat 32 (fld b 8 4), lo := BitVec.ofNat 16 (fld b 12 2), hi := BitVec.ofNat 16 (fld b 14 2) }

/-- A LEDGER section of ID `no`. -/
def parseLedger (no : Nat) (b : List Byte) : Chk LedgerSec := do
  need (decide (1152 ≤ b.length)) cdTable
  let rows := fld b 8 8
  let mask := fld b 64 8
  need (decide (byteAt b 2 < 4) && zeroAt b 18 46 && zeroAt b 72 56 && decide (rows < 2 ^ 40)) cdReserved
  need (byteAt b 0 == no) cdTable
  let n := byteAt b 3
  let key := byteAt b 1
  let rb := fld b 16 2
  let ars := records b 128 16 64
  need (decide (key ≤ 3) && decide (n ≤ 16) && (key == 1 || fld b 4 2 == 0xFFFF) && (key == 2 || byteAt b 6 == 0xFF)
    && decide (byteAt b 7 ≤ 15) && decide (1 ≤ rows) && isPow2 rb && within 8 4096 rb) cdLimit
  need (b.length == 1152 + 256 * n) cdTable
  let fs := (records b 1152 256 n).map (fun f => (records f 0 16 16).map parseSlot)
  need (fs.all (fun f => f.all (fun x => decide (x.source ≤ 4) && decide (x.transform ≤ 3)))
    && (List.range 64).all (fun c => bit mask c || zeroAt (ars.getD c []) 0 16)) cdLimit
  pure
    { key := key, resident := bit (byteAt b 2) 0, scatter := bit (byteAt b 2) 1
      pit := if key = 1 then some (fld b 4 2) else none, vocab := ref8 (byteAt b 6), hotThreshold := byteAt b 7
      maxRows := rows, maxRowBytes := rb, seamMask := mask, areas := ars.map (fun a => parseRegion a 0), formulas := fs }

/-! ### MODEL (R232) -/

/-- A MODEL section of number `no`. -/
def parseModel (no : Nat) (b : List Byte) : Chk ModelSec := do
  need (b.length == 128) cdTable
  let fr := fun (o : Nat) => fld b o 4
  let frOk := fun (o : Nat) => fr o == 0xFFFFFF || tokOk (fr o)
  need (frOk 44 && frOk 48 && frOk 52) cdReserved
  need (byteAt b 1 == no) cdTable
  let kind := byteAt b 0
  let d := fld b 6 2
  let f := fld b 8 2
  let q := byteAt b 10
  let kv := byteAt b 11
  let hd := fld b 12 2
  let line := kv * hd * (byteAt b 14 + 1)
  need (decide (kind ≤ 3) && decide (byteAt b 3 ≤ 4) && within 1 256 (fld b 4 2) && within 256 16384 d && d % 128 == 0
    && within 256 65535 f && f % 128 == 0 && within 1 128 q && within 1 q kv && q % max 1 kv == 0
    && [32, 64, 128, 256].contains hd && decide (byteAt b 14 ≤ 1) && (decide (kind ≤ 1) || byteAt b 15 == 0xFF)
    && within 1 2097152 (fld b 16 4) && within 1 4096 (fld b 20 2) && within 1 4096 (fld b 22 2)
    && within 64 8192 (fld b 24 2) && decide (byteAt b 26 ≤ 8) && decide (byteAt b 27 ≤ 128)
    && (if kind = 2 then decide (byteAt b 29 ≤ 1) else byteAt b 29 == 0 && fld b 30 2 == 0)
    && isPow2 line && decide (line ≤ 32768) && (kind == 0 || byteAt b 27 == 0)
    && (byteAt b 14 == 0 || fld b 40 4 == 0x3F800000)) cdLimit
  let frame := fun (o : Nat) => if kind = 3 && fr o != 0xFFFFFF then some (fr o) else none
  pure
    { kind := kind, vocab := byteAt b 2, weightFormat := byteAt b 3, layers := fld b 4 2, dModel := d, ffnDim := f
      qHeads := q, kvHeads := kv, headDim := hd, kvFormat := byteAt b 14, pair := ref8 (byteAt b 15)
      seqLimit := fld b 16 4, crossover := fld b 20 2, decodePass := fld b 22 2, prefillChunk := fld b 24 2
      draftLen := byteAt b 26, adapterMaxRank := byteAt b 27, embedLedger := byteAt b 28, pool := byteAt b 29
      outDim := fld b 30 2, ropeBase := BitVec.ofNat 32 (fld b 32 4), normEps := BitVec.ofNat 32 (fld b 36 4)
      kvScale := BitVec.ofNat 32 (fld b 40 4), frame0 := frame 44, frame1 := frame 48, frame2 := frame 52
      weightBytes := fld b 56 8, weightDigest := slice b 64 64 }

/-! ### SHAPER, GATES, WATCHNAMES (R371, R376, R442) -/

/-- A profile of a SHAPER section. -/
def parseProfile (b : List Byte) : Profile := ⟨fld b 0 4, fld b 4 4⟩

/-- A SHAPER section. -/
def parseShaper (b : List Byte) : Chk ShaperSec := do
  need (decide (64 ≤ b.length)) cdTable
  need (zeroAt b 6 58) cdReserved
  let k := byteAt b 4
  let n := byteAt b 5
  need (within 10 10000 (fld b 0 4) && within 1 64 k && decide (n ≤ 48)) cdLimit
  need (b.length == 4160 + 16 * k + 256 + 80 * n) cdTable
  let ps := records b 4160 16 k
  let ss := records b (4160 + 16 * k) 16 16
  let es := records b (4416 + 16 * k) 80 n
  need (ps.all (fun p => zeroAt p 8 8) && ss.all (fun p => zeroAt p 8 8) && es.all (fun e => zeroAt e 1 15)) cdReserved
  need (ps.all (fun p => within 1 (2 ^ 31) (fld p 4 4))) cdLimit
  let map := slice b 64 4096
  need (map.all (fun x => decide (x.toNat < k))) cdReference
  pure
    { refillUs := fld b 0 4, policerMap := map, police := ps.map parseProfile, stream := ss.map parseProfile
      egress := es.map (fun e => { link := byteAt e 0, classes := (List.range 8).map (fun j => parseProfile (slice e (16 + 8 * j) 8)) }) }

/-- The gate lists from a byte of a GATES section on, and the bytes left. -/
def parseLists (n : Nat) (b : List Byte) : Chk (List GateList × List Byte) :=
  match n with
  | 0 => .ok ([], b)
  | n + 1 => do
    need (decide (16 ≤ b.length)) cdTable
    need (zeroAt b 1 1 && zeroAt b 4 12) cdReserved
    let k := fld b 2 2
    need (within 1 64 k) cdLimit
    need (decide (16 + 8 * k ≤ b.length)) cdTable
    let ws := (records b 16 8 k).map leNat
    need (ws.all (fun w => bits w 63 40 == 0)) cdReserved
    let wins := ws.map (fun w => (bits w 31 0, bits w 39 32))
    let cycle := wins.foldl (fun a w => a + w.1) 0
    need (wins.all (fun w => decide (100 ≤ w.1)) && within 1000 10000000 cycle
      && (List.range 8).all (fun j => wins.any (fun w => bit w.2 j && decide (4608 ≤ 100 * w.1)))) cdLimit
    let (rest, tail) ← parseLists n (b.drop (16 + 8 * k))
    pure ({ link := byteAt b 0, windows := wins } :: rest, tail)

/-- A GATES section. -/
def parseGates (b : List Byte) : Chk (List GateList) := do
  need (decide (64 ≤ b.length)) cdTable
  need (zeroAt b 1 63) cdReserved
  need (within 1 48 (byteAt b 0)) cdLimit
  let (ls, tail) ← parseLists (byteAt b 0) (b.drop 64)
  need tail.isEmpty cdTable
  pure ls

/-- Whether bytes are an ASCII name padded with zeros (R442). -/
def nameOk (n : List Byte) : Bool :=
  let t := n.takeWhile (· != 0)
  t.all (fun b => decide (b.toNat < 128)) && (n.drop t.length).all (· == 0)

/-- A WATCHNAMES section. -/
def parseWatch (b : List Byte) : Chk (List WatchName) := do
  need (decide (64 ≤ b.length)) cdTable
  need (zeroAt b 2 62) cdReserved
  let n := fld b 0 2
  need (within 1 1024 n) cdLimit
  need (b.length == 64 + 32 * n) cdTable
  let rs := records b 64 32 n
  need (rs.all (fun r => zeroAt r 19 1 && zeroAt r 22 10)) cdReserved
  need (rs.all (fun r => nameOk (r.take 16) && within 1 7 (byteAt r 18)
    && (byteAt r 18 == 4 || byteAt r 18 == 5 || fld r 20 2 == 0))) cdLimit
  pure (rs.map (fun r => { name := r.take 16, recipe := byteAt r 16, stepNo := byteAt r 17, point := byteAt r 18, layer := fld r 20 2 }))

/-! ### POWER_PLAN (R404, R405) -/

/-- The maximum power of the ordering code in W (R4). -/
def maxPower : Nat := if Config.orderH then 2600 else 2500

/-- The plan of an image that carries none (R405). -/
def defaultPlan : PowerPlan :=
  { capW := maxPower, passMs := 100, hotC := 95, domains := List.replicate 80 ⟨600, 850, 720⟩, spares := [] }

/-- A POWER_PLAN section; its spares are checked with the claims. -/
def parsePlan (b : List Byte) : Chk PowerPlan := do
  need (decide (704 ≤ b.length)) cdTable
  need (zeroAt b 6 58) cdReserved
  let n := byteAt b 5
  need (within 1000 maxPower (fld b 0 2) && within 10 10000 (fld b 2 2) && within 70 100 (byteAt b 4) && decide (n ≤ 64)) cdLimit
  need (b.length == 704 + 4 * n) cdTable
  let ds := records b 64 8 80
  let ss := records b 704 4 n
  let timed := fun (d : Nat) => !within 45 58 d
  need ((List.range 80).all (fun d => !timed d || zeroAt (ds.getD d []) 6 2)
    && ss.all (fun s => zeroAt s 3 1 && decide (byteAt s 0 < 4))) cdReserved
  let ps := ds.map (fun d => ({ vMin := fld d 0 2, vMax := fld d 2 2, vNom := fld d 4 2 } : DomPlan))
  need ((List.range 80).all (fun d => !timed d || (match ps[d]? with
      | some p => decide (600 ≤ p.vMin) && decide (p.vMin ≤ p.vNom) && decide (p.vNom ≤ p.vMax) && decide (p.vMax ≤ 850)
      | none => true))
    && ss.all (fun s => decide (byteAt s 1 ≤ 2) || within 4 0xD (byteAt s 1))) cdLimit
  pure { capW := fld b 0 2, passMs := fld b 2 2, hotC := byteAt b 4, domains := ps
         spares := ss.map (fun s => { claim := byteAt s 0, cls := byteAt s 1, idx := byteAt s 2 }) }

end Sys2Proof.Machine
end

