-- ==== Sys2Proof/Machine/ImageCfg.lean ====
section
/-! DEFINITION. An image's section table, and the configuration that its sections make, with the checks of sections
against each other and against the claims (02 R33 to R42, R47 to R52, R477, and the load rules of the chapters). -/

namespace Sys2Proof.Machine

/-! ### The section table (R33, R34, R36, R37, R57, R477) -/

/-- A section table entry: TYPE, ADJUSTABLE, REMOVE, whether it is skipped, CLAIM, INSTANCE and its bytes. -/
structure Entry where
  typ : Nat
  adj : Bool
  rm : Bool
  skip : Bool
  claim : Nat
  inst : Nat
  off : Nat
  len : Nat
  body : List Byte
  /-- the ADJ_SEQ at whose commit the section comes (R51, R279) -/
  ver : Nat := 0
deriving DecidableEq, Repr

/-- Whether a TYPE is adjustable (R36). -/
def adjustableType (t : Nat) : Bool := [3, 7, 8, 0xC, 0xD, 0xE, 0xF].contains t

/-- The highest INSTANCE of a TYPE (R36). -/
def maxInst (t : Nat) : Nat :=
  if t = 3 then 255 else if 4 ≤ t && t ≤ 6 then 7 else if t = 7 then 63 else if t = 8 then 1023
  else if t = 9 then 0xFFFF else if t = 0xA then 63 else if t = 0xB then 15 else 0

/-- One entry of the table of an image of a KIND and header CLAIM. The checks of R33, R37 and R477 bind a skipped entry too;
only its INSTANCE, its length and its contents are not checked (R34, R57). -/
def parseEntry (img : List Byte) (kind hc : Nat) (b : List Byte) : Chk Entry := do
  let fl := byteAt b 1
  let c := byteAt b 2
  let t := byteAt b 0
  let e : Entry :=
    { typ := t, adj := bit fl 0, rm := bit fl 2, skip := !(within 1 0xF t && byteAt b 3 == 1), claim := c, inst := fld b 4 4
      off := fld b 8 8, len := fld b 16 8, body := (img.drop (fld b 8 8)).take (fld b 16 8) }
  need (decide (fl < 8) && decide (c < 16) && zeroAt b 24 8) cdReserved
  need (!e.skip || bit fl 1) cdUnknown
  need (if t = 0xF then c == 0xF else decide (c < 4) || (!within 1 0xE t && c == 0xF)) cdTable
  need (kind == 2 || !e.adj || !within 1 0xF t || adjustableType t) cdTable
  need (!e.rm || (kind == 2 && e.len == 0)) cdTable
  need (e.skip || decide (e.inst ≤ maxInst t)) cdLimit
  need (kind == 0 || c == hc) cdTable
  need (kind != 1 || (t != 1 && t != 0xF)) cdTable
  need (kind != 2 || hc != 0xF || t == 0xF) cdTable
  pure e

/-- Whether spans in ascending order of their starts lie from `pos` to `hi` without overlap, with zeros between them. The OFFSET
of a REMOVE entry, which has LENGTH 0 and no section, is held to the same bounds (DESIGN CHOICE, log 104: R34 speaks of
sections). -/
def spansOk (img : List Byte) (pos hi : Nat) (l : List (Nat × Nat)) : Bool :=
  match l with
  | [] => decide (pos ≤ hi) && zeroAt img pos (hi - pos)
  | (o, n) :: r => decide (pos ≤ o) && zeroAt img pos (o - pos) && spansOk img (o + n) hi r

/-- The section table of an image (R31 to R34): its entries, no two of one TYPE, CLAIM and INSTANCE, in their places. -/
def readEntries (kind hc : Nat) (header img : List Byte) : Chk (List Entry) := do
  let n := fld header 10 2
  need (within 1 1024 n && fld header 12 4 == 64) cdLimit
  let es ← (records img 64 32 n).mapM (parseEntry img kind hc)
  let ids := es.map (fun e => (e.typ, e.claim, e.inst))
  need ((dedup ids).length == ids.length) cdTable
  need (es.all (fun e => e.off % 128 == 0)) cdTable
  let spans := sortBy (fun a b => decide (a.1 < b.1) || (a.1 == b.1 && decide (a.2 < b.2))) (es.map (fun e => (e.off, e.len)))
  need (spansOk img (64 + 32 * n) (img.length - 132) spans) cdTable
  need (kind != 2 || hc != 0xF || es.length == 1) cdTable
  need (kind != 0 || es.all (fun e => !within 1 0xE e.typ || e.typ == 1 || es.any (fun x => x.typ == 1 && x.claim == e.claim)))
    cdReference
  pure (es.filter (fun e => !e.skip))

/-! ### Sections into a claim's configuration -/

/-- A claim's configuration with no section but its CLAIM section. -/
def bareCfg (own : ClaimSec) (pools : AMap Nat) : ClaimCfg :=
  { own := own, pools := pools, roster := none, recipes := [], vocabs := [], merges := [], classes := [], grammars := []
    templates := [], pits := [], ledgers := [], models := [], shaper := none, gates := none, watch := none }

/-- A vocabulary of a configuration. -/
def cfgVocab (g : ClaimCfg) (v : Nat) : Option VocabSec := secOf g.vocabs v

/-- The order in which sections are read: each after those its own checks need. -/
def typeOrder : List Nat := [4, 5, 6, 9, 0xA, 0xB, 8, 7, 2, 0xC, 3, 0xD, 0xE]

/-- A section as an instance in force. -/
def asInst {α : Type} (e : Entry) (x : α) : Inst α := ⟨e.adj, e.len, x, e.ver⟩

/-- A section set in a configuration. -/
def putSection (g : ClaimCfg) (e : Entry) : Chk ClaimCfg :=
  let v := cfgVocab g
  match e.typ with
  | 2 => (parseRoster e.body).map (fun x => { g with roster := some (asInst e x) })
  | 3 => (parseRecipe e.body).map (fun x => { g with recipes := kset g.recipes e.inst (asInst e x) })
  | 4 => (parseVocab e.body).map (fun x => { g with vocabs := kset g.vocabs e.inst (asInst e x) })
  | 5 => (parseMerges e.body).map (fun x => { g with merges := kset g.merges e.inst (asInst e x) })
  | 6 => (parseClasses e.body).map (fun x => { g with classes := kset g.classes e.inst (asInst e x) })
  | 7 => (parseGrammar v e.body).map (fun x => { g with grammars := kset g.grammars e.inst (asInst e x) })
  | 8 => (parseTemplate v e.inst e.body).map (fun x => { g with templates := kset g.templates e.inst (asInst e x) })
  | 9 => (parsePit e.inst e.body).map (fun x => { g with pits := kset g.pits e.inst (asInst e x) })
  | 0xA => (parseLedger e.inst e.body).map (fun x => { g with ledgers := kset g.ledgers e.inst (asInst e x) })
  | 0xB => (parseModel e.inst e.body).map (fun x => { g with models := kset g.models e.inst (asInst e x) })
  | 0xC => (parseShaper e.body).map (fun x => { g with shaper := some (asInst e x) })
  | 0xD => (parseGates e.body).map (fun x => { g with gates := some (asInst e x) })
  | 0xE => (parseWatch e.body).map (fun x => { g with watch := some (asInst e x) })
  | _ => .ok g

/-- A section taken out of a configuration. -/
def dropSection (g : ClaimCfg) (e : Entry) : ClaimCfg :=
  match e.typ with
  | 3 => { g with recipes := kdel g.recipes e.inst }
  | 7 => { g with grammars := kdel g.grammars e.inst }
  | 8 => { g with templates := kdel g.templates e.inst }
  | 0xC => { g with shaper := none }
  | 0xD => { g with gates := none }
  | 0xE => { g with watch := none }
  | _ => g

/-- The sections of a claim put into its configuration, in the order of reading; a removed one leaves it. -/
def putSections (g : ClaimCfg) (es : List Entry) : Chk ClaimCfg :=
  let ordered := (typeOrder.map (fun t => es.filter (fun e => e.typ == t))).flatten
  ordered.foldlM (fun g e => if e.rm then .ok (dropSection g e) else putSection g e) g

/-! ### Checks within a claim -/

/-- The masks and ranges a claim owns: whether two claims overlap (R42). -/
def claimsMeet (a b : ClaimSec) : Bool :=
  let ms := fun (x : ClaimSec) => [x.bankMask, x.lodeMask, x.seamMask, x.aditMask, x.crusher, x.selector, x.timber, x.packer,
    x.assay, x.gather, x.face, x.cage, x.haulage, x.staging]
  let range := fun (f n f' n' : Nat) => n != 0 && n' != 0 && decide (f < f' + n') && decide (f' < f + n)
  ((ms a).zip (ms b)).any (fun p => p.1 &&& p.2 != 0)
    || range a.slotFirst (1024 * a.slotBlocks) b.slotFirst (1024 * b.slotBlocks)
    || range a.adapterFirst a.adapterCount b.adapterFirst b.adapterCount
    || (a.tenantMap.zip b.tenantMap).any (fun p => p.1 &&& p.2 != 0)

/-- The tenants a TENANT_MAP admits. -/
def tenantsOf (x : ClaimSec) : List Nat := (List.range 4096).filter (fun t => bit (byteAt x.tenantMap (t / 8)) (t % 8))

/-- The active arrays of a bank: those neither retired nor spare (R284, R408). -/
def activeArrays (p : PowerState) (b : Nat) : Nat :=
  ((List.range 8).filter (fun k => !p.retired.contains ⟨0, 8 * b + k⟩ && kget p.spares b != some (8 * b + k))).length

/-- R42 for one claim, with R370 and R382. -/
def claimRules (p : PowerState) (x : ClaimSec) (pools : AMap Nat) : Chk Unit := do
  need (decide (1 ≤ x.slotBlocks) && decide (1 ≤ x.subRings) && decide (1 ≤ x.cplRings)) cdClaim
  need ((dedup (kkeys pools)).length == pools.length) cdClaim
  let lode := (pools.filter (fun q => q.1 != 0x10)).foldl (fun a q => a + q.2) 0
  need (decide (lode ≤ lodeAvail * popcount 12 x.lodeMask)) cdClaim
  need (decide (x.arrayFloor ≤ ((bitList 17 x.bankMask).map (activeArrays p)).foldl (· + ·) 0)) cdClaim
  let gs := popcount 8 x.haulage
  need (decide ((tenantsOf x).length ≤ 512 * gs) && decide (popcount 48 x.aditMask ≤ 6 * gs)) cdLimit
  need (if x.gangMember then x.gangSize == 1 || x.aditMask != 0 else x.aditMask == 0) cdReference

/-- The regions of a PIT section, by Seam. -/
def pitRegions (p : PitSec) : List (Nat × Region) :=
  ((bitList 64 p.seamMask).map (fun c => match p.chans[c]? with
    | some e => [(c, e.node), (c, e.rep), (c, e.text), (c, e.post)]
    | none => [])).flatten ++ [(p.upperChannel, ⟨p.upperFirst, (p.upperBytes + 16383) / 16384⟩)]

/-- The extents of a LEDGER section, by Seam. -/
def ledgerRegions (l : LedgerSec) : List (Nat × Region) :=
  (bitList 64 l.seamMask).map (fun c => (c, l.areas.getD c ⟨0, 0⟩))

/-- Whether no two regions of one Seam overlap. -/
def regionsApart (l : List (Nat × Region)) : Bool :=
  match l with
  | [] => true
  | (c, a) :: r =>
    r.all (fun q => q.1 != c || a.pages == 0 || q.2.pages == 0 || decide (a.first + a.pages ≤ q.2.first)
      || decide (q.2.first + q.2.pages ≤ a.first)) && regionsApart r

/-- Bytes in whole 64 KiB pages. -/
def pagesFor (n : Nat) : Nat := (n + 65535) / 65536

/-- R137 for one pit, but its regions. -/
def pitRules (g : ClaimCfg) (p : PitSec) : Chk Unit := do
  need (p.seamMask &&& g.own.seamMask == p.seamMask && bit p.seamMask p.upperChannel) cdReference
  need ([p.runVocab0, p.runVocab1].all (fun v => (v.map (khas g.vocabs)).getD true)) cdReference
  need ((p.shards == 1 || g.own.gangMember) && popcount 32 p.shardModules == p.shards
    && bit p.shardModules g.own.gangModuleId) cdReference

/-- R190 for one ledger, but its extents and the pool. -/
def ledgerRules (g : ClaimCfg) (l : LedgerSec) : Chk Unit := do
  let m := popcount 64 l.seamMask
  need (l.seamMask != 0 && l.seamMask &&& g.own.seamMask == l.seamMask) cdReference
  need ((l.pit.map (khas g.pits)).getD true && (l.key != 2 || (l.vocab.map (khas g.vocabs)).getD false)) cdReference
  need (!l.scatter || l.resident) cdLimit
  need ((ledgerRegions l).all (fun r => decide (2 * ((ledgerH l + m - 1) / m) ≤ r.2.pages))) cdLimit

/-- The pages of the LEDGER pool that R190 counts. -/
def ledgerNeed (g : ClaimCfg) : Nat :=
  ((kvals g.ledgers).map (fun i => (if i.sec.resident then pagesFor (2 * i.sec.maxRows * i.sec.maxRowBytes) else 0)
      + pagesFor ((i.sec.maxRows + 7) / 8))).foldl (· + ·) 0
    + ((kvals g.pits).map (fun i => pagesFor i.sec.upperBytes)).foldl (· + ·) 0

/-- R233 for one model, but the pool. -/
def modelRules (g : ClaimCfg) (no : Nat) (m : ModelSec) : Chk Unit := do
  let pairOk := fun (k : Nat) => match m.pair.bind (fun p => (secOf g.models p).map (fun x => (p, x))) with
    | some (_, x) => x.kind == k && x.pair == some no && x.vocab == m.vocab
    | none => false
  need (khas g.vocabs m.vocab) cdReference
  need (if m.kind = 0 then m.pair.isNone || pairOk 1 else if m.kind = 1 then pairOk 0 else true) cdReference
  need (match secOf g.ledgers m.embedLedger with
    | some l => l.key == 2 && l.vocab == some m.vocab
    | none => false) cdReference

/-- R363, but the sum of HOIST_SHARE. -/
def rosterRules (g : ClaimCfg) (r : RosterSec) : Chk Unit := do
  let x := g.own
  let owned := [x.bankMask, x.lodeMask, x.seamMask, x.seamMask, x.crusher, x.selector, x.timber, x.packer, x.assay, x.gather, x.cage]
  let count := fun (k : Nat) => (r.tables.filter (fun t => t.engine == k)).length
  let has := fun (k c : Nat) => r.tables.all (fun t => t.engine != k || t.entries.any (fun e => e.1 == c))
  need ((List.range 11).all (fun k => count k == (if owned.getD k 0 != 0 then 1 else 0))) cdReference
  let classes := dedup ((tenantsOf x).map (fun t => byteAt r.tenantClass (t / 2) / (if t % 2 = 0 then 1 else 16) % 16))
  need (classes.all (fun c => r.tables.all (fun t => t.entries.any (fun e => e.1 == c)))) cdReference
  need ([2, 3, 9, 0xA].all (fun k => has k 16) && has 3 17 && [1, 3, 0xA].all (fun k => has k 18)) cdReference

/-- The units of R104 that a step of a type uses, as the claim's masks. -/
def stepMasks (x : ClaimSec) (t : Nat) : List Nat :=
  match t with
  | 1 => [x.crusher]
  | 2 => [x.bankMask]
  | 3 => [x.seamMask]
  | 4 => [x.gather]
  | 5 => [x.assay, x.selector]
  | 6 => [x.seamMask, x.bankMask, x.selector]
  | 7 => [x.packer]
  | 8 => [x.face, x.bankMask, x.lodeMask]
  | 9 => [x.face, x.selector, x.timber, x.crusher, x.haulage]
  | _ => []

/-- The references of a recipe (R39, R218, R233, R274), its units (R42) and its steps' rules. -/
def recipeRules (g : ClaimCfg) (q : RecipeSec) : Chk Unit := do
  let has := fun {α : Type} (m : AMap (Inst α)) (r : Option Nat) => (r.map (khas m)).getD true
  need (has g.vocabs q.encVocab && has g.vocabs q.genVocab && has g.models q.genModel && has g.models q.draftModel
    && has g.models q.encModel && has g.models q.rerankModel && has g.pits q.pit && has g.ledgers q.ledger
    && has g.grammars q.grammar && has g.templates q.template) cdReference
  let gen := q.genModel.bind (secOf g.models)
  need ((gen.map (fun m => m.kind == 0)).getD true) cdReference
  need (q.draftModel.isNone || (gen.bind (fun m => m.pair)) == q.draftModel) cdReference
  need (((q.template.bind (secOf g.templates)).map (fun t => some t.vocab == q.genVocab)).getD true) cdReference
  need (((q.grammar.bind (secOf g.grammars)).map (fun t => some t.vocab == q.genVocab)).getD true) cdReference
  need (q.steps.all (fun t => (stepMasks g.own t.typ).all (· != 0))) cdClaim
  match recipeLoadCode g q with
  | some code => .error code
  | none => pure ()

/-- R371 and R376 against the claim's links. -/
def linkRules (g : ClaimCfg) : Chk Unit := do
  let own := fun (l : Nat) => decide (l < 48) && bit g.own.aditMask l
  need (((g.shaper.map (fun i => i.sec.egress.all (fun e => own e.link)))).getD true) cdReference
  need (((g.gates.map (fun i => i.sec.all (fun e => own e.link)))).getD true) cdReference

/-- The step types that produce a POINT (R443). -/
def pointTypes (p : Nat) : List Nat :=
  match p with
  | 1 => [2]
  | 2 => [3, 4, 5, 6]
  | 3 => [7]
  | 4 => [8, 9]
  | 5 => [8, 9]
  | 6 => [9]
  | 7 => [9]
  | _ => []

/-- R443 for one name record. -/
def watchRule (g : ClaimCfg) (w : WatchName) : Bool :=
  match secOf g.recipes w.recipe with
  | none => false
  | some q => match q.steps[w.stepNo]? with
    | none => false
    | some t => (pointTypes w.point).contains t.typ &&
        (if w.point = 4 || w.point = 5 then
          ((q.genModel.bind (secOf g.models)).map (fun m => decide (w.layer < m.layers))).getD false
        else w.layer == 0)

/-- Every check of a claim's sections against each other. -/
def cfgRules (g : ClaimCfg) : Chk Unit := do
  need ((kkeys g.merges ++ kkeys g.classes).all (khas g.vocabs)) cdReference
  need (g.merges.all (fun p => match cfgVocab g p.1 with
    | some v => mergesOk v p.2.sec
    | none => true)) cdReference
  (kvals g.pits).forM (fun i => pitRules g i.sec)
  (kvals g.ledgers).forM (fun i => ledgerRules g i.sec)
  let rs := ((kvals g.pits).map (fun i => pitRegions i.sec)).flatten ++ ((kvals g.ledgers).map (fun i => ledgerRegions i.sec)).flatten
  need (rs.all (fun r => decide (r.2.first + r.2.pages ≤ lpnCount) || r.2.pages == 0) && regionsApart rs) cdFlash
  need (decide (ledgerNeed g ≤ kgetD g.pools 5 0)) cdLimit
  g.models.forM (fun p => modelRules g p.1 p.2.sec)
  need (decide (((kvals g.models).map (fun i => pagesFor i.sec.weightBytes)).foldl (· + ·) 0 ≤ kgetD g.pools 2 0)) cdLimit
  need ((kvals g.templates).all (fun i => khas g.vocabs i.sec.vocab) && (kvals g.grammars).all (fun i => khas g.vocabs i.sec.vocab)) cdReference
  match g.roster with
  | some i => rosterRules g i.sec
  | none => pure ()
  linkRules g
  (kvals g.recipes).forM (fun i => recipeRules g i.sec)
  need (((g.watch.map (fun i => i.sec.all (watchRule g)))).getD true) cdReference

/-! ### Checks across claims -/

/-- The configurations of all claims. -/
def cfgsOf (cs : List (Option ClaimCfg)) : List ClaimCfg := cs.filterMap id

/-- Pairs of a list, each element with those after it. -/
def pairsOk {α : Type} (p : α → α → Bool) (l : List α) : Bool :=
  match l with
  | [] => true
  | a :: r => r.all (p a) && pairsOk p r

/-- The sum of a number over a list. -/
def sumBy {α : Type} (f : α → Nat) (l : List α) : Nat := (l.map f).foldl (· + ·) 0

/-- R42 across the CLAIM sections of a MODULE image. -/
def ownRules (os : List ClaimSec) : Chk Unit := do
  need (!os.isEmpty) cdClaim
  need (pairsOk (fun a b => !claimsMeet a b) os) cdOverlap
  need (decide (sumBy (fun x => x.rowCache) os ≤ 16) && decide (sumBy (fun x => x.subRings + x.cplRings) os ≤ 1024)) cdClaim

/-- Grammar versions that requests hold beside those in force (R279): each by its claim, number and version. -/
def heldGrammars (s : State) (cs : List (Option ClaimCfg)) : List ((Nat × Nat × Nat) × GrammarSec) :=
  let held := dedup ((requests s).filterMap (fun p => p.2.bind.grammar.map (fun g => ((p.2.claim, p.2.bind.grammarVer), g))))
  held.filter (fun h => match (cs[h.1.1]?).bind id with
    | some g => (kget g.grammars h.1.2.1).map (·.ver) != some h.1.2.2
    | none => true)

/-- R38, R110, R261, R279 and the sum of R363. -/
def moduleRules (s : State) (cs : List (Option ClaimCfg)) : Chk Unit := do
  let gs := cfgsOf cs
  let ins := fun {α : Type} (m : AMap (Inst α)) => sumBy (fun (i : Inst α) => i.len) (kvals m)
  need (decide (sumBy (fun g => g.vocabs.length) gs ≤ 8)) cdLimit
  need (pairsOk (fun a b => (kkeys a.vocabs).all (fun v => !khas b.vocabs v)) gs) cdOverlap
  need (decide (sumBy (fun g => ins g.vocabs + ins g.merges + ins g.classes) gs ≤ 33554432)) cdLimit
  need (decide (sumBy (fun g => ins g.grammars) gs
    + sumBy (fun h => grammarBytes h.2) (heldGrammars s cs) ≤ 12582912)) cdLimit
  need (decide (sumBy (fun g => (g.roster.map (fun i => i.sec.hoistShare)).getD 0) gs ≤ 64)) cdLimit

/-- The mask of a class of R410 that may have a spare in the plan. -/
def spareMask (x : ClaimSec) (cls : Nat) : Nat :=
  if cls = 4 then x.crusher else if cls = 5 then x.selector else if cls = 6 then x.timber else if cls = 7 then x.packer
  else if cls = 8 then x.assay else if cls = 9 then x.gather else if cls = 0xA then x.cage else if cls = 0xB then x.face
  else if cls = 0xC then x.haulage else 0

/-- R405 for the spare records. -/
def planRules (cs : List (Option ClaimCfg)) (p : PowerPlan) : Chk Unit := do
  need (p.spares.all (fun r => match (cs[r.claim]?).bind id with
    | some g => bit (spareMask g.own r.cls) r.idx
    | none => false)) cdReference
  need (pairsOk (fun a b => !(a.claim == b.claim && a.cls == b.cls)) p.spares) cdReference

/-! ### The configuration an image gives -/

/-- The configurations in force. -/
def liveCfgs (s : State) : List (Option ClaimCfg) := s.claims.map (·.cfg)

/-- The configurations with one claim's replaced. -/
def setCfg (cs : List (Option ClaimCfg)) (c : Nat) (g : ClaimCfg) : List (Option ClaimCfg) := lmod cs c (fun _ => some g)

/-- A MODULE image's configuration (R47). -/
def moduleCfg (s : State) (es : List Entry) : Chk ModuleCfg := do
  let ofC := fun (c : Nat) => es.filter (fun e => e.claim == c)
  let owns ← (List.range 4).mapM (fun c => match (ofC c).find? (fun e => e.typ == 1) with
    | none => (if (ofC c).isEmpty then (.ok none : Chk (Option (ClaimSec × AMap Nat))) else .error cdReference)
    | some e => (parseClaim c e.body).map some)
  ownRules ((owns.filterMap id).map (·.1))
  (owns.filterMap id).forM (fun x => claimRules s.power x.1 x.2)
  let cs ← (List.range 4).mapM (fun c => match (owns[c]?).bind id with
    | none => (.ok none : Chk (Option ClaimCfg))
    | some (x, ps) => do
      let g ← putSections (bareCfg x ps) (ofC c)
      cfgRules g
      pure (some g))
  moduleRules s cs
  match es.find? (fun e => e.typ == 0xF) with
  | none => pure { claims := cs, plan := none }
  | some e => do
    let p ← parsePlan e.body
    planRules cs p
    pure { claims := cs, plan := some (asInst e p) }

/-- A CLAIM image's configuration (R47, R48): the claim's sections replaced, its CLAIM section kept. -/
def claimCfg (s : State) (c : Nat) (es : List Entry) : Chk ModuleCfg :=
  match cfgOf s c with
  | none => .error cdState
  | some g0 => do
    let g ← putSections (bareCfg g0.own g0.pools) es
    cfgRules g
    let cs := setCfg (liveCfgs s) c g
    moduleRules s cs
    pure { claims := cs, plan := s.hf.plan }

/-- Whether a claim has a section of an adjustable type in force, and its ADJUSTABLE bit. -/
def sectionAdj (g : ClaimCfg) (t i : Nat) : Option Bool :=
  match t with
  | 3 => (kget g.recipes i).map (·.adj)
  | 7 => (kget g.grammars i).map (·.adj)
  | 8 => (kget g.templates i).map (·.adj)
  | 0xC => g.shaper.map (·.adj)
  | 0xD => g.gates.map (·.adj)
  | 0xE => g.watch.map (·.adj)
  | _ => none

/-- R37, R50, R51 for one entry of a claim's DELTA. -/
def deltaRule (g : ClaimCfg) (e : Entry) : Chk Unit :=
  if e.typ = 1 then need (!e.rm && e.body.take 640 == g.own.raw) cdStructural
  else do
    need (adjustableType e.typ && sectionAdj g e.typ e.inst != some false) cdStructural
    need (!e.rm || (sectionAdj g e.typ e.inst).isSome) cdReference

/-- The configuration a claim's DELTA gives (R50, R51). -/
def deltaCfg (s : State) (c : Nat) (es : List Entry) : Chk ModuleCfg :=
  match cfgOf s c with
  | none => .error cdState
  | some g0 => do
    let es := es.map (fun e => { e with ver := (claimOf s c).adjSeq + 1 })
    es.forM (deltaRule g0)
    let g1 ← match es.find? (fun e => e.typ == 1) with
      | none => (.ok g0 : Chk ClaimCfg)
      | some e => do
        let (x, ps) ← parseClaim c e.body
        claimRules s.power x ps
        pure { g0 with own := x, pools := ps }
    let g ← putSections g1 es
    cfgRules g
    let cs := setCfg (liveCfgs s) c g
    moduleRules s cs
    pure { claims := cs, plan := s.hf.plan }

/-- The configuration a DELTA with CLAIM 0xF gives (R37, R52). -/
def planCfg (s : State) (es : List Entry) : Chk ModuleCfg :=
  match es with
  | e :: _ => do
    need (e.typ == 0xF && (s.hf.plan.map (·.adj)).getD true) cdStructural
    if e.rm then
      need s.hf.plan.isSome cdReference
      pure { claims := liveCfgs s, plan := none }
    else
      let p ← parsePlan e.body
      planRules (liveCfgs s) p
      pure { claims := liveCfgs s, plan := some (asInst e p) }
  | [] => pure { claims := liveCfgs s, plan := s.hf.plan }

end Sys2Proof.Machine
end

