-- ==== Sys2Proof/Machine/Foreman.lean ====
section
/-! DEFINITION. The Foreman's admission of requests (04 R99 to R101, R478), ABORT (R106 to R108), WATCH_ARM (19 R444)
and reserved opcodes. -/

namespace Sys2Proof.Machine

/-! ### Admission -/

/-- Whether a slot lies in a claim's slot blocks. -/
def slotIn (s : State) (c n : Nat) : Bool :=
  decide (ownOf s c (·.slotFirst) ≤ n) && decide (n < ownOf s c (·.slotFirst) + 1024 * ownOf s c (·.slotBlocks))

/-- The first check of step 4 of R99 up to the generation: status and DETAIL of a refusal. -/
def slotRefusal (s : State) (o : Origin) : Option (Nat × Nat) :=
  let n := o.req % 65536
  if !slotIn s o.claim n then some (0x0C, 0x12)
  else if (slotOf s n).occ.isSome then some (0x04, 0)
  else if (slotOf s n).gen.toNat != o.req / 65536 then some (0x0C, 0x13)
  else none

/-- Whether a LABEL may be asked for (R148): none, or below LABEL_COUNT; without a pit only none. -/
def labelFieldOk (p : Option PitSec) (l : Nat) : Bool :=
  l == 0xFFFFFFFF || (match p with
    | some x => decide (l < x.labelCount)
    | none => false)

/-- LABEL as a search takes it. -/
def labelField (l : Nat) : Option Nat := if l = 0xFFFFFFFF then none else some l

/-- The adapter version that is a tenant's current one (R254, R255), by its handle. -/
def currentAdapter (s : State) (c t : Nat) : Option Nat :=
  (s.face.adapters.find? (fun a => match a.2.ver with
    | some v => v.current && v.claim == c && v.tenant == t
    | none => false)).map (fun a => adapterHandle s a.1)

/-- A prefix that a descriptor of a tenant may name (R223): built and not released. -/
def prefixOf (s : State) (c t h : Nat) : Option PrefixRec :=
  (kget s.face.prefixes h).filter (fun p => p.claim == c && p.tenant == t && !p.released
    && !s.cmds.any (fun x => match x.body with
      | .prefixCreate _ _ _ k => k == h
      | _ => false))

/-- The debit of a cost from a tenant's policer (R99 step 6, R373); none where it holds too little. -/
def debitPolicer (s : State) (c t cost : Nat) : Option State :=
  if cost = 0 || !khas s.haul.shapers c then some s
  else
    let p := kgetD s.haul.policers (c, t) {}
    if p.micro < cost * 1000000 then none
    else some { s with haul := { s.haul with policers := kset s.haul.policers (c, t) { p with micro := p.micro - cost * 1000000 } } }

/-- HA_POLICER.REFUSED of a tenant counted. -/
def countPoliced (s : State) (c t : Nat) : State :=
  let p := kgetD s.haul.policers (c, t) {}
  { s with haul := { s.haul with policers := kset s.haul.policers (c, t) { p with refused := satAdd 24 p.refused 1 } } }

/-- The references of a request taken at admission (R100): its adapter version, and its prefix with the pins of its
pages; a page that is not RESIDENT is promoted, and its pin taken when it is (R316). -/
def takeRefs (s : State) (c : Nat) (adapter pfx : Option Nat) : State :=
  let s1 := match adapter with
    | none => s
    | some h => modAdapter s h (fun v => { v with refs := v.refs + 1 })
  match pfx with
  | none => s1
  | some h =>
    let s2 := { s1 with face := { s1.face with prefixes := kmod s1.face.prefixes h (fun p => { p with refs := p.refs + 1 }) } }
    ((s2.cage.pages.filter (fun q => ofObj c 4 h q.1)).map (·.1)).foldl (fun s k =>
      let s1 := wantPage s k
      if isResident s1 k then modPage s1 k (fun p => { p with bind := p.bind + 1 }) else s1) s2

/-- The request put in its slot, RUNNING, and its first steps issued. -/
def admitReq (s : State) (r : Req) (n : Nat) : State :=
  let s1 := takeRefs s r.claim r.bind.adapter r.bind.pfx
  let r1 : Req := { r with
    bind := { r.bind with order := s1.face.admitted }
    steps := if r.steps.isEmpty then List.replicate (planOf r).length {} else r.steps }
  let s2 := { s1 with face := { s1.face with admitted := s1.face.admitted + 1 } }
  goOn (setSlot s2 n { slotOf s2 n with occ := some r1 }) n

/-- The reserved bits of RUN_RECIPE (R90). -/
def runRecipeZero (l : List Byte) : Bool := byteAt l 29 / 2 == 0 && zeroAt l 30 2 && zeroAt l 124 4

/-- The descriptor's fields of a RUN_RECIPE, with the recipe's values and caps (R90, R148). -/
def runDesc (q : RecipeSec) (l : List Byte) : ReqDesc :=
  let cap := fun (v dflt : Nat) => if v = 0 then dflt else min v dflt
  { streamBase := fld l 16 8, streamLines := fld l 24 4, noSpec := byteAt l 29 % 2 == 1, inputAddr := fld l 40 8
    inputBytes := fld l 48 4, maxNew := cap (fld l 52 4) q.maxNewTokens, seed := BitVec.ofNat 64 (fld l 56 8)
    historyAddr := fld l 64 8, historyTokens := fld l 72 4, label := labelField (fld l 76 4)
    resultAddr := fld l 80 8, resultBytes := fld l 88 4
    filterBudget := cap (fld l 92 4) (if q.filterBudget = 0 then 65536 else q.filterBudget) }

/-- The PARAM words of a RUN_RECIPE. -/
def paramWords (l : List Byte) : List Nat := (List.range 7).map (fun i => fld l (96 + 4 * i) 4)

/-- The field ranges of a RUN_RECIPE (R79, R80, R90, R148, R478): the reason of a refusal. R99 gives no order among them; the
model takes the descriptor's fields first, then the PARAM words in the order of the steps (DESIGN CHOICE, log 113). -/
def runFields (s : State) (c : Nat) (q : RecipeSec) (l : List Byte) : Option Nat :=
  let base := fld l 16 8
  let lines := fld l 24 4
  if fld l 48 4 > 1048576 || base % 128 != 0 then some 0x16
  else if base != 0 && !(decide (4 ≤ lines) && decide (lines ≤ 4096) && isPow2 lines) then some 0x16
  else if !labelFieldOk (q.pit.bind (pitSecOf s c)) (fld l 76 4) then some 0x16
  else (cfgOf s c).bind (fun g => recipeAdmitReason g q (paramWords l))

/-- The templates that a recipe's PACK steps use. -/
def boundTemplates (s : State) (c : Nat) (q : RecipeSec) (steps : List StepRec) : AMap TemplateSec :=
  match cfgOf s c with
  | none => []
  | some g =>
    let ns := dedup ((q.template.toList) ++ steps.filterMap (fun t => if t.typ = 7 then packTemplate q t else none))
    ns.filterMap (fun n => (secOf g.templates n).map (fun x => (n, x)))

/-- RUN_RECIPE after step 3 of R99: steps 4 to 6. EPOCH of a request whose recipe names no pit is 0 (R94, R105; DESIGN CHOICE,
log 113). -/
def runRecipeBody (s : State) (o : Origin) (l : List Byte) : State :=
  let n := o.req % 65536
  match slotRefusal s o with
  | some (st, d) => done s o st d
  | none =>
    match (cfgOf s o.claim).bind (fun g => secOf g.recipes (byteAt l 28)) with
    | none => bad s o 0x14
    | some q =>
      match runFields s o.claim q l with
      | some d => bad s o d
      | none =>
        let h := fld l 32 8
        let pfx := if h = 0xFFFFFFFFFFFFFFFF then none else some h
        let found := pfx.bind (fun h => (prefixOf s o.claim o.tenant h).filter (fun p => some p.model == q.genModel))
        if pfx.isSome && found.isNone then bad s o 0x15
        else
          let takes := match q.genModel.bind (modelOf s o.claim) with
            | some m => decide (0 < m.adapterMaxRank)
            | none => false
          let ad := currentAdapter s o.claim o.tenant
          if takes && ad.isNone then done s o 0x08 0
          else
            match debitPolicer s o.claim o.tenant q.policeCost with
            | none => done (countPoliced s o.claim o.tenant) o 0x03 0
            | some s1 =>
              let steps := takeParams (paramWords l) q.steps
              let bnd : ReqBind :=
                { recipeNo := some (byteAt l 28), recipe := some { q with steps := steps }
                  templates := boundTemplates s o.claim q steps
                  grammar := q.grammar.bind (fun x => (cfgOf s o.claim).bind (fun g => secOf g.grammars x))
                  grammarVer := (q.grammar.getD 0, ((q.grammar.bind (fun x => (cfgOf s o.claim).bind (fun g => kget g.grammars x))).map (·.ver)).getD 0)
                  adapter := if takes then ad else none, pfx := pfx, pfxLen := (found.map (·.len)).getD 0
                  pit := q.pit, epoch := (q.pit.map (fun p => (pitOf s o.claim p).live.p)).getD 0 }
              admitReq s1 { claim := o.claim, tenant := o.tenant, opcode := 1, origin := o, desc := runDesc q l, bind := bnd, steps := [] } n

/-- RUN_RECIPE (R90, R99 to R101). -/
def opRunRecipe (d : Desc) (s : State) : State := claimDesc s d (· == 1) runRecipeZero false runRecipeBody

/-- The meaning of RUN_RECIPE. -/
def execRunRecipe (d : Desc) (s : State) : Host.Outcome State Fault Refusal := .next (opRunRecipe d s)

/-! ### SEARCH_ONLY and FLAT_SCAN (R91, R148, R162) -/

/-- The query values as read: one that is not finite is 0, and QUERY_NONFINITE is set (R145). -/
def queryValues (dim : Nat) (bs : List Byte) : List F32 × Bool :=
  let raw := (List.range dim).map (fun i => BitVec.ofNat 32 (fld bs (4 * i) 4))
  let bad := fun (x : F32) => isNan32 x || isInf32 x
  (raw.map (fun x => if bad x then 0 else x), raw.any bad)

/-- A search request after step 3 of R99. -/
def searchBody (op : Nat) (query : List Byte) (s : State) (o : Origin) (l : List Byte) : State :=
  let n := o.req % 65536
  let k := fld l 18 2
  match slotRefusal s o, pitSecOf s o.claim (fld l 16 2) with
  | some (st, d), _ => done s o st d
  | none, none => bad s o 0x16
  | none, some p =>
    if k = 0 || k > 1024 || !labelFieldOk (some p) (fld l 32 4) then bad s o 0x16
    else
      let (vec, nf) := queryValues p.dim query
      let s1 := if nf then { s with drift := { s.drift with err := lmod s.drift.err 0 (fun e => e ||| 4) } } else s
      let desc : ReqDesc :=
        { label := labelField (fld l 32 4), resultAddr := fld l 40 8, resultBytes := fld l 48 4
          filterBudget := fld l 36 4, k := k, beam := fld l 20 2 }
      let bnd : ReqBind := { pit := some (fld l 16 2), epoch := (pitOf s o.claim (fld l 16 2)).live.p }
      admitReq s1 { claim := o.claim, tenant := o.tenant, opcode := op, origin := o, desc := desc, bind := bnd, steps := [{ vec := vec }, {}] } n

/-- SEARCH_ONLY. -/
def opSearchOnly (d : Desc) (query : List Byte) (s : State) : State :=
  claimDesc s d (· == 0x10) (fun l => zeroAt l 22 2 && zeroAt l 52 76) false (searchBody 0x10 query)

/-- The meaning of SEARCH_ONLY. -/
def execSearchOnly (d : Desc) (query : List Byte) (s : State) : Host.Outcome State Fault Refusal := .next (opSearchOnly d query s)

/-- FLAT_SCAN. -/
def opFlatScan (d : Desc) (query : List Byte) (s : State) : State :=
  claimDesc s d (· == 0x11) (fun l => zeroAt l 20 4 && zeroAt l 52 76) false (searchBody 0x11 query)

/-- The meaning of FLAT_SCAN. -/
def execFlatScan (d : Desc) (query : List Byte) (s : State) : Host.Outcome State Fault Refusal := .next (opFlatScan d query s)

/-! ### ABORT and WATCH_ARM -/

/-- The occupant a handle names in a claim, with its slot: RUNNING or COMMITTED with that generation (R106). -/
def targetOf (s : State) (c h : Nat) : Option (Nat × Req) :=
  let n := h % 65536
  if slotIn s c n && (slotOf s n).gen.toNat == h / 65536 then ((reqOf s n).filter (fun r => r.claim == c)).map (fun r => (n, r)) else none

/-- A record that becomes visible after a request's own (R106). -/
def afterReq (s : State) (n : Nat) (x : CplRec) : State := modReq s n (fun r => { r with tail := r.tail ++ [x] })

/-- ABORT (R106, R107). -/
def opAbort (d : Desc) (s : State) : State :=
  claimDesc s d (· == 2) (fun l => zeroAt l 16 112) true (fun s o _ =>
    if o.req = 0xFFFFFFFF then bad s o 0x17
    else
      match targetOf s o.claim o.req with
      | none => done s o 0x0D 0
      | some (n, r) =>
        if r.tenant != o.tenant then bad s o 0x17
        else if r.commit.isNone then afterReq (commitReq s n 0x02 0) n { o := o, status := 0 }
        else afterReq s n { o := o, status := 0x0D })

/-- The meaning of ABORT. -/
def execAbort (d : Desc) (s : State) : Host.Outcome State Fault Refusal := .next (opAbort d s)

/-- Whether STEP of a WATCH_ARM lies in the range of its point (R443). -/
def watchStepOk (s : State) (r : Req) (w : WatchName) (step : Nat) : Bool :=
  let typ := (((planOf r)[w.stepNo]?).map (·.typ)).getD 0
  if w.point ≤ 3 then step == 0
  else if typ = 8 then decide (step < ((genOf s r).map (·.seqLimit)).getD 0)
  else decide (step < r.desc.maxNew)

/-- WATCH_ARM (R444). -/
def opWatchArm (d : Desc) (s : State) : State :=
  claimDesc s d (· == 0x0F) (fun l => zeroAt l 22 2 && zeroAt l 36 92) false (fun s o l =>
    let nm := fld l 16 2
    let step := fld l 18 4
    let bytes := fld l 32 4
    if o.req = 0xFFFFFFFF then bad s o 0x17
    else
      match targetOf s o.claim o.req with
      | none => done s o 0x0D 0
      | some (n, r) =>
        if r.tenant != o.tenant then bad s o 0x17
        else if r.commit.isSome then done s o 0x0D 0
        else
          match ((cfgOf s o.claim).bind (·.watch)).bind (fun w => w.sec[nm]?) with
          | none => bad s o 0x16
          | some w =>
            if some w.recipe != r.bind.recipeNo || !watchStepOk s r w step || decide (bytes < 64) then bad s o 0x16
            else if decide (64 ≤ (s.watch.arms.filter (fun a => a.claim == o.claim)).length)
                || decide (4 ≤ (s.watch.arms.filter (armOf s n)).length) then done s o 0x0E 0
            else
              let a : Arm := { claim := o.claim, slot := n, o := o, name := nm, wname := w, step := step
                               addr := fld l 24 8, bytes := bytes, fired := none }
              { s with watch := { s.watch with arms := s.watch.arms ++ [a] } })

/-- The meaning of WATCH_ARM. -/
def execWatchArm (d : Desc) (s : State) : Host.Outcome State Fault Refusal := .next (opWatchArm d s)

/-- A reserved opcode on a claim ring (R77, R88, R108): 0 and those from 0x80 up are of the wrong kind; the others pass the
checks of every opcode of a claim ring (R479), their own bytes having no layout, and are refused with FIELD (log 21). -/
def opReservedOpcode (d : Desc) (s : State) : State :=
  claimDesc s d (fun c => c == 0 || decide (0x14 ≤ c)) (fun _ => true) false (fun s o _ => bad s o 0x16)

/-- The meaning of RESERVED_OPCODE. -/
def execReservedOpcode (d : Desc) (s : State) : Host.Outcome State Fault Refusal := .next (opReservedOpcode d s)

end Sys2Proof.Machine
end

