-- ==== Sys2Proof/Machine/Objects.lean ====
section
/-! DEFINITION. Prefixes (09 R219 to R225) and adapter versions (10 R253 to R257). -/

namespace Sys2Proof.Machine

/-! ### Prefixes -/

/-- The pages of a prefix of a length, for the generator and the draft model it is paired with (R219, R239). -/
def prefixPages (s : State) (c m h len : Nat) : List PageKey :=
  match modelOf s c m with
  | none => []
  | some g =>
    let d := g.pair.bind (modelOf s c)
    let t := g.layers + (d.map (·.layers)).getD 0
    let part := fun (x : ModelSec) (off : Nat) =>
      ((List.range ((len + pppOf x - 1) / pppOf x)).map (fun b =>
        (List.range x.layers).map (fun l => (⟨c, 4, h, b * t + off + l⟩ : PageKey)))).flatten
    part g 0 ++ (d.map (fun x => part x g.layers)).getD []

/-- The tokens of a prefix: the SCOPE PREFIX items of its template, then the tokens read (R219). -/
def prefixTokens (tpl : Option TemplateSec) (count : Nat) (bs : List Byte) : List Nat :=
  let lit := match tpl with
    | none => []
    | some t => ((t.items.filter (·.scopePrefix)).map (fun i => (t.tokens.drop i.off).take i.count)).flatten
  lit ++ (List.range count).map (fun i => fld bs (4 * i) 3)

/-- The pages of a claim's PREFIX pool that are free or that the Cage can free to the HOST pool (R221). -/
def prefixRoom (s : State) (c : Nat) : Nat :=
  let out := (poolOf s c 4).filter (eligible s)
  let drop := (out.filter (fun q => droppable q.1 q.2)).length
  let host := hostFree s c - (booked s c - poolPages s c 1)
  freeFrames s c 4 + drop + min (out.length - drop) host

/-- The adapter version a PREFIX_CREATE prefills with: none for a model that takes none; `none` of the result where a
named version is not the tenant's, or where the tenant has no current one. -/
def createAdapter (s : State) (c t ask : Nat) (m : ModelSec) : Option (Option Nat) :=
  if m.adapterMaxRank = 0 then some none
  else if ask = 0xFFFFFFFF then (currentAdapter s c t).map some
  else match adapterOf s ask with
    | some v => if v.claim = c && v.tenant = t then some (some ask) else none
    | none => none

/-- PREFIX_CREATE (R219, R221). -/
def opPrefixCreate (d : Desc) (tokens : List Byte) (s : State) : State :=
  plainCommand s d 3 (fun l => zeroAt l 29 1 && zeroAt l 36 92) (fun s o l =>
    let c := o.claim
    let tn := fld l 30 2
    let tpl := (cfgOf s c).bind (fun g => secOf g.templates tn)
    match (modelOf s c (byteAt l 28)).filter (fun m => m.kind == 0) with
    | none => bad s o 0x16
    | some m =>
      let ts := prefixTokens (if tn = 0xFFFF then none else tpl) (fld l 24 4) tokens
      let n := vocabSize s c m.vocab
      if (tn != 0xFFFF && tpl.isNone) || ts.isEmpty || decide (1048576 < ts.length) || ts.any (fun t => decide (n ≤ t)) then bad s o 0x16
      else
        match createAdapter s c o.tenant (fld l 32 4) m with
        | none => if fld l 32 4 = 0xFFFFFFFF then done s o 0x08 0 else bad s o 0x16
        | some ad =>
          let h := (Config.prefixBase + s.face.nextPrefix) % (2 ^ 64 - 1)
          let held := (s.face.prefixes.filter (fun p => p.2.claim == c)).length
          let ks := prefixPages s c (byteAt l 28) h ts.length
          if 512 * ownOf s c (·.slotBlocks) ≤ held || 32768 ≤ s.face.prefixes.length || prefixRoom s c < ks.length then done s o 0x0E 0
          else
            let p : PrefixRec := { claim := c, tenant := o.tenant, model := byteAt l 28, len := ts.length, adapter := ad, refs := 1, released := false }
            let s1 := { s with face := { s.face with prefixes := kset s.face.prefixes h p, nextPrefix := s.face.nextPrefix + 1 } }
            let s2 := match ad with
              | none => s1
              | some a => modAdapter s1 a (fun v => { v with refs := v.refs + 1 })
            let x : Cmd := { o := o, body := .prefixCreate (byteAt l 28) ad ts h, begun := true, needs := [], count := 0, total := 0 }
            ks.foldl (fun s k => createPage s k (.command o)) { s2 with cmds := s2.cmds ++ [x] })

/-- The meaning of PREFIX_CREATE. -/
def execPrefixCreate (d : Desc) (tokens : List Byte) (s : State) : Host.Outcome State Fault Refusal :=
  .next (opPrefixCreate d tokens s)

/-- A PREFIX_CREATE ended before it is built: its pages and its reference on the adapter version go (R225). -/
def endCreate (s : State) (x : Cmd) (status : Nat) : State :=
  match x.body with
  | .prefixCreate _ ad _ h =>
    let s1 := unrefPrefix { s with cmds := s.cmds.filter (fun y => y != x) } h
    let s2 := match ad with
      | none => s1
      | some a => unrefAdapter s1 a
    done s2 x.o status 0
  | _ => s

/-- The generator of a prefix, and the draft model that its section pairs with it (R219). -/
def prefixModels (s : State) (c m : Nat) : List (Nat × ModelSec) :=
  match modelOf s c m with
  | none => []
  | some g => (m, g) :: (match g.pair with
    | none => []
    | some d => ((modelOf s c d).map (fun x => (d, x))).toList)

/-- The layers of a prefix's pages: each one's place among them, and its model. -/
def prefixLayers (s : State) (c m : Nat) : List (Nat × ModelSec) :=
  (prefixModels s c m).foldl (fun ls x => ls ++ (List.range x.2.layers).map (fun l => (ls.length + l, x.2))) []

/-- Whether rows give the KV of every position and layer of a prefix. -/
def prefixGiven (s : State) (c m len : Nat) (kv : List KvRow) : Bool := (prefixLayers s c m).all (fun x => kvGiven x.2 kv x.1 0 len)

/-- The KV of a prefix's tokens written into its pages (R219, R239). -/
def writePrefix (s : State) (c m h len : Nat) (kv : List KvRow) : State :=
  let ls := prefixLayers s c m
  (kv.filter (fun x => decide (x.pos < len))).foldl (fun s x =>
    match ls.find? (fun l => l.1 == x.layer) with
    | none => s
    | some l => modPage s ⟨c, 4, h, x.pos / max 1 (pppOf l.2) * max 1 ls.length + x.layer⟩ (fun p => { p with data := kvWrite l.2 p.data x })) s

/-- What the prefill of a prefix uses beside its own pages: models, adapter version, and the embeddings of its tokens (R219). -/
def prefixLooks (s : State) (c m : Nat) (ts : List Nat) : List (Nat × List Nat) := (prefixModels s c m).map (fun x => (x.2.embedLedger, ts))
def prefixUses (s : State) (c m : Nat) (ad : Option Nat) (ts : List Nat) : List PageKey :=
  ((prefixModels s c m).map (fun x => modelKeys s c x.1)).flatten ++ adapterKeys s c ad ++ lookPages s c (prefixLooks s c m ts)

/-- Pages needed by a command: those outside the Lode tier get a frame and their load; whether all are there. -/
def commandPages (s : State) (o : Origin) (ks : List PageKey) : State × Bool :=
  (ks.foldl (fun s k => needPage s k (.command o)) s, ks.all (isResident s))

/-- The pages of a prefix with the KV of its tokens written: granules marked, pages used (R219, R317). -/
def buildPrefix (s : State) (c m h len : Nat) : State :=
  let g := modelOf s c m
  let pg := (g.map pppOf).getD 1
  let d := (g.bind (·.pair)).bind (modelOf s c)
  let pd := (d.map pppOf).getD 1
  let gl := (g.map (·.layers)).getD 0
  let t := max 1 (gl + (d.map (·.layers)).getD 0)
  (prefixPages s c m h len).foldl (fun s k =>
    let ppp := if k.idx % t < gl then pg else pd
    touch (modPage s k (fun p => markGranules p (kvGranules ppp 0 (min ppp (len - k.idx / t * ppp))))) k) s

/-- Whether a command is the PREFIX_CREATE of a handle. -/
def Cmd.creates (x : Cmd) (h : Nat) : Bool :=
  match x.body with
  | .prefixCreate _ _ _ k => k == h
  | _ => false

/-- PREFIX_PREFILL_DONE (R219): all the KV of a prefix is written, for the generator and its draft model; `kv` holds the rows, which
R300 leaves open (log 29). The models' weights, the adapter version's pages and the tokens' embeddings are brought into the Lode tier
first. A model that failed its digest ends the creation, and so does a QUARANTINED page that it needs (R322; log 122). -/
def opPrefixPrefillDone (handle : W64) (kv : List KvRow) (s : State) : State :=
  match s.cmds.find? (·.creates handle.toNat) with
  | none => s
  | some x =>
    match x.body with
    | .prefixCreate m ad ts h =>
      let c := x.o.claim
      let st := fun (mi : Nat) => kgetD s.face.models (c, mi) 0
      let ms := (prefixModels s c m).map (·.1)
      let looks := prefixLooks s c m ts
      if !alive s then s
      else if ms.any (fun mi => st mi == 3) then endCreate s x 0x06
      else if (prefixUses s c m ad ts).any (isQuarantined s) then endCreate s x 0x07
      else if !(ms.all (fun mi => st mi == 2) && looksReady s c looks && prefixGiven s c m ts.length kv) then s
      else
        let own := prefixPages s c m h ts.length
        let (s1, ok) := commandPages s x.o (prefixUses s c m ad ts)
        if !(ok && own.all (isResident s)) then s1
        else
          let s2 := lookUps ((prefixUses s c m ad ts).foldl touch s1) c none looks
          let s3 := buildPrefix (writePrefix s2 c m h ts.length kv) c m h ts.length
          let s4 := { unpinPages s3 byCommand own with cmds := s3.cmds.filter (fun y => y != x) }
          let s5 := match ad with
            | none => s4
            | some a => unrefAdapter s4 a
          doneWith s5 x.o (leBytes 8 h)
    | _ => s

/-- The meaning of PREFIX_PREFILL_DONE. -/
def execPrefixPrefillDone (fill : PrefixFill) (s : State) : Host.Outcome State Fault Refusal :=
  .next (opPrefixPrefillDone fill.handle fill.kv s)

/-- PREFIX_RELEASE (R223). -/
def opPrefixRelease (d : Desc) (s : State) : State :=
  plainCommand s d 4 (fun l => zeroAt l 24 104) (fun s o l =>
    let h := fld l 16 8
    match prefixOf s o.claim o.tenant h with
    | none => bad s o 0x15
    | some _ =>
      let s1 := { s with face := { s.face with prefixes := kmod s.face.prefixes h (fun p => { p with released := true }) } }
      settlePages (done (unrefPrefix s1 h) o 0 0))

/-- The meaning of PREFIX_RELEASE. -/
def execPrefixRelease (d : Desc) (s : State) : Host.Outcome State Fault Refusal := .next (opPrefixRelease d s)

/-! ### Adapter versions -/

/-- The length of an adapter image: its header, then each matrix at the next multiple of 128 bytes. -/
def adapterBytes (m : ModelSec) (rank fmt targets : Nat) : Nat :=
  (adapterMatrices m rank fmt targets).foldl (fun o n => roundUp o 128 + n) 64

/-- Whether an adapter header keeps R253. -/
def adapterHeaderOk (m : ModelSec) (rank bytes : Nat) (h : List Byte) : Bool :=
  byteAt h 0 == rank && decide (byteAt h 1 ≤ 1) && decide (byteAt h 2 < 128) && byteAt h 3 == 0 && fld h 4 2 == m.layers &&
    zeroAt h 6 2 && zeroAt h 12 52 && bytes == adapterBytes m rank (byteAt h 1) (byteAt h 2)

/-- ADAPTER_PUBLISH (R255, R311) with the header read at SOURCE_ADDR: a free slot, and the image's pages created, pinned until the
image is loaded. -/
def opAdapterPublish (d : Desc) (header : List Byte) (s : State) : State :=
  plainCommand s d 5 (fun l => zeroAt l 34 94) (fun s o l =>
    let c := o.claim
    let rank := byteAt l 33
    let bytes := fld l 24 8
    match (modelOf s c (byteAt l 32)).filter (fun m => m.kind == 0) with
    | none => bad s o 0x16
    | some m =>
      if rank = 0 || m.adapterMaxRank < rank || !adapterHeaderOk m rank bytes header then bad s o 0x16
      else
        let first := ownOf s c (·.adapterFirst)
        let slot := (List.range (ownOf s c (·.adapterCount))).find? (fun i => (kgetD s.face.adapters (first + i) {}).ver.isNone)
        let n := (bytes - 128 + 65535) / 65536
        match slot with
        | none => done s o 0x0E 0
        | some i =>
          if poolPages s c 3 - fencedFrames s c 3 < n then done s o 0x0E 0
          else
            let v : AdapterVer := { claim := c, tenant := o.tenant, model := byteAt l 32, rank := rank, source := fld l 16 8
                                    bytes := bytes, header := padTo 64 header, current := false, refs := 1 }
            let a := kgetD s.face.adapters (first + i) {}
            let s1 := { s with face := { s.face with adapters := kset s.face.adapters (first + i) { a with ver := some v } } }
            let h := adapterHandle s1 (first + i)
            let x : Cmd := { o := o, body := .adapterPublish (first + i), begun := true, needs := [], count := 0, total := 0 }
            (List.range n).foldl (fun s j => createPage s ⟨c, 3, h, j⟩ (.command o) (v.source + 128 + 65536 * j))
              { s1 with cmds := s1.cmds ++ [x] })

/-- The meaning of ADAPTER_PUBLISH. -/
def execAdapterPublish (d : Desc) (header : List Byte) (s : State) : Host.Outcome State Fault Refusal :=
  .next (opAdapterPublish d header s)

/-- A version that stops being its tenant's current one loses that reference (R254). -/
def notCurrent (s : State) (h : Nat) : State := unrefAdapter (modAdapter s h (fun v => { v with current := false })) h

/-- Whether a command is the ADAPTER_PUBLISH of a handle's version. -/
def Cmd.publishes (x : Cmd) (s : State) (h : Nat) : Bool :=
  match x.body with
  | .adapterPublish i => adapterHandle s i == h
  | _ => false

/-- ADAPTER_LOAD_DONE (R255): the image is read from companion memory into its pages, and the version becomes the tenant's current
one. -/
def opAdapterLoadDone (handle : W32) (image : List Byte) (s : State) : State :=
  let h := handle.toNat
  match s.cmds.find? (·.publishes s h), adapterOf s h with
  | some x, some v =>
    let ks := (List.range (objectPages s v.claim 3 h)).map (fun j => (⟨v.claim, 3, h, j⟩ : PageKey))
    if dataUp s v.claim && ks.all (isResident s) && image.length == v.bytes then
      let s0 := (List.range ks.length).foldl (fun s j => modPage s ⟨v.claim, 3, h, j⟩ (fun p => { p with
        data := slice image (128 + 65536 * j) 65536, loaded := true })) (hlGot s 1 (granules v.bytes))
      let s1 := match currentAdapter s0 v.claim v.tenant with
        | none => unpinPages s0 byCommand ks
        | some old => notCurrent (unpinPages s0 byCommand ks) old
      let s2 := modAdapter { s1 with cmds := s1.cmds.filter (fun y => y != x) } h (fun v => { v with current := true })
      doneWith s2 x.o (leBytes 4 h)
    else s
  | _, _ => s

/-- The meaning of ADAPTER_LOAD_DONE. -/
def execAdapterLoadDone (adapter : AdapterImage) (s : State) : Host.Outcome State Fault Refusal :=
  .next (opAdapterLoadDone adapter.handle adapter.image s)

/-- The running requests bound to a version, and the PREFIX_CREATEs that use it (R256). -/
def usersOf (s : State) (h : Nat) : List Nat :=
  ((requests s).filter (fun r => r.2.commit.isNone && r.2.bind.adapter == some h)).map (·.1)
def createsOf (s : State) (h : Nat) : List Cmd :=
  s.cmds.filter (fun x => match x.body with
    | .prefixCreate _ ad _ _ => ad == some h
    | _ => false)

/-- ADAPTER_WITHDRAW (R256). -/
def opAdapterWithdraw (d : Desc) (s : State) : State :=
  plainCommand s d 6 (fun l => zeroAt l 21 107) (fun s o l =>
    let h := fld l 16 4
    let mode := byteAt l 20
    let loading := s.cmds.any (·.publishes s h)
    match (adapterOf s h).filter (fun v => v.claim == o.claim && v.tenant == o.tenant && !loading) with
    | none => bad s o 0x16
    | some v =>
      if mode > 1 then bad s o 0x16
      else
        let users := usersOf s h
        let creates := createsOf s h
        let s1 := if v.current then notCurrent s h else s
        if mode = 0 then doneWith s1 o (countResult 0)
        else
          let s2 := users.foldl (fun s n => commitReq s n 0x08 0) s1
          let s3 := creates.foldl (fun s x => endCreate s x 0x08) s2
          doneWith s3 o (countResult (users.length + creates.length)))

/-- The meaning of ADAPTER_WITHDRAW. -/
def execAdapterWithdraw (d : Desc) (s : State) : Host.Outcome State Fault Refusal := .next (opAdapterWithdraw d s)

end Sys2Proof.Machine
end

