-- ==== Sys2Proof/Machine/Headframe.lean ====
section
/-! DEFINITION. Headframe's operations: the attestation log (20 R454 to R456), power domains and their switching
(17 R398 to R402), retirement (R408, R409), the fatal latch (18 R430), links that go down and come up (16 R388, R391),
and fencing with its audit (18 R419 to R428). -/

namespace Sys2Proof.Machine

/-! ### The attestation log -/

/-- The log extended by an entry, and M with it (R454, R456). -/
def extendLog (s : State) (typ claim arg0 arg1 : Nat) (digest : List Byte) : State :=
  let e := leBytes 8 s.sec.logCount ++ leBytes 1 typ ++ leBytes 1 claim ++ leBytes 6 0 ++ leBytes 8 arg0 ++ leBytes 8 arg1
    ++ padTo 64 digest
  let l := s.sec.log ++ [e]
  { s with sec := { s.sec with m := sha512 (s.sec.m ++ e), log := l.drop (l.length - 4096), logCount := s.sec.logCount + 1 } }

/-! ### Power domains -/

/-- The state with a domain changed. -/
def modDomain (s : State) (d : Nat) (f : Domain → Domain) : State :=
  { s with power := { s.power with domains := lmod s.power.domains d f } }

/-- A domain. -/
def domainOf (s : State) (d : Nat) : Domain := s.power.domains.getD d {}

/-- The domains of the units a CLAIM section owns, but the seam quarters and Hoistlink (R398, R400). -/
def ownDomains (o : ClaimSec) : List Nat :=
  let some := fun (m d : Nat) => if m = 0 then [] else [d]
  bitList 17 o.bankMask ++ (bitList 12 o.lodeMask).map (17 + ·) ++ (dedup ((bitList 48 o.aditMask).map (· / 4))).map (45 + ·)
    ++ (bitList 8 o.staging).map (59 + ·) ++ some o.crusher 67 ++ some o.selector 68 ++ some o.timber 69 ++ some o.packer 70
    ++ some o.assay 71 ++ some (o.gather % 16) 72 ++ some (o.gather / 16) 73 ++ some (o.cage % 16) 74 ++ some (o.cage / 16) 75
    ++ some o.face 76 ++ some o.haulage 77 ++ [78] ++ some o.seamMask 79

/-- The domain that a unit is the whole of (R398). -/
def wholeDomain (u : UnitId) : Option Nat :=
  if u.cls = 0xE then some u.idx else if u.cls = 1 then some (17 + u.idx) else if u.cls = 0xF then some (59 + u.idx)
  else if u.cls = 0x11 then some 79 else none

/-- Whether the unit that is the whole of a domain is fenced. -/
def domainFenced (s : State) (d : Nat) : Bool :=
  s.hf.fences.any (fun p => wholeDomain p.1 == some d && p.2.st == 2)

/-- The domains that a claim needs: those of its units while it is RUNNING, ENDING or starting (R400). -/
def neededBy (s : State) (c d : Nat) : Bool :=
  (claimRuns s c || ((claimOf s c).starting.map (fun j => decide (2 ≤ j.step))).getD false)
    && ((cfgOf s c).map (fun g => (ownDomains g.own).contains d)).getD false

/-- The plan the passes follow (R405, R406). -/
def planInForce (s : State) : PowerPlan := s.hf.planNow.getD defaultPlan

/-- One domain switched (R401): it comes up at the voltage its last pass chose, or at V_NOM. -/
def switchDomain (s : State) (p : Nat × Bool) : State :=
  let (d, on) := p
  let nom := ((planInForce s).domains.getD d ⟨600, 850, 720⟩).vNom
  modDomain s d (fun x =>
    if on then (if domainFenced s d then x else { x with on := true, v10 := if x.planned then x.v10 else 10 * nom })
    else { x with on := false })

/-- A group of at most 4 domains switched (R401). -/
def switchGroup (s : State) : State :=
  let g := s.power.switching.take 4
  g.foldl switchDomain { s with power := { s.power with switching := s.power.switching.drop 4 } }

/-- Domains to be switched, in order: the first group at once where no other waits. -/
def switchDomains (s : State) (ds : List (Nat × Bool)) : State :=
  let idle := s.power.switching.isEmpty
  let s1 := { s with power := { s.power with switching := s.power.switching ++ ds } }
  if idle then switchGroup s1 else s1

/-- Every domain but the seam quarters switched off at once (R402), and the state of power SHEDDING; the links go with
their domains. -/
def shed (s : State) : State :=
  let off := fun (p : Nat × Domain) => if 29 ≤ p.1 && p.1 ≤ 44 then p.2 else { p.2 with on := false }
  { s with
    power := { s.power with
      st := 3, switching := [], domains := ((List.range s.power.domains.length).zip s.power.domains).map off }
    hl := { s.hl with st := 0, laneMask := 0 }
    adit := { s.adit with links := s.adit.links.map (fun x => { x with st := 0, laneMask := 0 }) } }

/-! ### Retirement (R408, R409) -/

/-- Whether a roster's unit is a unit of R419; an array's work is that of its bank. -/
def rosterIs (u : UnitId) (k : RUnit) : Bool :=
  if u.cls = 0 then k.engine == 0 && k.unit == u.idx / 8 else unitClass k.engine == u.cls && k.unit == u.idx

/-- Whether a unit is at a shift boundary: its rosters begin a shift (R364). -/
def atBoundary (s : State) (u : UnitId) : Bool :=
  s.haul.rosters.all (fun p => !rosterIs u p.1 || (p.2.entry == 0 && p.2.served.isEmpty))

/-- The spare arrays of banks whose spare has been called and whose shift is at its boundary become ACTIVE (R409). -/
def joinSpares (s : State) : State :=
  let now := s.power.joins.filter (fun b => atBoundary s ⟨0xE, b⟩)
  { s with power := { s.power with
    spares := s.power.spares.filter (fun p => !now.contains p.1), joins := s.power.joins.filter (fun b => !now.contains b) } }

/-- A unit put into the retirement record, with UNIT_RETIRED. Where an active array of a bank with a spare is retired the
spare is called: it becomes ACTIVE at the bank's next shift boundary (R409). -/
def retire (s : State) (u : UnitId) : State :=
  if s.power.retired.contains u then s
  else
    let b := u.idx / 8
    let own := u.cls == 0 && kget s.power.spares b == some u.idx
    let call := u.cls == 0 && !own && khas s.power.spares b && !s.power.joins.contains b
    joinSpares { s with power := { s.power with
      retired := s.power.retired ++ [u], err := s.power.err ||| 0x80
      spares := if own then kdel s.power.spares b else s.power.spares
      joins := if call then s.power.joins ++ [b] else if own then s.power.joins.filter (· != b) else s.power.joins
      classSpares := s.power.classSpares.filter (fun p => !(p.1.2 == u.cls && p.2 == u.idx)) } }

/-! ### The seam dies at a loss of power or a reset (R351) -/

/-- The dies that run stop taking groups and program their journal and TAIL_CLOSE, or leave the tail unwritten where
hold-up is too short (R351, R469). -/
def flushDies (s : State) (ok : Bool) : State :=
  (List.range 4).foldl (fun s n =>
    let d := dieOf s n
    if d.st = 2 && d.admits then
      let s1 := if ok then journalDone s n else s
      modDie s1 n (fun d => { d with admits := false, journal := 0, syncs := [], tailClosed := ok })
    else s) s

/-! ### Module-fatal faults (R430) -/

/-- A module-fatal fault: the first one latches its cause, and the module sheds as R402 states where Headframe still
runs. -/
def moduleFatal (s : State) (cause : Nat) (u : Option UnitId) : State :=
  if s.boot.fatalCause != 0 then s
  else
    let unit := (u.map (fun u => unitDetail u 0)).getD 0
    let s1 := { s with boot := { s.boot with fatalCause := cause, fatalUnit := unit } }
    if cause = 1 then s1 else flushDies (shed (faultEvent s1 6 unit)) true

/-! ### Adit links down and up (R388, R391, R394) -/

/-- A message queued on a link, or kept for one. -/
def resend (s : State) (c peer : Nat) (m : SentMsg) : State :=
  let l := pickLink s c peer m.msg.handle.toNat
  let m' : SentMsg := { m with link := l.getD 48 }
  let f := fun (p : PeerState) => { p with unacked := p.unacked.map (fun x => if x = m then m' else x) }
  let s1 := modGang s c (fun g => { g with peers := kmod g.peers peer f })
  match l with
  | none => s1
  | some l => queueFrames s1 l m.cls (framesOf m.msg)

/-- The messages of a link that no longer carries them are resent on the links that the new set gives, in order. -/
def resendFrom (s : State) (l : Nat) : State :=
  match linkOwner s l with
  | none => s
  | some c =>
    let s1 := { s with haul := { s.haul with frames := s.haul.frames.filter (fun f => f.1.1 != l) } }
    (gangOf s1 c).peers.foldl (fun s p => (p.2.unacked.filter (fun m => m.link == l)).foldl (fun s m => resend s c p.1 m) s) s1

/-- A link goes down in a STATE, with LINK_DOWN where it carried traffic. -/
def linkDown (s : State) (l st : Nat) : State :=
  let was := (linkOf s l).st
  if was = 2 || was = 3 then
    let s1 := modLink s l (fun x => { x with st := st, laneMask := 0, err := x.err ||| 2 })
    resendFrom (faultEvent s1 5 0) l
  else modLink s l (fun x => { x with st := st, laneMask := 0 })

/-- The messages to a peer that waited for a link, or for acknowledgements of earlier ones, sent (R391). -/
def sendWaiting (s : State) (c peer : Nat) : State :=
  (((kgetD (gangOf s c).peers peer {}).unacked.take 65536).filter (fun m => m.link == 48)).foldl (fun s m => resend s c peer m) s

/-- A link is UP: its peer is reachable again, and the messages that waited for a link go (R391, R394). -/
def linkIsUp (s : State) (l : Nat) : State :=
  match linkOwner s l, (linkOf s l).peer with
  | some c, some i =>
    let s1 := modGang s c (fun g => { g with lost := g.lost - (g.lost &&& 2 ^ i.moduleId) })
    sendWaiting s1 c i.moduleId
  | _, _ => s

/-- The work a module holds for a peer dropped: its searches and remote-work entries (R393, R394). -/
def dropRemote (s : State) (c : Nat) (p : RemoteWork → Bool) : State :=
  let gone := ((gangOf s c).remote.filter p).filterMap (·.search)
  let s1 := { s with drift := { s.drift with searches := s.drift.searches.filter (fun x => !gone.contains x.1) } }
  modGang (admitStrands s1) c (fun g => { g with remote := g.remote.filter (fun w => !p w) })

/-- A peer declared lost (R394): the requests that await its ANSWER or REPLY end, and its remote work is dropped. -/
def peerLost (s : State) (c peer : Nat) : State :=
  let wait := dedup ((s.adit.awaits.filter (fun a => a.peer == peer)).map (·.slot))
  let mine := wait.filter (fun n => ((running s n).map (fun r => r.claim == c)).getD false)
  let s1 := modGang s c (fun g => { g with lost := g.lost ||| 2 ^ peer })
  let s2 := mine.foldl (fun s n => endPeer s n peer) s1
  dropRemote s2 c (fun w => w.msg.src == peer)

/-! ### Units (R419) -/

/-- The units of a class (R40, R419); 0 for a class that is none, and for PEER. -/
def unitCount (cls : Nat) : Nat :=
  if cls = 0 then 136 else if cls = 1 then 12 else if cls = 2 || cls = 3 then 64
  else if cls = 7 || cls = 8 then 4 else if cls ≤ 0xC then 8 else if cls = 0xD then 48
  else if cls = 0xE then 17 else if cls = 0xF then 8 else if cls = 0x11 then 1 else 0

/-- Whether a claim owns a unit. -/
def ownsUnit (s : State) (c : Nat) (u : UnitId) : Bool :=
  if u.cls = 0 then (claimUnits s c 0xE).contains (u.idx / 8) && decide (u.idx < 136) else (claimUnits s c u.cls).contains u.idx

/-- The claim that owns a unit. -/
def unitOwner (s : State) (u : UnitId) : Option Nat := (List.range 4).find? (fun c => ownsUnit s c u)

/-- Whether a search has a strand or a scan on a Drift engine. -/
def searchOn (x : Search) (e : Nat) : Bool :=
  x.strands.any (fun t => t.engine == e && !t.done) || (x.started && x.scans.contains e)

/-- The running requests with a command issued to a unit and not completed, or with state held in it (R421 step 3); of a
bank's commands an array runs the first (R303). -/
def unitWork (s : State) (u : UnitId) : List Nat :=
  let on := fun (q : List RCmd) => if u.cls = 0 then q.take 1 else q
  let cmds := ((s.haul.rosters.filter (fun p => rosterIs u p.1)).map (fun p => (on p.2.queue).filterMap (·.slot))).flatten
  let finds := fun (p : Search → Bool) => (kvals s.drift.searches).filterMap (fun x => match x.owner with
    | .request n _ => if p x then some n else none
    | .peer .. => none)
  let waitingFor := fun (p : PageKey → Page → Bool) => ((s.cage.pages.filter (fun q => p q.1 q.2)).map (fun q =>
    q.2.waiters.filterMap (fun w => match w with
      | .request n _ => some n
      | _ => none))).flatten
  let steps := fun (p : Nat → Req → Bool) => ((requests s).filter (fun r => p r.1 r.2)).map (·.1)
  let held :=
    if u.cls = 1 then s.cage.pages.filterMap (fun q => if q.1.kind = 1 && q.2.frame.map (·.1) == some u.idx then some q.1.obj else none)
    else if u.cls = 2 || u.cls = 3 then finds (fun x => searchOn x u.idx)
    else if u.cls = 9 then (s.store.batches.filter (fun b => b.port == u.idx)).filterMap (·.slot)
    else if u.cls = 0xA then waitingFor (fun k p => pageMoves p && firstUnit s k.claim 0xA == some u.idx)
    else if u.cls = 0x11 then finds (fun _ => true)
    else if u.cls = 0xC then (s.haul.streams.filter (fun x => x.2.group == u.idx)).map (·.1)
    else if u.cls = 0xF then steps (fun _ r => r.steps.any (fun t => t.staging == some u.idx))
    else if u.cls = 0xB then steps (fun _ r => firstUnit s r.claim 0xB == some u.idx &&
      ((List.range r.steps.length).any (fun i => (stepSt r i).st == 1 &&
        (((planOf r)[i]?).map (fun t => t.typ == 8 || t.typ == 9)).getD false)))
    else []
  (dedup (cmds ++ held)).filter (fun n => (running s n).isSome)

/-! ### The audit (R427, R428) -/

/-- The credits a unit holds by its gate counters, and those its neighbours' record gives it: one a command. -/
def gateHeld (s : State) (u : UnitId) : Nat :=
  let g := kgetD s.hf.gates u {}
  (g.issued - g.returned).toNat
def recordHeld (s : State) (u : UnitId) : Nat :=
  ((s.haul.rosters.filter (fun p => rosterIs u p.1 && u.cls != 0)).map (fun p => p.2.queue.length)).sum

/-- The audit of a unit's pool: the credits it held return and its gates balance; a mismatch is module-fatal. -/
def audit (s : State) (u : UnitId) : State :=
  let held := gateHeld s u
  let bad := u.cls != 0 && held != recordHeld s u
  let s1 := dropCmds s (fun k q => if u.cls != 0 && rosterIs u k then [] else q)
  let g := kgetD s1.hf.gates u {}
  let s2 := { s1 with hf := { s1.hf with
    gates := if khas s1.hf.gates u then kset s1.hf.gates u { g with returned := g.issued } else s1.hf.gates
    fences := kmod s1.hf.fences u (fun f => { f with returned := min 65535 held })
    audits := satAdd 32 s1.hf.audits 1, lastReturned := held } }
  if bad then moduleFatal s2 6 (some u) else s2

/-! ### The pages of a fenced Lode (R422, R423) -/

/-- What becomes of a page whose frame lay on a fenced Lode; one that a command waits for is loaded again for it, or ends it. -/
def fencePage (s : State) (q : PageKey × Page) : State :=
  let (k, p) := q
  let lose := fun (s : State) =>
    let s1 := losePage s k
    { s1 with boot := { s1.boot with err := s1.boot.err ||| 2 } }
  let outTo := fun (st : PageSt) (h : Option Nat) => reloadPage s k { p with st := st, host := h }
  if k.kind = 1 then delPage s k
  else if p.st == .promoting then
    queueAlloc (setPage s k { p with st := if hasLower k p && p.src != .address then .lower else .invalid, frame := none }) k
  else if k.kind = 4 || k.kind = 5 && dirtyOf k p != 0 && decide (k.obj < 64) then
    if k.kind = 4 && dirtyOf k p = 0 then outTo .lower p.host else lose s
  else if p.perm then queueAlloc (setPage s k { p with st := .lower, frame := none, dirty := 0 }) k
  else if k.kind = 5 then outTo .lower none
  else if p.st == .demoting then outTo .invalid none
  else outTo (if hasLower k p then .lower else .invalid) p.host

/-- The pages on a fenced Lode handled, and its page buffers empty. -/
def fenceLode (s : State) (l : Nat) : State :=
  let on := s.cage.pages.filter (fun q => q.2.frame.map (·.1) == some l)
  let s1 := on.foldl fencePage s
  let leave := fun (p : Page) =>
    let p1 := if p.old.map (·.1) == some l then { p with old := none } else p
    if p1.buf == some l then { p1 with buf := none, copying := false, waiters := if p1.copying then [] else p1.waiters } else p1
  { s1 with cage := { s1.cage with
    pages := s1.cage.pages.map (fun q => (q.1, leave q.2))
    lodes := lmod s1.cage.lodes l (fun d => { d with waiting := [] }) } }

/-- While the reservations of a claim exceed the pages that remain, the one granted last ends (R423). -/
def recheck (fuel : Nat) (s : State) (c detail : Nat) : State :=
  match fuel with
  | 0 => s
  | fuel + 1 =>
    if booked s c ≤ reservable s c then s
    else
      let gr := (requests s).filter (fun r => r.2.claim == c && r.2.gen.granted && r.2.commit.isNone)
      match leastBy (fun a b => decide (b.2.bind.order < a.2.bind.order)) gr with
      | none => s
      | some (n, _) =>
        let s1 := modReq (commitReq s n 9 detail) n (fun r => { r with gen := { r.gen with granted := false, resv := 0 } })
        recheck fuel { s1 with boot := { s1.boot with err := s1.boot.err ||| 4 } } c detail

/-! ### Fencing (R421) -/

/-- The searches that peers asked for dropped where they work on a unit: no ANSWER is sent (R432). -/
def dropPeerWork (s : State) (u : UnitId) : State :=
  let hit := fun (x : Search) => match x.owner with
    | .request .. => false
    | .peer .. => if u.cls = 0x11 then true else (u.cls == 2 || u.cls == 3) && searchOn x u.idx
  let gone := (s.drift.searches.filter (fun p => hit p.2)).map (·.1)
  (List.range 4).foldl (fun s c => dropRemote s c (fun w => match w.search with
    | some n => gone.contains n
    | none => false)) s

/-- The batches of no request at a fenced gather port gone: its gate answers in their place (R420). -/
def dropPort (s : State) (u : UnitId) : State :=
  if u.cls = 9 then { s with store := { s.store with batches := s.store.batches.filter (fun b => b.port != u.idx) } } else s

/-- A unit fenced with a cause; nothing happens to one that is fenced. -/
def fenceUnit (s : State) (u : UnitId) (cause : Nat) : State :=
  if ((kget s.hf.fences u).map (·.st)).getD 0 = 2 || unitCount u.cls ≤ u.idx then s
  else
    let d := unitDetail u cause
    let work := unitWork s u
    let owner := unitOwner s u
    let s1 := faultEvent s 4 d
    let s2 := { s1 with hf := { s1.hf with fences := kset s1.hf.fences u { st := 2, cause := cause, ended := min (2 ^ 32 - 1) work.length, returned := 0 } } }
    let s3 := audit s2 u
    let s4 := dropPort (dropPeerWork (work.foldl (fun s n => commitReq s n 9 d) s3) u) u
    let s5 := if u.cls = 1 then fenceLode s4 u.idx else if u.cls = 0xD then linkDown s4 u.idx 0 else s4
    let s6 := match owner with
      | some c => if u.cls = 1 then recheck ((requests s5).length + 1) s5 c d else s5
      | none => s5
    let s7 := match wholeDomain u with
      | some n => modDomain s6 n (fun x => { x with on := false })
      | none => s6
    let s8 := { s7 with boot := { s7.boot with err := s7.boot.err ||| 1 ||| (if cause = 6 then 8 else 0) } }
    settlePages (runCmds s8)

/-! ### Spares and replacement (R404, R409) -/

/-- A roster's commands, position and deficits moved to the same class's unit `i`; each unit keeps the count of its own shifts. The
credits that the commands hold pass from one unit's gates to the other's. -/
def moveRoster (s : State) (k : RUnit) (r : RosterRun) (i : Nat) : State :=
  let dst : RUnit := { k with unit := i }
  let n := r.queue.length
  let s1 := gateReturn s ⟨unitClass k.engine, k.unit⟩ n
  let g := kgetD s1.hf.gates ⟨unitClass k.engine, i⟩ {}
  let t := s1.haul.rosters
  { s1 with
    haul := { s1.haul with rosters := kset (kset t k { shifts := r.shifts }) dst { r with shifts := (kgetD t dst {}).shifts } }
    hf := if n = 0 then s1.hf else { s1.hf with gates := kset s1.hf.gates ⟨unitClass k.engine, i⟩ { g with issued := g.issued + BitVec.ofNat 32 n } } }

/-- A claim's spare takes a unit's place (R409, R411): in its rosters, at its gather port, with its stream shapers. -/
def takePlace (s : State) (c : Nat) (u : UnitId) (i : Nat) : State :=
  let s1 := (s.haul.rosters.filter (fun p => p.1.claim == c && rosterIs u p.1 && u.cls != 0)).foldl (fun s p => moveRoster s p.1 p.2 i) s
  if u.cls = 9 then
    { s1 with store := { s1.store with batches := s1.store.batches.map (fun b => if b.port = u.idx then { b with port := i } else b) } }
  else if u.cls = 0xC then
    { s1 with haul := { s1.haul with streams := s1.haul.streams.map (fun x => if x.2.group = u.idx then (x.1, { x.2 with group := i }) else x) } }
  else s1

/-- A claim's spare of a class that can take a unit's place: another unit, neither fenced nor under test. -/
def readySpare (s : State) (c : Nat) (u : UnitId) : Option Nat :=
  (kget s.power.classSpares (c, u.cls)).filter (fun i => i != u.idx && ((kget s.hf.fences ⟨u.cls, i⟩).map (·.st)).getD 0 == 0
    && !s.power.testing.any (fun t => t.unit == ⟨u.cls, i⟩))

/-- A unit that cannot hold the floor, other than an array: its claim's spare takes its place, or it is fenced. -/
def replaceUnit (s : State) (u : UnitId) : State :=
  match (unitOwner s u).bind (fun c => (readySpare s c u).map (fun i => (c, i))) with
  | none => fenceUnit s u 4
  | some (c, i) => takePlace { s with power := { s.power with
      classSpares := kdel s.power.classSpares (c, u.cls), replaced := s.power.replaced ++ [u] } } c u i

end Sys2Proof.Machine
end

