-- ==== Sys2Proof/Machine/Clock.lean ====
section
/-! DEFINITION. Time as the registers show it (15 HA_CLOCK, 19 R434 to R436). The model has no clock of its own: what has
passed since a counter was last looked at is a free value (log 40), so a counter never goes back but at its width. -/

namespace Sys2Proof.Machine

/-- A unit's time counters moved on: busy, idle and each reason of R435 by free amounts, stalled as the sum of the
reasons. -/
def passTime (s : State) (u : UnitTime) : UnitTime × State :=
  let (b, s1) := takeFree s
  let (i, s2) := takeFree s1
  let (rs, s3) := (List.range 13).foldl (fun (acc : AMap Nat × State) k =>
    let (x, t) := takeFree acc.2
    (kset acc.1 (k + 1) (kgetD acc.1 (k + 1) 0 + x), t)) (u.reasons, s2)
  ({ busy := u.busy + b, idle := u.idle + i, reasons := rs, stalled := (kvals rs).sum }, s3)

/-- The live time counters of a unit of a claim's roster classes moved on, where the claim runs and the unit is in
service (R434). -/
def passUnit (s : State) (k : RUnit) : State :=
  if claimRuns s k.claim && (claimUnits s k.claim (unitClass k.engine)).contains k.unit && unitOk s (unitClass k.engine) k.unit then
    let (u, s1) := passTime s (kgetD s.watch.live.units k {})
    { s1 with watch := { s1.watch with live := { s1.watch.live with units := kset s1.watch.live.units k u } } }
  else s

/-- The output wait of a claim that runs, moved on (R433). -/
def passWait (s : State) (c : Nat) : State :=
  if claimRuns s c then
    let (x, s1) := takeFree s
    let b := s1.watch.live
    { s1 with watch := { s1.watch with live := { b with claims := lmod b.claims c (fun t => { t with outputWait := t.outputWait + x }) } } }
  else s

/-- Every live time counter of Tally moved on to one instant (R437). -/
def passAll (s : State) : State :=
  let keys := ((List.range 4).map (fun c => ((List.range 11).map (fun e =>
    (claimUnits s c (unitClass e)).map (fun i => (⟨c, e, i⟩ : RUnit)))).flatten)).flatten
  (List.range 4).foldl passWait (keys.foldl passUnit s)

/-- HA_CLOCK moved on once Haulage is calibrated. -/
def passClock (s : State) : State :=
  if s.haul.calState = 1 then
    let (x, s1) := takeFree s
    { s1 with haul := { s1.haul with clock := s1.haul.clock + BitVec.ofNat 64 x } }
  else s

/-- The unit TL_SEL selects, with the claim that owns it. -/
def tallyUnit (s : State) : RUnit :=
  let e := bits s.watch.tlSel.toNat 19 16
  let i := bits s.watch.tlSel.toNat 13 8
  ⟨((List.range 4).find? (fun c => decide (e ≤ 10) && (claimUnits s c (unitClass e)).contains i)).getD 0, e, i⟩

/-- The counter a read looks at, moved on: HA_CLOCK, a live time counter of the selected unit, or the live output wait of
the selected claim. -/
def passRead (s : State) (off : Nat) : State :=
  let rel := off - 0xB00000
  let live := !bit s.watch.tlSel.toNat 24
  if off = 0xA00008 then passClock s
  else if decide (0xB00008 ≤ off) && decide (rel < 0xA0) && live then passUnit s (tallyUnit s)
  else if off = 0xB00190 && live then passWait s (bits s.watch.tlSel.toNat 23 20)
  else s

end Sys2Proof.Machine
end

