-- ==== Sys2Proof/Machine/Claims.lean ====
section
/-! DEFINITION. The life of a claim (15 R355 to R359) and the self-tests (17 R410 to R414, 18 R425). -/

namespace Sys2Proof.Machine

/-! ### CLAIM_START (R357) -/

/-- Whether an image load holds a CLAIM_START of a claim back (R49, R474). -/
def loadHolds (s : State) (c : Nat) : Bool :=
  match s.hf.load with
  | some j => j.kind == 0 || (j.kind == 1 && j.claim == c)
  | none => false

/-- The state with an Adit link at its training, its identity and error of identity forgotten. -/
def trainLink (s : State) (l : Nat) : State :=
  modLink s l (fun x => { x with st := 1, laneMask := 0, miswire := 0, peer := none, crcRun := 0 })

/-- Step 2 of R357: the units are powered in ascending order (R401), those that were to be switched off stay on (R400), the links train and the incarnation advances (R382,
R385); nothing changes where R47 or R308 do not allow the start. -/
def beginStart (s : State) (c : Nat) (o : Origin) : State :=
  match cfgOf s c with
  | none => bad s o 0x20
  | some g =>
    if (claimOf s c).st != 1 then bad s o 0x20
    else if 0 < kgetD g.pools 0x10 0 && s.cage.hostBase.getD c 0 == 0 then bad s o 0x21
    else
      let own := sortBy (fun a b => decide (a < b)) (ownDomains g.own)
      let off := own.filter (fun d => !(domainOf s d).on && !domainFenced s d)
      let s := { s with power := { s.power with switching := s.power.switching.filter (fun x => x.2 || !own.contains x.1) } }
      let s1 := modClaim s c (fun x => { x with starting := some ⟨o, 2⟩ })
      let s2 := modGang s1 c (fun x => { x with incarnation := x.incarnation + 1, lost := 0 })
      let s3 := (bitList 48 g.own.aditMask).foldl (fun s l => if unitOk s 0xD l then trainLink s l else s) s2
      switchDomains s3 (off.map (fun d => (d, true)))

/-- A page read from flash into the LEDGER pool and pinned there (R135, R193, R316), where a frame is free. -/
def pinPage (s : State) (k : PageKey) : State :=
  match placeFor s k with
  | none => s
  | some l => touch (setPage s k { st := .resident, frame := some (l, frameNo s l), perm := true, loaded := true }) k

/-- The permanent pins of a claim: upper areas (even objects from 1024) and allocation maps (odd ones) of pits (R135, R173),
version bitmaps (objects from 64) and RESIDENT ledgers (R193). -/
def pinClaim (s : State) (c : Nat) (g : ClaimCfg) : State :=
  let pin := fun (obj n : Nat) (s : State) => (List.range n).foldl (fun s i => pinPage s ⟨c, 5, obj, i⟩) s
  let s1 := g.pits.foldl (fun s p => pin (1025 + 2 * p.1) (mapPages p.2.sec) (pin (1024 + 2 * p.1) (pagesFor p.2.sec.upperBytes) s)) s
  g.ledgers.foldl (fun s l =>
    let s2 := (List.range (pagesFor ((l.2.sec.maxRows + 7) / 8))).foldl (fun s i => pinPage s ⟨c, 5, 64 + l.1, i⟩) s
    pinResident s2 c l.1) s1

/-- Every policer of a claim full, on the profile of its tenant (R357 step 4, R372). -/
def fillPolicers (s : State) (c : Nat) (g : ClaimCfg) (sec : ShaperSec) : State :=
  let ps := (tenantsOf g.own).map (fun t =>
    let i := byteAt sec.policerMap t
    ((c, t), ({ micro := 1000000 * (sec.police.getD i ⟨0, 0⟩).burst, profile := i, refused := (kgetD s.haul.policers (c, t) {}).refused } : Policer)))
  { s with haul := { s.haul with policers := (s.haul.policers.filter (fun p => p.1.1 != c)) ++ ps } }

/-- The egress buckets of a section full (R372). -/
def fillEgress (s : State) (g : ClaimCfg) (sec : ShaperSec) : State :=
  let es := (sec.egress.map (fun e => ((List.range 8).zip e.classes).map (fun p => ((e.link, p.1), ((p.2.burst : Nat) : Int))))).flatten
  { s with haul := { s.haul with egress := (s.haul.egress.filter (fun x => !bit g.own.aditMask x.1.1)) ++ es } }

/-- The SHAPER section in force of a claim put in use with full buckets, or every policer unlimited (R371). -/
def startShaper (s : State) (c : Nat) (g : ClaimCfg) : State :=
  match g.shaper with
  | none => { s with haul := { s.haul with
      shapers := kdel s.haul.shapers c, policers := s.haul.policers.filter (fun p => p.1.1 != c)
      egress := s.haul.egress.filter (fun x => !bit g.own.aditMask x.1.1) } }
  | some i => fillEgress (fillPolicers { s with haul := { s.haul with shapers := kset s.haul.shapers c i.sec } } c g i.sec) g i.sec

/-- Every gate list of a claim at its first window (R357 step 4). -/
def startGates (s : State) (g : ClaimCfg) : State :=
  let ls := (g.gates.map (fun i => i.sec.map (fun e => (e.link, ({ windows := e.windows } : GateRun))))).getD []
  { s with haul := { s.haul with gates := (s.haul.gates.filter (fun x => !bit g.own.aditMask x.1)) ++ ls } }

/-- What restarts at CLAIM_START (R200, R364, R431, R433): counters and peaks since CLAIM_START, rosters, bin maps,
windows. -/
def restartClaim (s : State) (c : Nat) : State :=
  let led := fun (x : (Nat × Nat) × LedgerStore) => if x.1.1 = c then
    (x.1, { x.2 with bins := [], fetches := [], lastLoads := [], moves := [], binsMoved := 0, st := 1 }) else x
  let pit := fun (x : (Nat × Nat) × PitStore) => if x.1.1 = c then (x.1, { x.2 with migrated := 0, hot := [], window := [], reads := [] }) else x
  { s with
    store := { s.store with
      ledgers := s.store.ledgers.map led, pits := s.store.pits.map pit, gather := lmod s.store.gather c (fun _ => {})
      windows := s.store.windows.map (fun w => w.filter (fun e => e.claim != c))
      batches := s.store.batches.filter (fun b => b.claim != c) }
    drift := { s.drift with peak := lmod s.drift.peak c (fun _ => 0) }
    haul := { s.haul with rosters := s.haul.rosters.filter (fun p => p.1.claim != c) }
    watch := { s.watch with
      live := { s.watch.live with
        claims := lmod s.watch.live.claims c (fun _ => {}), units := s.watch.live.units.filter (fun u => u.1.claim != c) }
      lamp := lmod s.watch.lamp c (fun l => { l with issues := [] })
      dumps := lmod s.watch.dumps c (fun _ => 0) }
    cage := { s.cage with ages := s.cage.ages.filter (fun a => a.1.1 != c) } }

/-- Models without weights READY: nothing of them is to be loaded or checked (R234, log 38). -/
def readyEmpty (s : State) (c : Nat) (g : ClaimCfg) : State :=
  let ms := (g.models.filter (fun m => m.2.sec.weightBytes == 0 && kgetD s.face.models (c, m.1) 0 == 0)).map (·.1)
  { s with face := { s.face with models := ms.foldl (fun t m => kset t (c, m) 2) s.face.models } }

/-- Steps 3 to 5 of R357. -/
def finishStart (s : State) (c : Nat) (o : Origin) : State :=
  match cfgOf s c with
  | none => s
  | some g =>
    let s1 := pinClaim (readyEmpty (restartClaim s c) c g) c g
    let s2 := startGates (startShaper s1 c g) g
    let s3 := modClaim s2 c (fun x => { x with st := 2, starting := none })
    doneWith s3 o (leBytes 2 (gangOf s3 c).incarnation.toNat)

/-- Whether the domains and the seam dies let a start go on (R357 steps 2 and 3). -/
def startReady (s : State) (c : Nat) : Bool :=
  match cfgOf s c with
  | none => false
  | some g => (ownDomains g.own).all (fun d => !s.power.switching.contains (d, true))
      && (seamsOf s c).all (fun i => (dieOf s (i / 16)).st == 2)

/-- The starts that wait gone on with, as far as they go. -/
def goStarts (s : State) : State :=
  (List.range 4).foldl (fun s c =>
    match (claimOf s c).starting with
    | none => s
    | some j =>
      let s1 := if j.step = 0 && !loadHolds s c then beginStart (modClaim s c (fun x => { x with starting := none })) c j.origin else s
      match (claimOf s1 c).starting with
      | some k => if k.step = 2 && startReady s1 c then finishStart s1 c k.origin else s1
      | none => s1) s

/-- The reserved bytes of a management descriptor with a CLAIM field, and the field's bits above those used (R12, R472). -/
def claimFieldZero (l : List Byte) : Bool := decide (byteAt l 16 < 4) && zeroAt l 17 111

/-- CLAIM_START (R357, R359, R473). -/
def opClaimStart (m : MDesc) (s : State) : State :=
  mgmtDesc s m (· == 0x81) claimFieldZero (fun s o l =>
    let c := byteAt l 16
    if (claimOf s c).starting.isSome then bad s o 0x20
    else if loadHolds s c then modClaim s c (fun x => { x with starting := some ⟨o, 0⟩ })
    else goStarts (beginStart s c o))

/-- The meaning of CLAIM_START. -/
def execClaimStart (m : MDesc) (s : State) : Host.Outcome State Fault Refusal := .next (opClaimStart m s)

/-! ### CLAIM_END (R358) -/

/-- A leaving notice on class 0 of every UP link of a claim (R394). -/
def sendLeaving (s : State) (c : Nat) : State :=
  let ls := (List.range 48).filter (fun l => (linkOf s l).st == 2 && linkOwner s l == some c)
  ls.foldl (fun s l =>
    let m : AdMsg :=
      { src := moduleIdOf s c, dst := ((linkOf s l).peer.map (·.moduleId)).getD 0, step := 0, incarnation := (gangOf s c).incarnation
        peerSeq := 0, handle := 0, home := moduleIdOf s c, tenant := 0, object := 0, payload := [3] }
    emit s (.adit l 0 m)) s

/-- CLAIM_END: step 1 of R358. -/
def opClaimEnd (m : MDesc) (s : State) : State :=
  mgmtDesc s m (· == 0x82) claimFieldZero (fun s o l =>
    let c := byteAt l 16
    if (claimOf s c).st = 3 then done s o 0x0E 0
    else if (claimOf s c).st != 2 then bad s o 0x20
    else sendLeaving (modClaim s c (fun x => { x with st := 3, ending := some o })) c)

/-- The meaning of CLAIM_END. -/
def execClaimEnd (m : MDesc) (s : State) : Host.Outcome State Fault Refusal := .next (opClaimEnd m s)

/-- The flash pages of a ledger's area that its Lode pages hold newer contents of. -/
def dirtyFlash (s : State) (c l : Nat) : List Nat :=
  ((s.cage.pages.filter (fun q => ofObj c 5 l q.1 && q.2.st != .quarantined)).map (fun q =>
    ((List.range 4).filter (fun i => q.2.dirty >>> (128 * i) % 2 ^ 128 != 0)).map (fun i => 4 * q.1.idx + i))).flatten

/-- The SCATTER ledgers of a claim written back to their active areas: every page with scatter-adds since its last write-back is
programmed; rows on quarantined pages are skipped (R195). -/
def writeBack (s : State) (c : Nat) : State :=
  s.store.ledgers.foldl (fun s x =>
    let l := x.1.2
    match (ledgerSecOf s c l).filter (fun sec => x.1.1 == c && sec.scatter) with
    | none => s
    | some sec =>
      let lost : Nat → Bool := fun r => isQuarantined s (rowKey s c l r)
      let t := ledgerOf s c l
      let out := (dirtyFlash s c l).map (areaPlace sec t.live.active)
      if out.isEmpty then s
      else
        let d := { t.live with rows := t.live.rows.map (fun p => if lost p.1 then (p.1, kgetD t.dur.rows p.1 {}) else p) }
        let (gs, s1) := issueAll (modPages s (ofObj c 5 l) (fun p => { p with dirty := 0 })) out
        modLedger s1 c l (fun t => { t with live := d, snaps := t.snaps ++ [(gs, d)] })) s

/-- Whether every change of a claim's ledgers is durable. -/
def ledgersSettled (s : State) (c : Nat) : Bool := s.store.ledgers.all (fun x => x.1.1 != c || x.2.snaps.isEmpty)

/-- Step 3 of R358, after the write-back of SCATTER ledgers: prefixes, command pins, ledger pages and the WEIGHT pool (R224, R315,
R325). -/
def releaseClaim (s : State) (c : Nat) : State :=
  let s2 := { s with face := { s.face with
    prefixes := s.face.prefixes.filter (fun p => p.2.claim != c)
    models := s.face.models.filter (fun m => m.1.1 != c || m.2 == 3) } }
  let s3 := dropPages s2 (fun k => k.claim == c && (k.kind == 4 || k.kind == 5 || k.kind == 2))
  let s4 := modPages s3 (fun k => k.claim == c) (fun p => { p with cmd := 0 })
  { s4 with
    cage := { s4.cage with allocs := s4.cage.allocs.filter (fun k => k.claim != c) }
    store := { s4.store with gather := lmod s4.store.gather c (fun g => { g with cache := [] }) } }

/-- Step 5 of R358: LOADED, its domains powered down in descending order where no other claim needs them, its links OFF,
and the management completion. -/
def finishEnd (s : State) (c : Nat) : State :=
  match (claimOf s c).ending, cfgOf s c with
  | some o, some g =>
    let s1 := modClaim s c (fun x => { x with st := 1, ending := none })
    let s2 := dropRemote s1 c (fun _ => true)
    let s3 := modGang s2 c (fun x => { x with peers := [] })
    let s4 := (bitList 48 g.own.aditMask).foldl (fun s l =>
      let s' := modLink s l (fun x => { x with st := 0, laneMask := 0, peer := none, calibrating := false })
      { s' with haul := { s'.haul with frames := s'.haul.frames.filter (fun f => f.1.1 != l) } }) s3
    let s5 := { s4 with haul := { s4.haul with
      shapers := kdel s4.haul.shapers c, gates := s4.haul.gates.filter (fun x => !bit g.own.aditMask x.1)
      rosters := s4.haul.rosters.filter (fun p => p.1.claim != c) } }
    let down := (sortBy (fun a b => decide (b < a)) (ownDomains g.own)).filter (fun d =>
      !(List.range 4).any (fun x => neededBy s5 x d))
    let s6 := settlePools ((bitList 48 g.own.aditMask).foldl (fun s l => endEffect s (.gate l)) (endEffect s5 (.shaper c)))
    done (switchDomains s6 (down.map (fun d => (d, false)))) o 0 0
  | _, _ => s

/-- The tests of a claim that are under way or wait. -/
def testsLeft (s : State) (c : Nat) : Bool :=
  s.power.testing.any (fun t => t.claim == c) || s.power.tests.any (fun t => t.claim == c)

/-- A unit's fence entry set to a state, its last cause kept. -/
def setFenceSt (s : State) (u : UnitId) (st : Nat) : State :=
  { s with hf := { s.hf with fences := kset s.hf.fences u { kgetD s.hf.fences u {} with st := st } } }

/-- Whether batches at gather ports or window entries of a claim are left. -/
def gathersLeft (s : State) (c : Nat) : Bool :=
  s.store.batches.any (fun b => b.claim == c) || s.store.windows.flatten.any (fun e => e.claim == c)

/-- CLAIM_END_DRAINED (R358 steps 3 to 5): when the last request, command and scatter-add of an ENDING claim are over, its SCATTER
ledgers are written back; once that is durable its objects are released and its deferred self-tests run; where there are none
left the claim returns to LOADED. -/
def opClaimEndDrained (claim : Nat) (s : State) : State :=
  let left := (requests s).any (fun r => r.2.claim == claim) || s.cmds.any (fun x => x.o.claim == claim)
    || (claimOf s claim).adjust.isSome || s.watch.arms.any (fun a => a.claim == claim) || gathersLeft s claim
  if alive s && (claimOf s claim).st == 3 && decide (claim < 4) && !left && !testsLeft s claim then
    let s0 := writeBack s claim
    if !ledgersSettled s0 claim then s0
    else
    let s1 := releaseClaim s0 claim
    let due := s1.power.deferred.filter (fun d => d.2 == claim && ((kget s1.hf.fences d.1).map (·.st)).getD 0 == 0)
    let s2 := { s1 with power := { s1.power with
      deferred := s1.power.deferred.filter (fun d => d.2 != claim)
      testing := s1.power.testing ++ due.map (fun d => ⟨d.1, claim, false, none⟩) } }
    let s3 := due.foldl (fun s d => setFenceSt s d.1 3) s2
    if due.isEmpty then finishEnd s3 claim else s3
  else s

/-- The meaning of CLAIM_END_DRAINED. -/
def execClaimEndDrained (claim : Nat) (s : State) : Host.Outcome State Fault Refusal := .next (opClaimEndDrained claim s)

/-! ### Self-tests (R410 to R413) -/

/-- The unit that is spare for another of its class: the bank's spare array, or the class's by the plan. -/
def spareFor (s : State) (c : Nat) (u : UnitId) : Option Nat :=
  if u.cls = 0 then kget s.power.spares (u.idx / 8) else kget s.power.classSpares (c, u.cls)

/-- The lanes in use of an Adit link. -/
def linkWidth (s : State) (l : Nat) : Nat := popcount 4 (linkOf s l).laneMask.toNat

/-- Whether a test of a unit is deferred to job end: it has no spare, or its link has one lane (R412, R413). -/
def testDefers (s : State) (c : Nat) (u : UnitId) : Bool :=
  if u.cls = 0xD then decide (linkWidth s u.idx ≤ 1) else (spareFor s c u).isNone

/-- The classes of R410. -/
def testClass (cls : Nat) : Bool := cls ≤ 2 || (4 ≤ cls && cls ≤ 0xD)

/-- SELFTEST_REQUEST (R410, R412). -/
def opSelftestRequest (d : Desc) (s : State) : State :=
  plainCommand s d 0x13 (fun l => byteAt l 18 / 2 == 0 && zeroAt l 19 109) (fun s o l =>
    let u : UnitId := ⟨byteAt l 16, byteAt l 17⟩
    let force := byteAt l 18 % 2 == 1
    if !(testClass u.cls && ownsUnit s o.claim u && !s.power.retired.contains u) then bad s o 0x16
    else if testDefers s o.claim u && !force then
      let q := s.power.deferred
      done { s with power := { s.power with deferred := if q.contains (u, o.claim) then q else q ++ [(u, o.claim)] } } o 0x0F 0
    else { s with power := { s.power with tests := s.power.tests ++ [⟨u, o.claim, force, some o⟩] } })

/-- The meaning of SELFTEST_REQUEST. -/
def execSelftestRequest (d : Desc) (s : State) : Host.Outcome State Fault Refusal := .next (opSelftestRequest d s)

/-- Whether two tests go one at a time: of one bank, or of one class of a claim with a spare (R411). -/
def sameSpare (a b : TestReq) : Bool :=
  a.unit.cls == b.unit.cls && (if a.unit.cls = 0 then a.unit.idx / 8 == b.unit.idx / 8 else a.claim == b.claim)

/-- Whether the spare can take a unit's place. -/
def spareFree (s : State) (t : TestReq) (sp : Nat) : Bool :=
  ((kget s.hf.fences ⟨t.unit.cls, sp⟩).map (·.st)).getD 0 == 0 && !s.power.testing.any (fun x => sameSpare x t)

/-- SELFTEST_RUN (R411, R412): the first test asked of a unit starts. A unit that is the spare, or that has none, is
tested itself; otherwise the spare takes its place at the shift boundary. -/
def opSelftestRun (cls idx : Nat) (s : State) : State :=
  let u : UnitId := ⟨cls, idx⟩
  match s.power.tests.find? (fun t => t.unit == u) with
  | none => s
  | some t =>
    let idle := ((kget s.hf.fences u).map (·.st)).getD 0 == 0 && !s.power.testing.any (fun x => x.unit == u)
    let start := fun (s : State) =>
      setFenceSt { s with power := { s.power with tests := s.power.tests.filter (fun x => x != t), testing := s.power.testing ++ [t] } } u 3
    if !(alive s && idle) then s
    else if cls = 0xD then
      let s1 := { s with power := { s.power with tests := s.power.tests.filter (fun x => x != t), testing := s.power.testing ++ [t] } }
      modLink s1 idx (fun x => { x with calibrating := true })
    else
      match spareFor s t.claim u with
      | none => if atBoundary s u then start s else s
      | some sp =>
        if sp = idx then (if s.power.testing.any (fun x => sameSpare x t) then s else start s)
        else if spareFree s t sp && atBoundary s u then
          let s1 := if cls = 0 then { s with power := { s.power with spares := kset s.power.spares (idx / 8) idx } }
            else takePlace { s with power := { s.power with classSpares := kset s.power.classSpares (t.claim, cls) idx } } t.claim u sp
          start s1
        else s

/-- The meaning of SELFTEST_RUN. -/
def execSelftestRun (cls idx : Nat) (s : State) : Host.Outcome State Fault Refusal := .next (opSelftestRun cls idx s)

/-- A unit's registers after a UNIT reset (R431): Live and RW fields as after reset, counts and W1C bits kept. -/
def resetUnit (s : State) (u : UnitId) : State :=
  if u.cls = 1 then
    { s with cage := { s.cage with lodes := lmod s.cage.lodes u.idx (fun d => { d with fn := 0, waiting := [], staged := [] }) } }
  else if u.cls = 0xE then { s with banks := lmod s.banks u.idx (fun b => { b with staged := [] }) }
  else if u.cls = 0xD then
    let up := match linkOwner s u.idx with
      | some c => claimRuns s c
      | none => false
    modLink s u.idx (fun x => { st := if up then 1 else 0, fecCorrected := x.fecCorrected, crcRetry := x.crcRetry, err := x.err })
  else s

/-- A unit that rejoins its claim (R425): powered where a claim needs it, off where none does (R43, R400), its registers
reset, its credits balanced. -/
def rejoin (s : State) (u : UnitId) : State :=
  let s1 := setFenceSt s u 0
  let s2 := match wholeDomain u with
    | some d => switchDomain s1 (d, (List.range 4).any (fun c => neededBy s1 c d))
    | none => s1
  resetUnit s2 u

/-- The FENCE commands that waited for a unit's test fence it now (R474). -/
def fenceWaiters (s : State) (u : UnitId) : State :=
  let ws := s.hf.fenceWaits.filter (fun w => w.1 == u)
  let s1 := { s with hf := { s.hf with fenceWaits := s.hf.fenceWaits.filter (fun w => w.1 != u) } }
  ws.foldl (fun s w =>
    let was := ((kget s.hf.fences u).map (·.st)).getD 0 == 2
    let s2 := fenceUnit s u 1
    doneWith s2 w.2 (leBytes 4 (if was then 0 else ((kget s2.hf.fences u).map (·.ended)).getD 0))) s1

/-- The end of an UNFENCE's test (R425): a pass rejoins; on a fail an array is retired, and any other unit stays fenced. -/
def unfenceDone (s : State) (u : UnitId) (o : Origin) (pass : Bool) : State :=
  let s1 := { s with hf := { s.hf with unfences := kdel s.hf.unfences u } }
  let s2 := if pass && !s.power.retired.contains u then rejoin s1 u
    else
      let s2 := setFenceSt s1 u 2
      if u.cls = 0 then retire s2 u
      else match wholeDomain u with
        | some d => modDomain s2 d (fun x => { x with on := false })
        | none => s2
  fenceWaiters (done s2 o 0 (if pass then 0 else 1)) u

/-- SELFTEST_DONE (R409, R411, R412, R414, R425): on a pass the tested unit is the spare, or serves on; on a fail an array,
or a unit whose spare serves, is retired, and any other is fenced; one that was fenced meanwhile stays so. The command completes, and a claim whose last deferred
test this was returns to LOADED. -/
def opSelftestDone (cls idx : Nat) (pass : Bool) (s : State) : State :=
  let u : UnitId := ⟨cls, idx⟩
  if !alive s then s
  else match kget s.hf.unfences u with
  | some o => unfenceDone s u o pass
  | none =>
    match s.power.testing.find? (fun t => t.unit == u) with
    | none => s
    | some t =>
      let bad := !pass || s.power.retired.contains u
      let s1 := { s with power := { s.power with testing := s.power.testing.filter (fun x => x.unit != u) } }
      let s2 := if cls = 0xD then modLink s1 idx (fun x => { x with calibrating := false })
        else if ((kget s.hf.fences u).map (·.st)).getD 0 = 2 then s1 else setFenceSt s1 u 0
      let s3 := if !bad then s2
        else if cls = 0 || (cls != 0xD && spareFor s t.claim u == some idx) then retire s2 u
        else fenceUnit s2 u 5
      let s4 := match t.o with
        | some o => done s3 o 0 (if bad then 1 else 0)
        | none => s3
      if (claimOf s4 t.claim).st == 3 && t.o.isNone && !testsLeft s4 t.claim then finishEnd s4 t.claim else s4

/-- The meaning of SELFTEST_DONE. -/
def execSelftestDone (cls idx : Nat) (pass : Bool) (s : State) : Host.Outcome State Fault Refusal :=
  .next (opSelftestDone cls idx pass s)

/-- ADIT_CALIBRATION (R413): the lanes retrain one at a time while the link runs on the others; a link on one lane
retrains whole. -/
def opAditCalibration (link : Nat) (s : State) : State :=
  let x := linkOf s link
  if alive s && decide (link < 48) && x.calibrating && x.st == 2 then
    if linkWidth s link ≤ 1 then modLink s link (fun x => { x with err := x.err ||| 4 })
    else modLink s link (fun x => { x with err := x.err ||| 8 })
  else s

/-- The meaning of ADIT_CALIBRATION. -/
def execAditCalibration (link : Nat) (s : State) : Host.Outcome State Fault Refusal := .next (opAditCalibration link s)

/-! ### The switching of domains (R401) -/

/-- DOMAIN_SWITCH_GROUP: 50 µs after a group, the next one; starts that waited for it go on. -/
def opDomainSwitchGroup (s : State) : State := if alive s then goStarts (switchGroup s) else s

/-- The meaning of DOMAIN_SWITCH_GROUP. -/
def execDomainSwitchGroup (s : State) : Host.Outcome State Fault Refusal := .next (opDomainSwitchGroup s)

end Sys2Proof.Machine
end

