-- ==== Sys2Proof/Machine/Image.lean ====
section
/-! DEFINITION. Loading and adjusting images: IMAGE_LOAD and IMAGE_ADJUST, the two passes over an image, its commit and
the effects that a running claim waits for (02 R31, R32, R44 to R56, 20 R453). -/

namespace Sys2Proof.Machine

/-! ### The header (R32, R44 step 2) -/

/-- The checks of the header itself, in the order of R44. -/
def headerRules (h : List Byte) (len : Nat) : Chk Unit := do
  let kind := byteAt h 8
  let c := byteAt h 9 % 16
  need (fld h 0 4 == 0x524F504A) cdMagic
  need (byteAt h 4 == 1) cdMajor
  need (fld h 6 2 == 1) cdGeneration
  need (decide (kind ≤ 2)) cdLimit
  need (fld h 16 8 == len && decide (len ≤ 2 ^ 30) && decide (64 + 32 * fld h 10 2 + 132 ≤ len)) cdLength
  need (if kind = 0 then c == 0 else decide (c < 4) || (kind == 2 && c == 0xF)) cdLimit
  need (kind == 2 || fld h 32 2 == 0) cdLimit
  need (byteAt h 34 == 0 && decide (byteAt h 9 < 16) && zeroAt h 35 29) cdReserved

/-- Whether a claim counts as RUNNING for R47: a CLAIM_START of it has been taken. -/
def countsRunning (s : State) (c : Nat) : Bool := (claimOf s c).st == 2 || (claimOf s c).starting.isSome

/-- The conditions of R50 and R52 on IMAGE_ID, ADJ_SEQ and claim; `ring` is the claim of an IMAGE_ADJUST. -/
def baseRules (s : State) (ring : Option Nat) (hc imageId adjSeq : Nat) : Chk Unit := do
  need ((ring.map (· == hc)).getD true) cdBase
  let (base, seq) := if hc = 0xF then (s.hf.moduleImage, s.hf.moduleAdjSeq) else ((claimOf s hc).imageId, (claimOf s hc).adjSeq)
  need (decide (seq < 65535)) cdLimit
  need (imageId == base && adjSeq == seq + 1) cdBase

/-- The claim states of R47, and for a DELTA what it adjusts. -/
def stateRules (s : State) (ring : Option Nat) (h : List Byte) : Chk Unit := do
  let kind := byteAt h 8
  let hc := byteAt h 9 % 16
  need (ring.isNone || kind == 2) cdState
  if kind = 0 then need ((List.range 4).all (fun c => (claimOf s c).st < 2 && !countsRunning s c)) cdState
  else if kind = 1 then need ((claimOf s hc).st == 1 && !countsRunning s hc) cdState
  else do
    need (if hc = 0xF then s.hf.moduleInForce else (claimOf s hc).st == 1 || countsRunning s hc) cdState
    baseRules s ring hc (fld h 24 8) (fld h 32 2)

/-- Step 2 of R44: the length, the header and the states. -/
def step2 (s : State) (ring : Option Nat) (h : List Byte) (len : Nat) : Chk Unit := do
  need (decide (64 ≤ len)) cdLength
  headerRules h len
  stateRules s ring h

/-- The KIND of the image a header begins; 0xFF where the bytes are no header of this format. -/
def kindOf (h : List Byte) (len : Nat) : Nat :=
  if len < 64 || fld h 0 4 != 0x524F504A || byteAt h 4 != 1 || fld h 6 2 != 1 then 0xFF else byteAt h 8

/-- A load as its header gives it. -/
def newJob (o : Origin) (mgmt : Bool) (h : List Byte) (len : Nat) : LoadJob :=
  { origin := o, mgmt := mgmt, phase := 1, kind := kindOf h len, claim := byteAt h 9 % 16, len := len, imageId := fld h 24 8
    header := h, d1 := [], sig := [], keySlot := 0, waits := [] }

/-! ### Jobs: 0 to 3 the IMAGE_ADJUST of a claim, 4 the IMAGE_LOAD -/

/-- A load under way by its number. -/
def jobOf (s : State) (n : Nat) : Option LoadJob := if n = 4 then s.hf.load else (claimOf s n).adjust

/-- The state with a load set or ended. -/
def setJob (s : State) (n : Nat) (j : Option LoadJob) : State :=
  if n = 4 then { s with hf := { s.hf with load := j } } else modClaim s n (fun c => { c with adjust := j })

/-- A load refused with a code of R46 (R44, R51, R53, R473): it ends, and the starts that waited for it go on. For an
IMAGE_ADJUST, HF_ADJUST_STATUS.CLAIM takes the claim of the ring, whatever claim the header names (DESIGN CHOICE, log 105). -/
def refuseJob (s : State) (n : Nat) (j : LoadJob) (code : Nat) : State :=
  let s1 := setJob s n none
  if n = 4 then
    let h := { s1.hf with loadState := 5, refuseCode := code }
    let h1 := if j.kind = 2 then { h with adjCode := code, adjClaim := j.claim } else h
    goStarts (done { s1 with hf := h1 } j.origin 0x0C (0x100 + code))
  else done { s1 with hf := { s1.hf with adjCode := code, adjClaim := n } } j.origin 0x0C 0x18

/-- IMAGE_LOAD: steps 1 and 2 of R44. -/
def opImageLoad (m : MDesc) (header : List Byte) (s : State) : State :=
  mgmtDesc s m (· == 0x80) (fun l => zeroAt l 32 96) (fun s o l =>
    if s.hf.load.isSome then done s o 0x0E 0
    else
      let len := fld l 24 8
      let h := padTo 64 header
      let j := newJob o true h len
      let s1 := setJob { hlGot s 2 (granules (min len 64)) with hf := { s.hf with loadState := 1 } } 4 (some j)
      match step2 s none h len with
      | .error code => refuseJob s1 4 j code
      | .ok _ => s1)

/-- The meaning of IMAGE_LOAD. -/
def execImageLoad (m : MDesc) (header : List Byte) (s : State) : Host.Outcome State Fault Refusal := .next (opImageLoad m header s)

/-- IMAGE_ADJUST: one at a time for a claim, and refused in an ENDING one (R50, R56, R108). -/
def opImageAdjust (d : Desc) (header : List Byte) (s : State) : State :=
  claimDesc s d (· == 0x12) (fun l => zeroAt l 32 96) true (fun s o l =>
    let len := fld l 24 8
    let h := padTo 64 header
    let j := newJob o false h len
    if o.req != 0xFFFFFFFF then bad s o 0x10
    else if (claimOf s o.claim).st = 3 then refuseJob s o.claim j cdState
    else if (claimOf s o.claim).adjust.isSome then done s o 0x0E 0
    else match step2 s (some o.claim) h len with
      | .error code => refuseJob s o.claim j code
      | .ok _ => setJob s o.claim (some j))

/-- The meaning of IMAGE_ADJUST. -/
def execImageAdjust (d : Desc) (header : List Byte) (s : State) : Host.Outcome State Fault Refusal := .next (opImageAdjust d header s)

/-! ### The first pass: digest and signature (R44 steps 3 and 4, R453) -/

/-- The first key slot in a state under which a signature over a digest verifies. -/
def verifySlot (s : State) (st : Nat) (digest sig : List Byte) : Option Nat :=
  (List.range 8).find? (fun i => match s.sec.keys[i]? with
    | some k => k.st == st && ecdsaVerify k.key digest sig
    | none => false)

/-- The state with LOAD_STATE of HF_IMAGE_STATUS set for a step of the IMAGE_LOAD; an IMAGE_ADJUST leaves it (R53). -/
def setLoadState (s : State) (job st : Nat) : State := if job = 4 then { s with hf := { s.hf with loadState := st } } else s

/-- Step 3 of R44: the whole image has been read, and D1 formed; LOAD_STATE becomes VERIFYING. -/
def formDigest (s : State) (job : Nat) (j : LoadJob) (image : List Byte) : State :=
  setJob (setLoadState s job 2) job (some { j with phase := 4, d1 := sha512 (image.take (j.len - 132)), sig := image.drop (j.len - 132) })

/-- Step 4 of R44: the signature over D1 verified against the key slots (R453); the second pass begins. -/
def checkSignature (s : State) (job : Nat) : State :=
  match jobOf s job with
  | none => s
  | some j =>
    match verifySlot s 1 j.d1 j.sig with
    | some i => setJob (setLoadState s job 3) job (some { j with phase := 2, keySlot := i })
    | none => refuseJob s job j (if (verifySlot s 2 j.d1 j.sig).isSome then cdKey else cdSignature)

/-- IMAGE_VERIFY_DONE: steps 3 and 4 of R44, as far as `verified` says: only the first read has completed, or the signature has
been verified too. -/
def opImageVerifyDone (job : Nat) (image : List Byte) (verified : Bool) (s : State) : State :=
  match jobOf s job with
  | none => s
  | some j =>
    if !(reach s && decide (job ≤ 4) && hlCan s 2 5) then s
    else if j.phase = 1 && image.length == j.len then
      let s1 := formDigest (hlGot s 2 (granules image.length)) job j image
      if verified then checkSignature s1 job else s1
    else if j.phase = 4 && verified then checkSignature s job
    else s

/-- The meaning of IMAGE_VERIFY_DONE. -/
def execImageVerifyDone (job : Nat) (image : ReadImage) (s : State) : Host.Outcome State Fault Refusal :=
  .next (opImageVerifyDone job image.bytes image.verified s)

/-! ### The commit (R44 step 7) -/

/-- A PIT section reduced to what lays it out in flash: its defaults and thresholds cleared. -/
def pitLayout (p : PitSec) : PitSec :=
  { p with flatThreshold := 0, defaultBeam := 0, defaultStrands := 0, expandWidth := 0, runVocab0 := none, runVocab1 := none
           shardModules := 0 }

/-- A LEDGER section reduced to what lays it out in flash. -/
def ledgerLayout (l : LedgerSec) : LedgerSec :=
  { l with resident := false, scatter := false, pit := none, vocab := none, hotThreshold := 0, formulas := [] }

/-- The stores of a claim's pits and ledgers under a configuration: contents are kept where the layout in flash is as it was
(R138, R189); where it is another, the store is as one never written (log 32). -/
def relayClaim (s : State) (c : Nat) (g : ClaimCfg) : State :=
  let ps := g.pits.foldl (fun m p =>
    let w := pitLayout p.2.sec
    let old := kgetD m (c, p.1) {}
    kset m (c, p.1) (if old.layout = some w || old.layout = none then { old with layout := some w } else { layout := some w })) s.store.pits
  let ls := g.ledgers.foldl (fun m l =>
    let w := ledgerLayout l.2.sec
    let old := kgetD m (c, l.1) {}
    kset m (c, l.1) (if old.layout = some w || old.layout = none then { old with layout := some w } else { layout := some w })) s.store.ledgers
  { s with store := { s.store with pits := ps, ledgers := ls } }

/-- The stores of every claim of a configuration. -/
def relay (s : State) (cs : List (Option ClaimCfg)) : State :=
  (List.range 4).foldl (fun s c => match (cs[c]?).bind id with
    | some g => relayClaim s c g
    | none => s) s

/-- The spares of a plan: those that the plan before named too stay as they are (R404). -/
def planSpares (s : State) (p : PowerPlan) : KMap (Nat × Nat) Nat :=
  let was := (planInForce s).spares
  p.spares.filterMap (fun r =>
    if was.contains r then (kget s.power.classSpares (r.claim, r.cls)).map (fun i => ((r.claim, r.cls), i))
    else some ((r.claim, r.cls), r.idx))

/-- The commit of a MODULE image (R47, R69, R96, R405): claims LOADED or ABSENT, the rings of an ABSENT claim disabled,
every slot FREE of generation 0, no object of the old configuration left, the plan in force; a CLAIM_START that waits for the
load (R49) still waits. -/
def commitModule (s : State) (j : LoadJob) (es : List Entry) (cfg : ModuleCfg) : State :=
  let claims := (List.range 4).map (fun c => match (cfg.claims[c]?).bind id with
    | some g => ({ st := 1, imageId := j.imageId, cfg := some g, starting := (claimOf s c).starting } : Claim)
    | none => { starting := (claimOf s c).starting })
  let plan := cfg.plan.map (·.sec)
  let free := fun (a : Nat × AdapterSlot) => (a.1, if a.2.ver.isSome then { a.2 with gen := nextAdapterGen a.1 a.2.gen, ver := none } else a.2)
  let s1 := relay s cfg.claims
  { s1 with
    claims := claims
    slots := []
    hl := { s1.hl with rings := s1.hl.rings.filter (fun r => r.1.claim == 4 || ((cfg.claims[r.1.claim]?).bind id).isSome) }
    hf := { s1.hf with
      imgKind := 0, sections := es.length, digest := j.d1, moduleImage := j.imageId, moduleAdjSeq := 0, moduleInForce := true
      plan := cfg.plan, planNow := plan }
    power := { s1.power with classSpares := planSpares { s1 with hf := { s1.hf with planNow := none } } (plan.getD defaultPlan) }
    eng := { s1.eng with badLines := [], badGrammars := [] }
    cage := { s1.cage with pages := [], allocs := [] }
    face := { s1.face with models := [], prefixes := [], adapters := s1.face.adapters.map free } }

/-- The commit of a CLAIM image (R47): the claim's sections replaced and its adjustment sequence 0. -/
def commitClaim (s : State) (j : LoadJob) (es : List Entry) (cfg : ModuleCfg) : State :=
  let c := j.claim
  let g := (cfg.claims[c]?).bind id
  let s1 := modClaim (relay s cfg.claims) c (fun x => { x with cfg := g, imageId := j.imageId, adjSeq := 0 })
  let own := (g.map (fun g => kkeys g.vocabs)).getD []
  { s1 with
    hf := { s1.hf with imgKind := 1, sections := es.length }
    eng := { s1.eng with
      badLines := s1.eng.badLines.filter (fun b => !own.contains b.1)
      badGrammars := s1.eng.badGrammars.filter (fun b => b.1 != c) }
    face := { s1.face with models := s1.face.models.filter (fun m => m.1.1 != c) } }

/-! ### The effects of a DELTA (R54, R55) -/

/-- The stream shapers that a claim's requests hold, full, and the records they hold passed (R372). -/
def fillStreams (s : State) (c : Nat) (sec : Option ShaperSec) : State :=
  let f := fun (x : Nat × Shaper) =>
    if x.2.claim = c then
      let cls := ((reqOf s x.1).map (fun r => rosterClass s c r.tenant)).getD 0
      (x.1, { x.2 with micro := 1000000 * (((sec.map (fun p => (p.stream.getD cls ⟨0, 0⟩).burst)).getD 0 : Nat) : Int) })
    else x
  let s1 := { s with haul := { s.haul with streams := s.haul.streams.map f } }
  (s.haul.streams.filter (fun x => x.2.claim == c)).foldl (fun s x => pumpStream s x.1) s1

/-- A SHAPER section committed on a running claim: at the next refill, or at once where it is added or removed. -/
def shaperEffect (s : State) (c : Nat) (g : ClaimCfg) : State × List Effect :=
  match kget s.haul.shapers c, g.shaper with
  | some _, some _ => (s, [.shaper c])
  | none, none => (s, [])
  | _, n => (fillStreams (startShaper s c g) c (n.map (·.sec)), [])

/-- A GATES section committed on a running claim: each list that runs changes at its next cycle, a new one starts. -/
def gateEffect (s : State) (g : ClaimCfg) : State × List Effect :=
  let runs := (kkeys s.haul.gates).filter (fun l => bit g.own.aditMask l)
  let new := ((g.gates.map (·.sec)).getD []).filter (fun e => !runs.contains e.link)
  let gs := new.foldl (fun m e => kset m e.link ({ windows := e.windows } : GateRun)) s.haul.gates
  ({ s with haul := { s.haul with gates := gs } }, runs.map Effect.gate)

/-- The pools that hold more pages than their new PAGES. -/
def poolWaits (s : State) (c : Nat) : List Effect :=
  ([1, 2, 3, 4, 5, 0x10].filter (fun k => !poolFits s c k)).map (Effect.pool c)

/-- What a committed DELTA of a claim brings about at once, and what it waits for. -/
def deltaEffects (s : State) (c : Nat) (types : List Nat) : State × List Effect :=
  match cfgOf s c with
  | none => (s, [])
  | some g =>
    let run := claimRuns s c
    let (s1, w1) := if run && types.contains 0xC then shaperEffect s c g else (s, [])
    let (s2, w2) := if run && types.contains 0xD then gateEffect s1 g else (s1, [])
    (s2, w1 ++ w2 ++ (if types.contains 1 then poolWaits s2 c else []))

/-- The commit of a DELTA (R51, R52): its sections in force, its sequence advanced; what it waits for. -/
def commitDelta (s : State) (j : LoadJob) (es : List Entry) (cfg : ModuleCfg) : State × List Effect :=
  if j.claim = 0xF then
    ({ s with hf := { s.hf with plan := cfg.plan, moduleAdjSeq := s.hf.moduleAdjSeq + 1 } }, if es.isEmpty then [] else [.plan])
  else
    let c := j.claim
    let reloaded := (es.filter (fun e => e.typ == 7)).map (fun e => (c, e.inst))
    let s1 := modClaim s c (fun x => { x with cfg := (cfg.claims[c]?).bind id, adjSeq := x.adjSeq + 1 })
    let s2 := { s1 with eng := { s1.eng with badGrammars := s1.eng.badGrammars.filter (fun b => !reloaded.contains b) } }
    deltaEffects s2 c (es.map (·.typ))

/-- A committed DELTA: complete at once where it waits for nothing, otherwise once all of it has taken effect. -/
def finishDelta (s : State) (n : Nat) (j : LoadJob) (waits : List Effect) : State :=
  let j1 := { j with phase := 3, waits := waits }
  if n = 4 then
    let s1 := { setJob s 4 none with hf := { s.hf with load := none, loadState := 4, refuseCode := 0, imgKind := 2 } }
    if waits.isEmpty then imageDone s1 j1 else { s1 with hf := { s1.hf with waiting := s1.hf.waiting ++ [j1] } }
  else if waits.isEmpty then imageDone (setJob s n none) j1 else setJob s n (some j1)

/-- The configuration that the second pass reads (R44 step 5). -/
def shadowCfg (s : State) (j : LoadJob) (image : List Byte) : Chk (List Entry × ModuleCfg) := do
  let es ← readEntries j.kind j.claim j.header image
  let cfg ← if j.kind = 0 then moduleCfg s es else if j.kind = 1 then claimCfg s j.claim es
    else if j.claim = 0xF then planCfg s es else deltaCfg s j.claim es
  pure (es, cfg)

/-- The log entry of a committed image (R455): of a MODULE or CLAIM image, or of a DELTA with its new ADJ_SEQ. -/
def logImage (s : State) (j : LoadJob) : State :=
  if j.kind = 2 then
    let seq := if j.claim = 0xF then s.hf.moduleAdjSeq else (claimOf s j.claim).adjSeq
    extendLog s 4 j.claim j.imageId (seq + 65536 * j.keySlot) j.d1
  else extendLog s 3 (if j.kind = 0 then 0xF else j.claim) j.imageId (j.kind + 256 * j.keySlot) j.d1

/-- The commit of an image. -/
def commitJob (s : State) (n : Nat) (j : LoadJob) (es : List Entry) (cfg : ModuleCfg) : State :=
  if j.kind = 2 then
    let (s1, waits) := commitDelta s j es cfg
    finishDelta (logImage s1 j) n j waits
  else
    let s1 := if j.kind = 0 then commitModule s j es cfg else commitClaim s j es cfg
    let s2 := logImage s1 j
    imageDone { s2 with hf := { s2.hf with load := none, loadState := 4, refuseCode := 0 } } j

/-- IMAGE_APPLY_DONE: steps 5 to 7 of R44. -/
def opImageApplyDone (job : Nat) (image : List Byte) (s : State) : State :=
  match jobOf s job with
  | none => s
  | some j =>
    if !(reach s && decide (job ≤ 4) && j.phase == 2 && image.length == j.len && hlCan s 2 5) then s
    else
      let s := hlGot s 2 (granules image.length)
      let base : Chk Unit := if j.kind = 2 then
        baseRules s (if job = 4 then none else some job) j.claim j.imageId (fld j.header 32 2) else .ok ()
      match base.bind (fun _ => shadowCfg s j image) with
      | .error code => refuseJob s job j code
      | .ok (es, cfg) =>
        if sha512 (image.take (j.len - 132)) != j.d1 || image.take 64 != j.header then refuseJob s job j cdChanged
        else goStarts (commitJob s job j es cfg)

/-- The meaning of IMAGE_APPLY_DONE. -/
def execImageApplyDone (job : Nat) (image : List Byte) (s : State) : Host.Outcome State Fault Refusal :=
  .next (opImageApplyDone job image s)

end Sys2Proof.Machine
end

