-- ==== Sys2Proof/Machine/Lamp.lean ====
section
/-! DEFINITION. Lamp's trace records (19 R438 to R441) and the dumps of Watch (R445 to R447). -/

namespace Sys2Proof.Machine

/-! ### Lamp -/

/-- The state with the Lamp of a claim changed. -/
def modLamp (s : State) (c : Nat) (f : LampClaim → LampClaim) : State :=
  { s with watch := { s.watch with lamp := lmod s.watch.lamp c f } }

/-- The Lamp of a claim. -/
def lampOf (s : State) (c : Nat) : LampClaim := s.watch.lamp.getD c {}

/-- E of R438: the units in a claim's roster tables. -/
def tracedUnits (s : State) (c : Nat) : Nat :=
  match (cfgOf s c).bind (·.roster) with
  | none => 0
  | some i => (i.sec.tables.map (fun t => (claimUnits s c (unitClass t.engine)).length)).sum

/-- Whether Lamp samples a claim (R438). -/
def lampSampled (s : State) (c : Nat) : Bool := decide (16 < tracedUnits s c)

/-- Whether Lamp traces a claim's commands: ENABLE, and PD78 powered. -/
def lampOn (s : State) (c : Nat) : Bool := (lampOf s c).enable && (domainOf s 78).on

/-- A record put at its PHASE into the ring's next place. -/
def phaseRecord (l : LampClaim) (n : Nat) (b : List Byte) : List Byte :=
  b.take 12 ++ [BitVec.ofNat 8 (byteAt b 12 + phaseAt (4 * l.lines) n)] ++ b.drop 13

/-- A line of four records written, where the ring has room for it and Hoistlink is UP (R439, R441). -/
def lampLine (s : State) (c : Nat) : State :=
  let l := lampOf s c
  let room := decide ((l.written - l.head).toNat + 4 ≤ 4 * l.lines)
  if dataUp s c && room && decide (4 ≤ l.queue.length) then
    let n := l.written.toNat
    let line := ((List.range 4).zip (l.queue.take 4)).map (fun p => phaseRecord l (n + p.1) p.2)
    let s1 := putHost (hlUse s 1 c) (l.base.toNat + 32 * (n % (4 * l.lines))) line.flatten
    modLamp s1 c (fun l => { l with queue := l.queue.drop 4, written := l.written + 4 })
  else s

/-- Full lines written. -/
def lampPump (fuel : Nat) (s : State) (c : Nat) : State :=
  match fuel with
  | 0 => s
  | fuel + 1 => if 4 ≤ (lampOf s c).queue.length then lampPump fuel (lampLine s c) c else s

/-- The bytes of a record but its PHASE (R440). -/
def lampBytes (time req event : Nat) (sampled : Bool) (k : RUnit) (cls instr step reason units seq : Nat) : List Byte :=
  leBytes 8 time ++ leBytes 4 req ++ leBytes 1 (2 * event + if sampled then 16 else 0) ++ leBytes 1 k.engine ++ leBytes 1 k.unit
    ++ leBytes 1 cls ++ leBytes 1 instr ++ leBytes 1 step ++ leBytes 1 reason ++ leBytes 1 0 ++ leBytes 4 units ++ leBytes 4 seq ++ leBytes 4 0

/-- A record queued, or dropped and counted (R441); TIME is a reading of Tally's counter, which the model does not run
(log 5). -/
def lampRecord (s : State) (k : RUnit) (req event cls instr step reason units : Nat) : State :=
  let l := lampOf s k.claim
  let full := decide (4096 ≤ l.queue.length) || decide (4 * l.lines ≤ (l.written - l.head).toNat)
  let (t, s1) := takeFree s
  let b := lampBytes t req event (lampSampled s k.claim) k cls instr step reason units l.seq.toNat
  let put := fun (l : LampClaim) =>
    if full then { l with seq := l.seq + 1, dropped := satAdd 32 l.dropped 1 } else { l with seq := l.seq + 1, queue := l.queue ++ [b] }
  let s2 := modLamp s1 k.claim put
  lampPump ((lampOf s2 k.claim).queue.length) s2 k.claim

/-- The records of `n` stalls of at least 1 µs of a command, STALL_BEGIN and STALL_END each with a reason of R435, a free one (log 41). -/
def stallRecords (n : Nat) (s : State) (k : RUnit) (req cls instr step : Nat) : State :=
  match n with
  | 0 => s
  | n + 1 =>
    let (r, s1) := takeFree s
    let reason := 1 + r % 13
    let s2 := lampRecord s1 k req 3 cls instr step reason 0
    stallRecords n (lampRecord s2 k req 4 cls instr step reason 0) k req cls instr step

/-- The records of a command that ran on a unit, where it is traced (R438): BEGIN, those of its stalls, and END. How often it stalled is
a free value. -/
def traceCommand (s : State) (k : RUnit) (x : RCmd) (instr units : Nat) : State :=
  let l := lampOf s k.claim
  let issue := kgetD l.issues (k.engine, k.unit) 0 + 1
  let s1 := modLamp s k.claim (fun l => { l with issues := kset l.issues (k.engine, k.unit) issue })
  let every := 2 ^ max 1 l.sampleLog2
  if lampOn s k.claim && (!lampSampled s k.claim || issue % every == 0) then
    let req := if x.cls < 16 then (x.slot.map (handleOf s)).getD 0xFFFFFFFF else 0xFFFFFFFF
    let s2 := lampRecord s1 k req 1 x.cls instr x.step 0 0
    let (n, s3) := takeFree s2
    lampRecord (stallRecords n s3 k req x.cls instr x.step) k req 2 x.cls instr x.step 0 units
  else s1

/-- LAMP_LINE_TIMEOUT: a line that is not full is completed with NONE records (R439). -/
def opLampLineTimeout (claim : Nat) (s : State) : State :=
  let l := lampOf s claim
  if alive s && decide (claim < 4) && decide (0 < l.queue.length) && decide (l.queue.length < 4) then
    let none := List.replicate (4 - l.queue.length) (List.replicate 32 (0 : Byte))
    lampLine (modLamp s claim (fun l => { l with queue := l.queue ++ none })) claim
  else s

/-- The meaning of LAMP_LINE_TIMEOUT. -/
def execLampLineTimeout (claim : Nat) (s : State) : Host.Outcome State Fault Refusal := .next (opLampLineTimeout claim s)

/-! ### Watch -/

/-- The number of a fired arm's record in its WATCHNAMES section, and the header of its dump (R446). -/
def dumpHeader (a : Arm) (tensor : List Byte) (pos written : Nat) : List Byte :=
  leBytes 4 a.o.req ++ leBytes 2 a.name ++ leBytes 1 a.wname.point ++ leBytes 1 (if written < tensor.length then 1 else 0)
    ++ leBytes 4 a.step ++ leBytes 4 pos ++ leBytes 8 tensor.length ++ leBytes 8 written ++ leBytes 32 0

/-- WATCH_DUMP_WRITTEN: the first fired arm of a claim at a place among its arms: its dump is written, the arm completes,
and its target's steps that waited go on (R445 to R447). -/
def opWatchDumpWritten (claim arm : Nat) (s : State) : State :=
  match (s.watch.arms.filter (fun a => a.claim == claim))[arm]? with
  | none => s
  | some a =>
    match a.fired with
    | none => s
    | some (tensor, pos) =>
      if !(alive s && dataUp s claim) then s
      else
        let w := min tensor.length (a.bytes - 64)
        let s1 := putHost s a.addr (dumpHeader a tensor pos w ++ tensor.take w)
        let s2 := { s1 with watch := { s1.watch with
          arms := s1.watch.arms.filter (fun b => b != a)
          dumps := lmod s1.watch.dumps claim (fun d => satAdd 32 d 1)
          wtErr := if w < tensor.length then s1.watch.wtErr ||| 2 else s1.watch.wtErr } }
        let s3 := doneWith s2 a.o (leBytes 4 (64 + w))
        if armOf s a.slot a then goOn s3 a.slot else s3

/-- The meaning of WATCH_DUMP_WRITTEN. -/
def execWatchDumpWritten (claim arm : Nat) (s : State) : Host.Outcome State Fault Refusal := .next (opWatchDumpWritten claim arm s)

end Sys2Proof.Machine
end

