-- ==== Sys2Proof/Machine/Haulage.lean ====
section
/-! DEFINITION. Rosters and Haulage: the shift of a unit and the commands it runs (15 R360 to R366), refills, gate lists and
the egress of Adit frames (R371 to R378). -/

namespace Sys2Proof.Machine

/-! ### Rosters (R364 to R366) -/

/-- A unit's roster, and the state with it set. -/
def rosterOf (s : State) (k : RUnit) : RosterRun := kgetD s.haul.rosters k {}

/-- The table of an engine class of a claim (R362). -/
def rosterTable (s : State) (k : RUnit) : Option RosterTable :=
  ((cfgOf s k.claim).bind (·.roster)).bind (fun i => i.sec.tables.find? (fun t => t.engine == k.engine))

/-- GC of a Seam: the fewest free superblocks of its die groups (R344). -/
def seamFree (s : State) (i : Nat) : Nat := (((seamOf s i).dgs.take dieGroups).map freeSbs).foldl min 9922
def gcUrgent (s : State) (i : Nat) : Bool := decide (seamFree s i < 16)

/-- A page move of a claim's Cage that writes a page back (R316). -/
def writesBack (c : Nat) (q : PageKey × Page) : Bool := q.1.claim == c && q.2.st == .demoting && q.2.wbStart

/-- The opcode of a command of class UPKEEP, and whether it upkeeps a pit (R361). -/
def upkeepOpcode (b : CmdBody) : Option (Nat × Bool) :=
  match b with
  | .pitInsert .. => some (7, true)
  | .pitDelete .. => some (8, true)
  | .pitPublish _ => some (9, true)
  | .ledgerWrite .. => some (0xA, false)
  | .ledgerSwap .. => some (0xB, false)
  | .prefixCreate .. | .adapterPublish _ | .cagePin _ | .cageEvict _ | .cageLoad _ => none

/-- Whether a compaction sweep of a claim has work on a Drift engine: it is on that engine's channel (R181). -/
def sweepsOn (s : State) (k : RUnit) : Bool :=
  k.engine == 2 && s.store.pits.any (fun x => x.1.1 == k.claim && (x.2.sweep.map (·.chan)) == some k.unit)

/-- The opcodes of the claim's UPKEEP commands that a unit has work of: a Seam and its Drift engine where pages of theirs
are not yet durable, a Gather port and a mover of the Cage where they are the first of the claim (R361); a sweep goes under that
of PIT_PUBLISH, at which it started (R181, log 51). -/
def upkeepOn (s : State) (k : RUnit) : List Nat :=
  let first := k.engine == 9 && firstUnit s k.claim 9 == some k.unit
  (s.cmds.filter (fun x => x.begun && x.o.claim == k.claim)).filterMap (fun x =>
    let here := x.needs.any (fun g => g.seam == k.unit)
    match upkeepOpcode x.body with
    | none => none
    | some (op, pit) => if (k.engine == 3 && here) || (k.engine == 2 && pit && here) || (first && !pit) then some op else none)
  ++ (if sweepsOn s k then [9] else [])

/-- Whether a Seam has pages to collect or copies to enter in its map (R344). -/
def collects (s : State) (seam : Nat) : Bool :=
  let v := seamOf s seam
  v.dgs.any (fun g => g.victim.isSome) || !v.copies.isEmpty

/-- Whether a bin of a ledger of a claim is on the move (R201). -/
def binsMove (s : State) (c : Nat) : Bool := s.store.ledgers.any (fun x => x.1.1 == c && !x.2.moves.isEmpty)

/-- Whether a unit has work of class MAINT: write-back of a page, a move of a bin, and groups that no command waits for (R361). -/
def maintOn (s : State) (k : RUnit) : Bool :=
  if k.engine = 1 then s.cage.pages.any (fun q => writesBack k.claim q && q.2.frame.map (·.1) == some k.unit)
  else if k.engine = 0xA then firstUnit s k.claim 0xA == some k.unit && (s.cage.pages.any (writesBack k.claim) || binsMove s k.claim)
  else if k.engine = 3 then (seamOf s k.unit).groups.any (fun g => g.copyOf.isNone
    && !s.cmds.any (fun x => x.needs.contains ⟨k.unit, g.ticket⟩))
  else false

/-- The ready commands of a unit that are no step's: one of each of the classes 16 to 18 that the unit has work of. -/
def ownWork (s : State) (k : RUnit) : List RCmd :=
  (if (upkeepOn s k).isEmpty then [] else [⟨none, 16, 0xFF⟩])
  ++ (if k.engine == 3 && collects s k.unit then [⟨none, 17, 0xFF⟩] else [])
  ++ (if maintOn s k then [⟨none, 18, 0xFF⟩] else [])

/-- Every ready command of a unit: those of steps, in the order issued, and its own. -/
def readyCmds (s : State) (k : RUnit) (r : RosterRun) : List RCmd := r.queue ++ ownWork s k

/-- The class that an entry serves now: COLLECT first while its Seam is URGENT (R366). -/
def servedClass (s : State) (k : RUnit) (q : List RCmd) (cls : Nat) : Nat :=
  if k.engine = 3 && gcUrgent s k.unit && q.any (fun x => x.cls == 17) then 17 else cls

/-- The requests with a ready command of a class, by slot; 65536 stands for work without a request. -/
def readyOf (q : List RCmd) (cls : Nat) : List Nat := dedup ((q.filter (fun x => x.cls == cls)).map (fun x => x.slot.getD 65536))

/-- The next request of a class in rotation after the last served. -/
def rotate (ready : List Nat) (last : Option Nat) : Option Nat := nextInTurn ready last

/-- The entry after one, and the shift that ends with the last. -/
def nextEntry (r : RosterRun) (n : Nat) : RosterRun :=
  if r.entry + 1 < n then { r with entry := r.entry + 1 }
  else { r with entry := 0, shifts := satAdd 48 r.shifts 1, lastServed := r.served, served := [] }

/-- The entry at which the next command is served, with the deficits as the procedure of R364 leaves them; none where no
command is ready. -/
def seek (s : State) (k : RUnit) (t : RosterTable) (fuel : Nat) (r : RosterRun) : Option (RosterRun × Nat) :=
  match fuel with
  | 0 => none
  | fuel + 1 =>
    match t.entries[r.entry]? with
    | none => none
    | some (cls, units) =>
      let q := readyCmds s k r
      let c := servedClass s k q cls
      let d := kgetD r.deficits r.entry 0
      if (readyOf q c).isEmpty then
        seek s k t fuel (nextEntry { r with deficits := kset r.deficits r.entry 0 } t.entries.length)
      else
        let d1 := if 0 < d then d else d + units
        if 0 < d1 then some ({ r with deficits := kset r.deficits r.entry d1 }, c)
        else seek s k t fuel (nextEntry { r with deficits := kset r.deficits r.entry d1 } t.entries.length)

/-- A roster after a command, with the commands still ready: the entry is left where its credit is used up or the class it now serves has no more; where
nothing is ready the shift ends and the unit waits. -/
def settleEntry (r : RosterRun) (ready : List RCmd) (c n : Nat) : RosterRun :=
  let more := !(readyOf ready c).isEmpty
  let r1 := if more then r else { r with deficits := kset r.deficits r.entry 0 }
  if ready.isEmpty then
    { r1 with entry := 0, deficits := [], shifts := satAdd 48 r1.shifts 1, lastServed := r1.served, served := [] }
  else if 0 < kgetD r1.deficits r1.entry 0 then r1
  else nextEntry r1 n

/-- The command that a unit runs next, and its roster once it has run with a number of units charged. -/
def serve (s : State) (k : RUnit) (units : Nat) : Option (RCmd × RosterRun) :=
  match rosterTable s k with
  | none => none
  | some t =>
    let r := rosterOf s k
    match (if (readyCmds s k r).isEmpty || units = 0 || t.cmdUnits < units then none
        else seek s k t (5000 * t.entries.length) r) with
    | none => none
    | some (r1, c) =>
      let q := readyCmds s k r1
      match rotate (readyOf q c) (kget r1.rotation c) with
      | none => none
      | some n =>
        let mine : RCmd → Bool := fun x => x.cls == c && x.slot.getD 65536 == n
        match findIdx? mine q with
        | none => none
        | some i =>
          let x := q.getD i ⟨none, c, 0xFF⟩
          let r2 := { r1 with
            queue := r1.queue.take i ++ r1.queue.drop (i + 1)
            rotation := kset r1.rotation c n
            served := kset r1.served c (kgetD r1.served c 0 + units)
            deficits := kset r1.deficits r1.entry (kgetD r1.deficits r1.entry 0 - units) }
          let own := ((t.entries[r1.entry]?).map (·.1)).getD c
          let left := readyCmds s k r2
          some (x, settleEntry r2 left (servedClass s k left own) t.entries.length)

/-- INSTR of R440: the array instruction, a command's opcode, collection, maintenance or the step's type. -/
def instrOf (s : State) (k : RUnit) (x : RCmd) (w : BankWork) : Nat :=
  if k.engine = 0 then
    match w with
    | .mma true .. => 2
    | .elementwise .. => 3
    | .cpx3 .. => 4
    | .none | .mma false .. | .fp32s .. | .weights .. | .adapter .. => 1
  else if x.cls = 16 then 0x80 + (upkeepOn s k).headD 0
  else if x.cls = 17 then 0xF0 else if x.cls = 18 then 0xF1
  else ((x.slot.bind (reqOf s)).bind (fun r => ((planOf r)[x.step]?).map (·.typ))).getD 0

/-- Two parts of an output combined (R285, R293): by element, in FP32 or modulo 2^32, with the events of the additions. -/
def joinParts (int : Bool) (a b : List F32) : List F32 × NumEv :=
  let rs := (a.zip b).map (fun p => combineTiles int [(p.1, NumEv.zero), (p.2, NumEv.zero)])
  (rs.map (·.1), (rs.map (·.2)).foldl NumEv.plus NumEv.zero)

/-- The output and the number of its parts that a command's result is one of, and whether it is an INT8 product. -/
def partOf (w : BankWork) : Option (Nat × Nat) :=
  match w with
  | .mma _ p _ => p
  | _ => none
def intWork (w : BankWork) : Bool :=
  match w with
  | .mma _ _ tiles => tiles.all (fun t => t.1.all (fun a => a.fmt == .int8))
  | _ => false

/-- What a bank's command has written, in hub staging: whole, or joined to the parts of its output that have arrived, which wait there
for the others (R285, R293, R303). The results, where all are there, and the events of the additions. -/
def gatherParts (s : State) (n : Nat) (w : BankWork) (out : List F32) : Option (List F32) × NumEv × State :=
  match partOf w with
  | none => (some out, NumEv.zero, s)
  | some (o, parts) =>
    let old := kgetD s.eng.sums (n, o) (0, [])
    let (sum, e) := if old.1 = 0 then (out, NumEv.zero) else joinParts (intWork w) old.2 out
    if parts ≤ old.1 + 1 then (some sum, e, { s with eng := { s.eng with sums := kdel s.eng.sums (n, o) } })
    else (none, e, { s with eng := { s.eng with sums := kset s.eng.sums (n, o) (old.1 + 1, sum) } })

/-- The numeric events of a command counted on its bank (R288 to R294): AR_NUMERIC and AR_BANK_BEATS; what it writes goes
to hub staging, but for a command whose request has ended, whose results are dropped (R303). -/
def bankDone (s : State) (b : Nat) (slot : Option Nat) (w : BankWork) : State :=
  let (out, e1) := bankWork w
  let (res, e2, s1) := match slot.filter (fun n => (running s n).isSome) with
    | some n => gatherParts s n w out
    | none => (none, NumEv.zero, s)
  let e := e1.plus e2
  let f := fun (x : BankState) => { x with
    useful := satAdd 56 x.useful e.useful, gated := satAdd 56 x.gated e.gated, span := satAdd 24 x.span e.span
    overflow := satAdd 24 x.overflow e.overflow, staged := res.getD x.staged
    numErr := x.numErr ||| (if e.span = 0 then 0 else 1) ||| (if e.overflow = 0 then 0 else 2) ||| (if e.nanOut then 4 else 0) }
  { s1 with banks := lmod s1.banks b f }

/-- A Lode has run a command: a product of its slice, whose rows it returns to hub staging (R246); which function it ran otherwise is
free (log 5, log 103). -/
def lodeDone (s : State) (lode : Nat) (w : BankWork) : State :=
  match w with
  | .mma .. =>
    let s1 := lodeRan s lode 1
    { s1 with cage := { s1.cage with lodes := lmod s1.cage.lodes lode (fun x => { x with staged := (bankWork w).1 }) } }
  | _ =>
    let (f, s1) := takeFree s
    lodeRan s1 lode (f % 4)

/-- The work of a command on a unit, with the weights it needs from the Lodes: a Lode engine forms products of weights alone. -/
def cmdWork (s : State) (k : RUnit) (w : BankWork) : BankWork :=
  if k.engine = 0 then stateWork s k.claim 0 k.unit w
  else match w with
    | .weights .. => stateWork s k.claim k.engine k.unit w
    | _ => .none

/-- UNIT_COMMAND_COMPLETE: the command that the unit's roster gives next has run, charged with its units; its credit
returns where it is a step's, a bank's results are in staging, and a spare that waits for the boundary joins (R409). -/
def opUnitCommandComplete (claim engine unit units : Nat) (work : BankWork) (s : State) : State :=
  let k : RUnit := ⟨claim, engine, unit⟩
  if !(alive s && claimRuns s claim && unitOk s (unitClass engine) unit) then s
  else
    match serve s k units with
    | none => s
    | some (x, r) =>
      let s1 := { s with haul := { s.haul with rosters := kset s.haul.rosters k r } }
      let s2 := gateReturn s1 ⟨unitClass engine, unit⟩ (if x.slot.isSome then 1 else 0)
      let w := cmdWork s2 k work
      let s3 := if engine = 0 then bankDone s2 unit x.slot w else if engine = 1 then lodeDone s2 unit w else s2
      joinSpares (traceCommand s3 k x (instrOf s k x work) units)

/-- The meaning of UNIT_COMMAND_COMPLETE. -/
def execUnitCommandComplete (claim engine unit units : Nat) (work : BankWork) (s : State) : Host.Outcome State Fault Refusal :=
  .next (opUnitCommandComplete claim engine unit units work s)

/-! ### Refills (R372) -/

/-- A bucket refilled and limited, in micro-tokens. -/
def refillMicro (rate burst us : Nat) (b : Int) : Int := min (b + ((rate * us : Nat) : Int)) ((1000000 * burst : Nat) : Int)

/-- The policers of a claim refilled under a section. -/
def refillPolicers (s : State) (c : Nat) (sec : ShaperSec) : State :=
  let f := fun (p : (Nat × Nat) × Policer) =>
    if p.1.1 = c then
      let i := byteAt sec.policerMap p.1.2
      let q := sec.police.getD i ⟨0, 0⟩
      (p.1, { p.2 with micro := (refillMicro q.rate q.burst sec.refillUs p.2.micro).toNat, profile := i })
    else p
  { s with haul := { s.haul with policers := s.haul.policers.map f } }

/-- The stream shapers of a claim refilled. -/
def refillStreams (s : State) (c : Nat) (sec : ShaperSec) : State :=
  let f := fun (x : Nat × Shaper) =>
    if x.2.claim = c then
      let cls := ((reqOf s x.1).map (fun r => rosterClass s c r.tenant)).getD 0
      let q := sec.stream.getD cls ⟨0, 0⟩
      (x.1, { x.2 with micro := refillMicro q.rate q.burst sec.refillUs x.2.micro })
    else x
  { s with haul := { s.haul with streams := s.haul.streams.map f } }

/-- The egress buckets of a claim refilled, in bytes; RATE is in MB/s. -/
def refillEgress (s : State) (g : ClaimCfg) (sec : ShaperSec) : State :=
  let old := s.haul.egress
  let one := fun (l : Nat) (p : Nat × Profile) =>
    let b : Int := kgetD old (l, p.1) ((p.2.burst : Nat) : Int)
    ((l, p.1), min (b + ((p.2.rate * sec.refillUs : Nat) : Int)) ((p.2.burst : Nat) : Int))
  let es := (sec.egress.map (fun e => ((List.range 8).zip e.classes).map (one e.link))).flatten
  { s with haul := { s.haul with egress := (old.filter (fun x => !bit g.own.aditMask x.1.1)) ++ es } }

/-- BUCKET_REFILL: every bucket of a claim, under the SHAPER section now in force, which a changed one becomes here (R54);
then the records that the shapers let pass. -/
def opBucketRefill (claim : Nat) (s : State) : State :=
  match cfgOf s claim, kget s.haul.shapers claim with
  | some g, some old =>
    if alive s && claimRuns s claim && decide (claim < 4) then
      let sec := (g.shaper.map (·.sec)).getD old
      let s1 := { s with haul := { s.haul with shapers := kset s.haul.shapers claim sec } }
      let s2 := refillEgress (refillStreams (refillPolicers s1 claim sec) claim sec) g sec
      let s3 := (s2.haul.streams.filter (fun x => x.2.claim == claim)).foldl (fun s x => pumpStream s x.1) s2
      endEffect s3 (.shaper claim)
    else s
  | _, _ => s

/-- The meaning of BUCKET_REFILL. -/
def execBucketRefill (claim : Nat) (s : State) : Host.Outcome State Fault Refusal := .next (opBucketRefill claim s)

/-! ### Gate lists (R376 to R378) -/

/-- GATE_WINDOW_ADVANCE: the next window of a link's list. After the last one the cycle ends, and a changed list takes its
place or a removed one leaves the link open (R377). -/
def opGateWindowAdvance (link : Nat) (s : State) : State :=
  match kget s.haul.gates link, linkOwner s link with
  | some g, some c =>
    if !(alive s && claimRuns s c) then s
    else
      let left := g.spent - 1000 * ((g.windows.getD g.pos (0, 0)).1)
      if g.pos + 1 < g.windows.length then
        { s with haul := { s.haul with gates := kset s.haul.gates link { g with pos := g.pos + 1, spent := left } } }
      else
        let new := (((cfgOf s c).bind (·.gates)).bind (fun i => i.sec.find? (fun e => e.link == link))).map (·.windows)
        let gs := match new with
          | none => kdel s.haul.gates link
          | some w => kset s.haul.gates link { g with windows := w, pos := 0, spent := left, cycles := satAdd 32 g.cycles 1 }
        endEffect { s with haul := { s.haul with gates := gs } } (.gate link)
  | _, _ => s

/-- The meaning of GATE_WINDOW_ADVANCE. -/
def execGateWindowAdvance (link : Nat) (s : State) : Host.Outcome State Fault Refusal := .next (opGateWindowAdvance link s)

/-- The flits of a frame of some bytes (R386, R387). -/
def flitsOf (len : Nat) : Nat := (len + 239) / 240

/-- The time of a frame in ps: 10.24 ns a flit and lane (R380). -/
def framePs (s : State) (link len : Nat) : Nat := flitsOf len * 10240 / max 1 (linkWidth s link)

/-- The windows of a list that are open for a class, with their places. -/
def openWindows (g : GateRun) (cls : Nat) : List (Nat × Nat) :=
  ((List.range g.windows.length).zip g.windows).filterMap (fun p => if bit p.2.2 cls then some (p.1, p.2.1) else none)

/-- Whether the gate list of a link lets a frame of a class go: `some true` where it runs past its window (R377, R378). -/
def gateLets (s : State) (link cls len : Nat) : Option Bool :=
  match kget s.haul.gates link with
  | none => some false
  | some g =>
    let t := framePs s link len
    let ws := openWindows g cls
    let here := ws.find? (fun w => w.1 == g.pos)
    match here with
    | none => none
    | some (_, ns) =>
      if g.spent + t ≤ 1000 * ns then some false
      else if ws.any (fun w => decide (t ≤ 1000 * w.2)) then none
      else
        let longest := leastBy (fun a b => decide (b.2 < a.2)) ws
        if g.spent = 0 && (longest.map (·.1)) == some g.pos then some true else none

/-- Whether a message class of a link is unshaped: no record of it, or RATE 0 (R375). -/
def classFree (s : State) (c link cls : Nat) : Bool :=
  match (kget s.haul.shapers c).bind (fun sec => sec.egress.find? (fun e => e.link == link)) with
  | none => true
  | some e => (e.classes.getD cls ⟨0, 0⟩).rate == 0

/-- Whether the byte bucket of a message class of a link lets a frame go: above 0, or unshaped (R375). -/
def bucketLets (s : State) (c link cls : Nat) : Bool :=
  classFree s c link cls || decide ((0 : Int) < kgetD s.haul.egress (link, cls) 0)

/-- ADIT_FRAME_EGRESS: the first frame of a class leaves on a link that is UP: its credits are there, and its bucket and
gate list let it; classes 0 and 7 pass both (R375, R377, R378, R389, R390). -/
def opAditFrameEgress (link cls : Nat) (s : State) : State :=
  match kgetD s.haul.frames (link, cls) [], linkOwner s link with
  | f :: rest, some c =>
    let x := linkOf s link
    let flits := flitsOf f.len
    let free := cls == 0 || cls == 7
    let go := if free then some false else gateLets s link cls f.len
    if !(alive s && claimRuns s c && x.st == 2 && unitOk s 0xD link && decide (flits ≤ x.avail.getD cls 0)
        && (free || bucketLets s c link cls)) then s
    else
      match go with
      | none => s
      | some late =>
        let spend := fun (g : GateRun) => { g with
          spent := g.spent + framePs s link f.len, overrun := if late then satAdd 16 g.overrun 1 else g.overrun }
        let h := { s.haul with
          frames := kset s.haul.frames (link, cls) rest
          egress := if free || classFree s c link cls then s.haul.egress else kmod s.haul.egress (link, cls) (fun b => b - (f.len : Int))
          gates := if free then s.haul.gates else kmod s.haul.gates link spend
          err := if late then s.haul.err ||| 2 else s.haul.err }
        let s1 := modLink { s with haul := h } link (fun y => { y with avail := lmod y.avail cls (fun a => a - flits) })
        if f.last then emit s1 (.adit link cls f.msg) else s1
  | _, _ => s

/-- The meaning of ADIT_FRAME_EGRESS. -/
def execAditFrameEgress (link cls : Nat) (s : State) : Host.Outcome State Fault Refusal := .next (opAditFrameEgress link cls s)

end Sys2Proof.Machine
end

