-- ==== Sys2Proof/Machine/Faults.lean ====
section
/-! DEFINITION. The commands and events of fencing: FENCE, UNFENCE, unit and SRAM faults, hangs, module-fatal faults,
poisoned reads of companion memory, and the failure and recovery of seam dies (18 R416 to R430, 03 R480, 14 R348, R353). -/

namespace Sys2Proof.Machine

/-! ### FENCE and UNFENCE (R421, R425, R472, R474) -/

/-- The unit that a UNIT field names; none where it names no fenceable unit of this module or CAUSE is not 0. -/
def namedUnit (w : Nat) : Option UnitId :=
  let u : UnitId := ⟨w % 256, w / 256 % 256⟩
  if w / 65536 % 256 = 0 && u.cls != 0x10 && decide (u.idx < unitCount u.cls) then some u else none

/-- The state of a unit's fence. -/
def fenceSt (s : State) (u : UnitId) : Nat := ((kget s.hf.fences u).map (·.st)).getD 0

/-- The reserved bytes of FENCE and UNFENCE. -/
def unitZero (l : List Byte) : Bool := byteAt l 19 == 0 && zeroAt l 20 108

/-- FENCE. -/
def opFence (m : MDesc) (s : State) : State :=
  mgmtDesc s m (· == 0x83) unitZero (fun s o l =>
    match namedUnit (fld l 16 4) with
    | none => bad s o 0x16
    | some u =>
      if khas s.hf.unfences u then { s with hf := { s.hf with fenceWaits := s.hf.fenceWaits ++ [(u, o)] } }
      else if fenceSt s u = 2 then doneWith s o (leBytes 4 0)
      else
        let s1 := fenceUnit s u 1
        doneWith s1 o (leBytes 4 (((kget s1.hf.fences u).map (·.ended)).getD 0)))

/-- The meaning of FENCE. -/
def execFence (m : MDesc) (s : State) : Host.Outcome State Fault Refusal := .next (opFence m s)

/-- UNFENCE: the unit is powered and its self-test begins. -/
def opUnfence (m : MDesc) (s : State) : State :=
  mgmtDesc s m (· == 0x84) unitZero (fun s o l =>
    match namedUnit (fld l 16 4) with
    | none => bad s o 0x16
    | some u =>
      if fenceSt s u != 2 then bad s o 0x22
      else if ((kget s.hf.fences u).map (·.cause)).getD 0 = 8 then bad s o 0x23
      else
        let s1 := setFenceSt { s with hf := { s.hf with unfences := kset s.hf.unfences u o } } u 3
        match wholeDomain u with
        | some d => switchDomain s1 (d, true)
        | none => s1)

/-- The meaning of UNFENCE. -/
def execUnfence (m : MDesc) (s : State) : Host.Outcome State Fault Refusal := .next (opUnfence m s)

/-! ### Unit faults and hangs (R416, R421, R424) -/

/-- A unit that cannot hold the floor (R409): an array is retired, another gives way to its claim's spare or is fenced; a unit
fenced already stays so. -/
def floorMiss (s : State) (u : UnitId) : State :=
  if fenceSt s u = 2 then s else if u.cls = 0 then retire s u else replaceUnit s u

/-- UNIT_FAULT: parity (2), SRAM (3), the floor missed (4), a failed self-test (5) or degradation (8). An array that misses
the floor is retired; another unit that does gives way to its spare, or is fenced (R409). -/
def opUnitFault (u : UnitId) (cause : Nat) (s : State) : State :=
  if !(alive s && decide (u.idx < unitCount u.cls) && [2, 3, 4, 5, 8].contains cause) then s
  else if cause = 4 then floorMiss s u
  else
    let s1 := if u.cls = 0 && cause = 2 then { s with banks := lmod s.banks (u.idx / 8) (fun b => { b with err := b.err ||| 4 }) } else s
    fenceUnit s1 u cause

/-- The meaning of UNIT_FAULT. -/
def execUnitFault (u : UnitId) (cause : Nat) (s : State) : Host.Outcome State Fault Refusal := .next (opUnitFault u cause s)

/-- GATE_HANG_TIMEOUT: the unit at the end of the chain of reporting gates is fenced with cause HANG. -/
def opGateHangTimeout (u : UnitId) (s : State) : State :=
  if alive s && decide (u.idx < unitCount u.cls) then fenceUnit s u 6 else s

/-- The meaning of GATE_HANG_TIMEOUT. -/
def execGateHangTimeout (u : UnitId) (s : State) : Host.Outcome State Fault Refusal := .next (opGateHangTimeout u s)

/-! ### Hub SRAM (R418) -/

/-- The unit that owns a failed SRAM, the SRAM, by the first unit of its block, and the spare lines of that SRAM: 64 in each
MiB; none where the size is not given. A line of the Crusher, of the Selector and Timber or of the row cache, which their units
share, is owned by the lowest unit of the claim whose data it holds (log 27). -/
def sramOwner (s : State) (u : SramUse) : Option (UnitId × UnitId × Nat) :=
  let vocabClaim := fun (v : Nat) => (List.range 4).find? (fun c => (vocabOf s c v).isSome)
  match u with
  | .crusherTable v _ _ => (vocabClaim v).bind (fun c => (firstUnit s c 4).map (fun i => (⟨4, i⟩, ⟨4, 0⟩, 64 * 32)))
  | .selectorLane i => some (⟨5, i⟩, ⟨5, 0⟩, 64 * 16)
  | .grammar c _ => (firstUnit s c 5).map (fun i => (⟨5, i⟩, ⟨5, 0⟩, 64 * 16))
  | .staging g _ => some (⟨0xF, g⟩, ⟨0xF, g⟩, 64 * 16)
  | .feeder b _ => some (⟨0xE, b⟩, ⟨0xE, b⟩, 64 * 16)
  | .rowCache c _ _ => (firstUnit s c 9).map (fun i => (⟨9, i⟩, ⟨9, 0⟩, 64 * 64))
  | .pageBuffer l => some (⟨1, l⟩, ⟨1, l⟩, 64 * 32)
  | .strandBuffer _ => none
  | .journal _ => none

/-- Single-bit errors corrected in the SRAM that holds something, counted where the spec gives a count (R110, R261, R416). -/
def correctedErrors (s : State) (u : SramUse) (k : Nat) : State :=
  if k = 0 then s
  else
    let e := s.eng
    let s1 := faultEvent s 1 0
    match u with
    | .crusherTable .. => { s1 with eng := { e with crCe := satAdd 32 e.crCe k, crErr := e.crErr ||| 1 } }
    | .grammar .. | .selectorLane _ => { s1 with eng := { e with tbCe := satAdd 24 e.tbCe k, slErr := e.slErr ||| 1 } }
    | .feeder b _ => { s1 with banks := lmod s.banks b (fun x => { x with ce := satAdd 32 x.ce k, err := x.err ||| 1 }) }
    | .rowCache .. => lgErr { s1 with store := { s1.store with cacheCe := satAdd 12 s.store.cacheCe k } } 8
    | .pageBuffer l => { s1 with cage := { s1.cage with
        lodes := lmod s1.cage.lodes l (fun d => { d with ce := satAdd 32 d.ce k, err := d.err ||| 1 }) } }
    | .staging .. | .strandBuffer _ | .journal _ => s1

/-- The dumps that wait for a tensor of a request which is poisoned now: nothing is written of it, and their arms complete with the
target, DONE_SHORT and 0 bytes (R447). -/
def poisonDumps (s : State) (n : Nat) : State :=
  let mine := fun (a : Arm) => armOf s n a && a.fired.isSome
  if s.watch.arms.any mine then
    { s with watch := { s.watch with
      arms := s.watch.arms.map (fun a => if mine a then { a with fired := none } else a), wtErr := s.watch.wtErr ||| 1 } }
  else s

/-- A request ended by an SRAM error of a unit. -/
def endBySram (s : State) (slot : BitVec 16) (u : UnitId) : State :=
  if (running s slot.toNat).isNone then s
  else commitReq (faultEvent (poisonDumps s slot.toNat) 2 (unitDetail u 3)) slot.toNat 9 (unitDetail u 3)

/-- A copy in a page buffer of a Lode made again from its frame, the pass waiting for it (R418): the first such page (log 128). -/
def copyAgain (s : State) (l : Nat) : State :=
  match s.cage.pages.find? (fun q => q.2.buf == some l && !q.2.copying) with
  | none => s
  | some (k, p) =>
    let ws := p.copied.map (fun n => Waiter.request n (deadlineFor s k))
    setPage s k { p with copying := true, copied := [], waiters := p.waiters ++ ws }

/-- What an uncorrectable SRAM error does by what the SRAM holds. The table has no row for the Selector's lane registers and
candidate buffers (R261): the error is recorded in SL_ERR and ends no request (DESIGN CHOICE, log 115). -/
def sramEffect (s : State) (u : SramUse) : State :=
  match u with
  | .crusherTable v k line =>
    let e := s.eng
    let b := (v, k, line)
    faultEvent { s with eng := { e with
      badLines := if e.badLines.contains b then e.badLines else e.badLines ++ [b], crErr := e.crErr ||| 2 } } 3 0
  | .selectorLane _ => faultEvent { s with eng := { s.eng with slErr := s.eng.slErr ||| 2 } } 3 0
  | .grammar c g =>
    let e := s.eng
    let bg := if e.badGrammars.contains (c, g) then e.badGrammars else e.badGrammars ++ [(c, g)]
    faultEvent { s with eng := { e with badGrammars := bg, slErr := e.slErr ||| 2 } } 3 0
  | .staging g slot => endBySram s slot ⟨0xF, g⟩
  | .feeder b slot => endBySram { s with banks := lmod s.banks b (fun x => { x with err := x.err ||| 2 }) } slot ⟨0xE, b⟩
  | .rowCache c l r =>
    let drop := fun (g : GatherClaim) => { g with cache := g.cache.filter (fun e => !(e.ledger == l && e.row == r)) }
    let s1 := { s with store := { s.store with gather := lmod s.store.gather c drop, cacheUe := satAdd 12 s.store.cacheUe 1 } }
    lgErr (faultEvent s1 3 0) 16
  | .pageBuffer l => copyAgain (countLodeUe s l) l
  | .strandBuffer n =>
    match kget s.drift.searches n with
    | none => s
    | some x =>
      match x.owner with
      | .request slot _ => endBySram s (BitVec.ofNat 16 slot) ⟨0x11, 0⟩
      | .peer c .. => dropRemote (faultEvent s 2 (unitDetail ⟨0x11, 0⟩ 3)) c (fun w => w.search == some n)
  | .journal d => modDie s d (fun x => { x with todo := List.range 16 })

/-- HUB_SRAM_UE, with the errors that the same SRAM corrected since the last: the effect by what the SRAM holds; where its spare
lines are used up, the unit that owns it is fenced. -/
def opHubSramUe (u : SramUse) (corrected : Nat) (s : State) : State :=
  if !alive s then s
  else
    let s1 := sramEffect (correctedErrors s u corrected) u
    match sramOwner s u with
    | none => s1
    | some (x, k, n) =>
      let used := kgetD s1.hf.sramUsed k 0
      if used < n then { s1 with hf := { s1.hf with sramUsed := kset s1.hf.sramUsed k (used + 1) } } else fenceUnit s1 x 3

/-- The meaning of HUB_SRAM_UE. -/
def execHubSramUe (error : SramError) (s : State) : Host.Outcome State Fault Refusal :=
  .next (opHubSramUe error.use error.corrected s)

/-! ### Module-fatal faults (R430) -/

/-- MODULE_FATAL_ERROR: one of the causes of R430 is latched. -/
def opModuleFatalError (cause : Nat) (u : Option UnitId) (s : State) : State :=
  if alive s && decide (1 ≤ cause) && decide (cause ≤ 8) then moduleFatal s cause u else s

/-- The meaning of MODULE_FATAL_ERROR. -/
def execModuleFatalError (cause : Nat) (u : Option UnitId) (s : State) : Host.Outcome State Fault Refusal :=
  .next (opModuleFatalError cause u s)

/-! ### Poisoned reads of companion memory (R480) -/

/-- A waiting command ended by a poisoned read: TIER_UNCORRECTABLE with the items it has finished. -/
def endPoisoned (s : State) (x : Cmd) : State :=
  match x.body with
  | .prefixCreate .. => endCreate s x 6
  | .adapterPublish i =>
    let s1 := { s with cmds := s.cmds.filter (fun y => y != x) }
    let h := adapterHandle s1 i
    done (dropPages (unrefAdapter s1 h) (ofObj x.o.claim 3 h)) x.o 6 0
  | .ledgerSwap l _ => done (dropCmd (modLedger s x.o.claim l (fun t => { t with st := 1 })) x.o) x.o 6 0
  | .pitInsert .. | .pitDelete .. | .ledgerWrite .. =>
    putRecord (dropCmd s x.o) { o := x.o, status := 6, result := countResult x.count }
  | .pitPublish _ | .cagePin _ | .cageEvict _ | .cageLoad _ => s

/-- COMPANION_READ_POISON: POISON_RX is set; the request or command whose read it was ends, and an image is refused with
CHANGED. -/
def opCompanionReadPoison (target : PoisonTarget) (s : State) : State :=
  if !reach s then s
  else
    let s0 := { s with hl := { s.hl with err := s.hl.err ||| 0x20 } }
    match target with
    | .request slot => if (running s slot.toNat).isSome then commitReq (faultEvent s0 2 0) slot.toNat 6 0 else s
    | .command g i =>
      let id := ringIdOf g false
      match s.cmds.find? (fun x => x.o.claim == id.claim && x.o.ring == id.idx && x.o.index == i.toNat) with
      | none => s
      | some x => runCmds (endPoisoned (faultEvent s0 2 0) x)
    | .image n => match jobOf s n with
      | none => s
      | some j => if n ≤ 4 && j.phase != 3 then refuseJob s0 n j cdChanged else s

/-- The meaning of COMPANION_READ_POISON. -/
def execCompanionReadPoison (target : PoisonTarget) (s : State) : Host.Outcome State Fault Refusal :=
  .next (opCompanionReadPoison target s)

/-! ### Seam dies (R348, R353) -/

/-- Whether a die group still holds its mapped pages with 16 free superblocks (R348). -/
def groupHolds (v : SeamSt) (gi : Nat) : Bool :=
  let g := v.dgs.getD gi {}
  let mapped := (v.map.filter (fun e => e.2.st == 1 && e.2.place.die / 8 == gi)).length
  let per := stripeData g * sbStripes
  decide ((mapped + per - 1) / per + 16 ≤ 9922 - g.gone.length)

/-- DIE_FAILURE: the die is retired whole; the Seam is DEGRADED, its pages there are relocated, and it is fenced where the
group no longer holds them or a second die of the group is lost. -/
def opDieFailure (seam die : Nat) (s : State) : State :=
  let gi := die / 8
  let g := (seamOf s seam).dgs.getD gi {}
  if !(dieRuns s seam && decide (gi < dieGroups) && !g.dead.testBit (die % 8)) then s
  else
    let s1 := modSeam (smErr s seam 0x20) seam (fun v => { v with dgs := lmod v.dgs gi (fun g => { g with dead := g.dead ||| 2 ^ (die % 8) }) })
    let s2 := collect s1 seam
    if g.dead != 0 || !groupHolds (seamOf s1 seam) gi then fenceUnit s2 ⟨3, seam⟩ 8 else s2

/-- The meaning of DIE_FAILURE. -/
def execDieFailure (seam die : Nat) (s : State) : Host.Outcome State Fault Refusal := .next (opDieFailure seam die s)

/-- A Seam as recovery finds it (R352 to R354): durable copies named by the map, what was not durable gone, superblocks that
end in incomplete stripes closed and queued for collection, those without a programmed page free. -/
def recoverSeam (v : SeamSt) : SeamSt :=
  let map := v.copies.foldl (fun m (c : GPage × FlashPlace) => match kget m c.1.lpn with
    | some e => if e.st = 1 && e.place = c.2 then kset m c.1.lpn ⟨1, c.1.place, c.1.seq⟩ else m
    | none => m) v.map
  let cut := fun (gi : Nat) (b : Nat × Sb) => decide (0 < b.2.fill) ||
    v.queue.any (fun q => q.2.place.die / 8 == gi && q.2.place.block == b.1)
  let mine := fun (gi : Nat) (b : Nat × Sb) => v.queue.filter (fun q => q.2.place.die / 8 == gi && q.2.place.block == b.1)
  let bare := fun (gi : Nat) (b : Nat × Sb) => (mine gi b).all (fun q => !q.2.done)
    && ((mine gi b).any (fun q => q.2.place.page == 0) || b.2.stripe == 0)
  let close := fun (gi : Nat) (g : DieGroup) => { g with victim := none, sbs := g.sbs.filterMap (fun b =>
    if !cut gi b then some b else if bare gi b then none else some (b.1, { b.2 with st := 2, fill := 0, closing := true })) }
  { v with map := map, groups := [], queue := [], rebuilds := [], copies := []
           dgs := (List.range v.dgs.length).map (fun gi => close gi (v.dgs.getD gi {})) }

/-- SEAM_RECOVERY: fast after TAIL_CLOSE, full without it; then the die runs, and a checkpoint of each Seam is due. -/
def opSeamRecovery (die : Nat) (s : State) : State :=
  let d := dieOf s die
  if !(alive s && decide (die < 4) && d.st == 1) then s
  else
    let mine := fun (x : Nat × SeamSt) => if x.1 / 16 = die then (x.1, recoverSeam x.2) else x
    let s1 := { s with flash := { s.flash with seams := s.flash.seams.map mine } }
    let s2 := modDie s1 die (fun d => { d with
      st := 2, recovery := if d.tailClosed then 1 else 2, progress := 100, admits := true, ckpt := none, todo := List.range 16
      spanPages := 0, spanStripes := 0, journal := 0, syncs := [], water := d.star
      err := if d.tailClosed then d.err else d.err ||| 0x40, tailClosed := false })
    goStarts ((List.range 16).foldl (fun s i => collect s (16 * die + i)) s2)

/-- The meaning of SEAM_RECOVERY. -/
def execSeamRecovery (die : Nat) (s : State) : Host.Outcome State Fault Refusal := .next (opSeamRecovery die s)

end Sys2Proof.Machine
end

