-- ==== Sys2Proof/Machine/Power.lean ====
section
/-! DEFINITION. Power, Canary and temperature: REPLAN and the re-planning pass, thermal and coolant events, the loss of
input (17 R396 to R415), and the levels of the control pins (21 R464, R465). -/

namespace Sys2Proof.Machine

/-! ### The re-planning pass (R406, R407) -/

/-- Whether a domain has a self-timed supply (R404). -/
def selfTimed (d : Nat) : Bool := !(45 ≤ d && d ≤ 58)

/-- A supply in tenths of mV rounded up to a step of 2.5 mV. -/
def stepUp (v10 : Nat) : Nat := (v10 + 24) / 25 * 25

/-- What rule 1 gives a domain: V_MIN or V_NEED, at most the ceiling of 850 mV. -/
def floorOf (p : DomPlan) (vNeed : Nat) : Nat := min 8500 (stepUp (10 * max p.vMin vNeed))

/-- A domain lowered by at most 20 mV toward what rule 1 gives. -/
def lowered (floor v : Nat) : Nat := max floor (v - 200)

/-- A domain raised by at most 20 mV toward V_NOM. -/
def raised (nom v : Nat) : Nat := if v < nom then min nom (v + 200) else v

/-- The readings of a pass taken into the domains (R403). -/
def readDomains (s : State) (r : PlanReading) : State :=
  let f := fun (p : Domain × Nat) => match r.domains[p.2]? with
    | none => p.1
    | some x => { p.1 with vNeed := x.vNeed, rate := x.rate, margin := x.margin, drift := x.drift, late := min 65535 x.late
                           power := if p.1.on then x.power else 0 }
  let ds := (s.power.domains.zip (List.range s.power.domains.length)).map f
  let err := fun (tj : Nat) => if (planInForce s).hotC < tj then s.power.err ||| 4 else s.power.err
  let keep := fun (old new : Nat) => if old = 0xFF then 0xFF else new
  { s with power := { s.power with
    domains := ds, powerW := (ds.map (·.power)).sum / 10, tjMax := r.tjMax, tjDomain := r.tjDomain, err := err r.tjMax
    inlet := keep s.power.inlet r.inlet, outlet := keep s.power.outlet r.outlet } }

/-- The plan that the configuration gives takes effect: its spares too (R404, R406). -/
def takePlan (s : State) : State :=
  let p := s.hf.plan.map (·.sec)
  if s.hf.planNow = p then s
  else { s with hf := { s.hf with planNow := p }, power := { s.power with classSpares := planSpares s (p.getD defaultPlan) } }

/-- The domains that a pass sets: those powered that have a self-timed supply. -/
def plannedDomains (s : State) : List Nat := (List.range 80).filter (fun d => (domainOf s d).on && selfTimed d)

/-- The supplies a pass gives (rules 1 to 4). While it is hot or above the cap, domains of the largest MARGIN are lowered
first, otherwise domains are raised in order; how many change before the condition ends depends on power and heat that the
block measures, so that number is a free value (log 5). -/
def setSupplies (s : State) : State :=
  let p := planInForce s
  let hot := decide (p.hotC < s.power.tjMax) || decide (p.capW < s.power.powerW)
  let rule1 := fun (d : Nat) => floorOf (p.domains.getD d ⟨600, 850, 720⟩) (domainOf s d).vNeed
  let ds := plannedDomains s
  let order := if hot then sortBy (fun a b => decide ((domainOf s b).margin < (domainOf s a).margin)) ds else ds
  let (f, s1) := takeFree s
  let chosen := order.take (f % (ds.length + 1))
  ds.foldl (fun s d =>
    let q := p.domains.getD d ⟨600, 850, 720⟩
    modDomain s d (fun x =>
      let v := if chosen.contains d then (if hot then lowered (rule1 d) x.v10 else raised (stepUp (10 * q.vNom)) x.v10) else x.v10
      { x with v10 := max (rule1 d) v, planned := true })) s1

/-- What a pass finds of the floor: domains above V_MAX, and whether the floor needs more than the cap (R407). -/
def floorFlags (s : State) : State :=
  let p := planInForce s
  let ds := plannedDomains s
  let above := ds.any (fun d => decide ((p.domains.getD d ⟨600, 850, 720⟩).vMax < (domainOf s d).vNeed))
  let atFloor := ds.all (fun d => decide ((domainOf s d).v10 ≤ floorOf (p.domains.getD d ⟨600, 850, 720⟩) (domainOf s d).vNeed))
  let beyond := decide (p.capW < s.power.powerW) && atFloor
  let err := s.power.err ||| (if above then 1 else 0) ||| (if beyond then 2 else 0)
  { s with power := { s.power with err := err, capBad := beyond } }

/-- STATE of PW_STATUS after a pass, and the end of the limit below 105 °C. -/
def thermalState (s : State) : State :=
  let p := s.power
  let limit := p.limitBad && decide (105 ≤ p.tjMax)
  { s with power := { p with limitBad := limit, st := if limit then 2 else if (planInForce s).hotC < p.tjMax then 1 else 0 } }

/-- The domain that holds a unit (R398); 80 for one that no self-timed domain holds. -/
def unitDomain (u : UnitId) : Nat :=
  match u.cls with
  | 0 => u.idx / 8
  | 1 => 17 + u.idx
  | 2 => 29 + u.idx / 4
  | 3 => 29 + u.idx / 4
  | 4 => 67
  | 5 => 68
  | 6 => 69
  | 7 => 70
  | 8 => 71
  | 9 => 72 + u.idx / 4
  | 0xA => 74 + u.idx / 4
  | 0xB => 76
  | 0xC => 77
  | 0xE => u.idx
  | 0xF => 59 + u.idx
  | 0x11 => 79
  | _ => 80

/-- The units that cannot hold the floor within 850 mV (R9, R407, R409): of each domain whose need exceeds it, the slowest
active unit; it is retired or replaced. -/
def floorMisses (s : State) (r : PlanReading) : State :=
  (plannedDomains s).foldl (fun s d => match r.domains[d]? with
    | some x => if 850 < x.vNeed && unitDomain x.slowest == d && decide (x.slowest.idx < unitCount x.slowest.cls)
        then floorMiss s x.slowest else s
    | none => s) s

/-- REPLAN_PASS: one pass; the units that miss the floor are retired or replaced; the REPLANs that wait complete with POWER_W, and a committed plan has taken effect. -/
def opReplanPass (r : PlanReading) (s : State) : State :=
  if !alive s then s
  else
    let s1 := thermalState (setSupplies (floorFlags (readDomains (takePlan s) r)))
    let s2 := { s1 with power := { s1.power with passes := satAdd 32 s1.power.passes 1, replans := [] } }
    let s2 := floorMisses s2 r
    let s3 := s1.power.replans.foldl (fun s o => doneWith s o (leBytes 2 s.power.powerW)) s2
    endEffect s3 .plan

/-- The meaning of REPLAN_PASS. -/
def execReplanPass (r : PlanReading) (s : State) : Host.Outcome State Fault Refusal := .next (opReplanPass r s)

/-- REPLAN: it waits for a pass that begins after it. -/
def opReplan (m : MDesc) (s : State) : State :=
  mgmtDesc s m (· == 0x85) (fun l => zeroAt l 16 112) (fun s o _ =>
    { s with power := { s.power with replans := s.power.replans ++ [o] } })

/-- The meaning of REPLAN. -/
def execReplan (m : MDesc) (s : State) : Host.Outcome State Fault Refusal := .next (opReplan m s)

/-! ### Temperature and coolant (R415) -/

/-- JUNCTION_HOT: a junction above HOT_C; the passes lower supplies while it lasts. -/
def opJunctionHot (domain celsius : Nat) (s : State) : State :=
  if alive s && decide ((planInForce s).hotC < celsius) then
    { s with power := { s.power with
      st := max 1 s.power.st, err := s.power.err ||| 4, tjMax := celsius, tjDomain := domain } }
  else s

/-- The meaning of JUNCTION_HOT. -/
def execJunctionHot (domain celsius : Nat) (s : State) : Host.Outcome State Fault Refusal := .next (opJunctionHot domain celsius s)

/-- THERMAL_LIMIT: 105 °C with every domain at its floor voltage; the floor is held. -/
def opThermalLimit (domain : Nat) (s : State) : State :=
  if alive s then
    { s with power := { s.power with st := 2, err := s.power.err ||| 8, limitBad := true, tjMax := max 105 s.power.tjMax, tjDomain := domain } }
  else s

/-- The meaning of THERMAL_LIMIT. -/
def execThermalLimit (domain : Nat) (s : State) : Host.Outcome State Fault Refusal := .next (opThermalLimit domain s)

/-- THERMAL_SHED: 110 °C; the module sheds, module-fatal. -/
def opThermalShed (domain : Nat) (s : State) : State :=
  if alive s then moduleFatal { s with power := { s.power with tjMax := max 110 s.power.tjMax, tjDomain := domain } } 7 none else s

/-- The meaning of THERMAL_SHED. -/
def execThermalShed (domain : Nat) (s : State) : Host.Outcome State Fault Refusal := .next (opThermalShed domain s)

/-- COOLANT_INLET_RANGE: the inlet is outside 15 °C to 45 °C; the module continues. -/
def opCoolantInletRange (celsius : Nat) (s : State) : State :=
  if alive s && decide (s.power.inlet ≠ 0xFF) && (decide (celsius < 15) || decide (45 < celsius)) then
    { s with power := { s.power with inlet := celsius, coolantBad := true } }
  else s

/-- The meaning of COOLANT_INLET_RANGE. -/
def execCoolantInletRange (celsius : Nat) (s : State) : Host.Outcome State Fault Refusal := .next (opCoolantInletRange celsius s)

/-- COOLANT_INLET_RETURN: the inlet is back in its range. -/
def opCoolantInletReturn (celsius : Nat) (s : State) : State :=
  if alive s && decide (s.power.inlet ≠ 0xFF) && decide (15 ≤ celsius) && decide (celsius ≤ 45) then
    { s with power := { s.power with inlet := celsius, coolantBad := false } }
  else s

/-- The meaning of COOLANT_INLET_RETURN. -/
def execCoolantInletReturn (celsius : Nat) (s : State) : Host.Outcome State Fault Refusal := .next (opCoolantInletReturn celsius s)

/-- SENSOR_FAULT: a coolant sensor is open or shorted; its reading is invalid. -/
def opSensorFault (inlet : Bool) (s : State) : State :=
  if alive s then
    let p := { s.power with err := s.power.err ||| 0x10, sensorBad := true }
    { s with power := if inlet then { p with inlet := 0xFF, coolantBad := false } else { p with outlet := 0xFF } }
  else s

/-- The meaning of SENSOR_FAULT. -/
def execSensorFault (inlet : Bool) (s : State) : Host.Outcome State Fault Refusal := .next (opSensorFault inlet s)

/-- LEAK: the leak-detect input is asserted; the module sheds, module-fatal. -/
def opLeak (s : State) : State :=
  if alive s then
    moduleFatal { s with power := { s.power with err := s.power.err ||| 0x20 }, boot := { s.boot with leakN := false } } 8 none
  else { s with boot := { s.boot with leakN := false } }

/-- The meaning of LEAK. -/
def execLeak (s : State) : Host.Outcome State Fault Refusal := .next (opLeak s)

/-! ### Loss of input (R402, R469) -/

/-- INPUT_LOSS: the input is below 40 V or above 60 V. The seam dies flush, the tail unwritten where hold-up is too short;
every domain but the seam quarters goes off. -/
def opInputLoss (millivolts : Nat) (s : State) : State :=
  if s.power.inputOk && (decide (millivolts < 40000) || decide (60000 < millivolts)) then
    let p := { s.power with inputOk := false, inputMv := min 65535 (millivolts / 10) }
    if s.boot.resetN && s.boot.stage == 3 then
      shed (flushDies { s with power := { p with err := p.err ||| 0x40 } } (decide (3000 ≤ s.boot.holdupUs)))
    else { s with power := p }
  else s

/-- The meaning of INPUT_LOSS. -/
def execInputLoss (millivolts : Nat) (s : State) : Host.Outcome State Fault Refusal := .next (opInputLoss millivolts s)

/-! ### The control pins (R464, R465) -/

/-- Whether PWR_OK is driven high. -/
def pwrOkDriven (s : State) : Bool := s.boot.resetN && s.boot.stage == 3 && s.boot.fatalCause == 0 && s.power.inputOk

/-- Whether ALERT_N is asserted: a condition that asserts it persists, or its W1C bit is set. -/
def alertAsserted (s : State) : Bool :=
  s.boot.fatalCause != 0 || s.boot.err.getLsbD 0
    || s.adit.links.any (fun x => x.st == 6 || x.err.getLsbD 5)
    || s.power.err &&& 0x1A != 0 || s.power.coolantBad || s.power.sensorBad || s.power.capBad || s.power.limitBad
    || s.hl.st == 4 || (s.boot.stage == 3 && s.boot.refclk &&& 3 == 0)
    || s.boot.pinErr &&& 0x30 != 0 || (s.boot.stage == 3 && !s.boot.strapValid)

/-- The levels that HF_PINS reads back: what is driven, or its opposite where the contact is stuck. -/
def pwrOkLevel (s : State) : Bool := pwrOkDriven s != s.boot.pwrOkStuck
def alertNLevel (s : State) : Bool := alertAsserted s == s.boot.alertStuck

/-- PIN_READBACK_MISMATCH: ALERT_N or PWR_OK reads back another level than is driven. -/
def opPinReadbackMismatch (alert : Bool) (s : State) : State :=
  if !alive s then s
  else if alert then { s with boot := { s.boot with alertStuck := true, pinErr := s.boot.pinErr ||| 2 } }
  else { s with boot := { s.boot with pwrOkStuck := true, pinErr := s.boot.pinErr ||| 4 } }

/-- The meaning of PIN_READBACK_MISMATCH. -/
def execPinReadbackMismatch (alert : Bool) (s : State) : Host.Outcome State Fault Refusal := .next (opPinReadbackMismatch alert s)

end Sys2Proof.Machine
end

