-- ==== Sys2Proof/Machine/Security.lean ====
section
/-! DEFINITION. The security store: image keys, attestation, the debug path and the TAP (20 R449 to R461), and
COUNTER_FREEZE (19 R437). -/

namespace Sys2Proof.Machine

/-- Whether the always-on region answers: out of reset, brought up, and no fatal cause latched (R430, R475). -/
def mgmtUp (s : State) : Bool := s.boot.resetN && s.boot.stage == 3 && s.boot.fatalCause == 0

/-! ### Image keys (R451, R452) -/

/-- Bit s where slot s is PROGRAMMED or REVOKED, and where it is REVOKED (R458). -/
def keysProgrammed (s : State) : Nat :=
  ((List.range 8).map (fun i => if (s.sec.keys.getD i {}).st != 0 then 2 ^ i else 0)).sum
def keysRevoked (s : State) : Nat :=
  ((List.range 8).map (fun i => if (s.sec.keys.getD i {}).st == 2 then 2 ^ i else 0)).sum

/-- The 132 bytes of the staged key. -/
def stagedKey (s : State) : List Byte := ((s.sec.keyData.map (fun w => leBytes 8 w.toNat)).flatten).take 132

/-- SC_KEY_STATUS after a command. -/
def keyStatus (s : State) (code : Nat) : State := { s with sec := { s.sec with keyStatus := code } }

/-- Whether key commands are refused with STATE: a claim is not ABSENT, or an IMAGE_LOAD is between steps 1 and 7. -/
def keysLocked (s : State) : Bool :=
  s.claims.any (fun c => c.st != 0) || (s.hf.load.map (fun j => decide (j.phase < 3))).getD false

/-- A key slot set. -/
def setKey (s : State) (n : Nat) (k : KeySlot) : State := { s with sec := { s.sec with keys := s.sec.keys.set n k } }

/-- KEY_PROGRAM: SC_KEY_CMD with ACTION PROGRAM. -/
def opKeyProgram (value : W64) (s : State) : State :=
  let n := bits value.toNat 2 0
  let key := stagedKey s
  if !mgmtUp s || bits value.toNat 5 4 != 1 then s
  else if keysLocked s then keyStatus s 1
  else if (s.sec.keys.getD n {}).st != 0 then keyStatus s 2
  else if !ecOn (beNat (slice key 0 66)) (beNat (slice key 66 66)) then keyStatus s 3
  else extendLog (keyStatus (setKey s n ⟨1, key⟩) 0) 5 0xF n 0 (sha512 key)

/-- The meaning of KEY_PROGRAM. -/
def execKeyProgram (value : W64) (s : State) : Host.Outcome State Fault Refusal := .next (opKeyProgram value s)

/-- KEY_REVOKE: SC_KEY_CMD with ACTION REVOKE. -/
def opKeyRevoke (value : W64) (s : State) : State :=
  let n := bits value.toNat 2 0
  let k := s.sec.keys.getD n {}
  if !mgmtUp s || bits value.toNat 5 4 != 2 then s
  else if keysLocked s then keyStatus s 1
  else if k.st != 1 then keyStatus s 4
  else if (s.sec.keys.filter (fun k => k.st == 1)).length == 1 then keyStatus s 5
  else extendLog (keyStatus (setKey s n { k with st := 2 }) 0) 6 0xF n 0 []

/-- The meaning of KEY_REVOKE. -/
def execKeyRevoke (value : W64) (s : State) : Host.Outcome State Fault Refusal := .next (opKeyRevoke value s)

/-! ### Attestation (R457, R458) -/

/-- HF_CLAIM_STATE and HF_ADJUST_SEQ. -/
def claimStateWord (s : State) : Nat := ((List.range 4).map (fun c => (claimOf s c).st % 16 * 16 ^ c)).sum
def adjSeqWord (s : State) : Nat := ((List.range 4).map (fun c => (claimOf s c).adjSeq % 65536 * 65536 ^ c)).sum

/-- FIRST_SEQ: the oldest entry still readable (R456). -/
def firstSeq (s : State) : Nat := s.sec.logCount - s.sec.log.length

/-- The retired arrays as a mask of 136 bits, and how many other units are retired (R458). -/
def retiredMask (s : State) : Nat :=
  ((dedup ((s.power.retired.filter (fun u => u.cls == 0)).map (·.idx))).map (2 ^ ·)).sum
def retiredOther (s : State) : Nat := (s.power.retired.filter (fun u => u.cls != 0)).length

/-- Bytes 0 to 379 of a report (R458). -/
def reportBody (s : State) (nonce : List Byte) : List Byte :=
  leBytes 4 0x54535441 ++ leBytes 1 1 ++ leBytes 1 (if Config.orderH then 1 else 0) ++ leBytes 2 1
    ++ leBytes 8 Config.serial.toNat ++ leBytes 8 s.sec.bootCount ++ leBytes 8 s.sec.attaches
    ++ leBytes 8 s.sec.logCount ++ leBytes 8 (firstSeq s) ++ padTo 64 s.sec.m ++ padTo 32 nonce
    ++ padTo 64 s.hf.digest ++ ((List.range 4).map (fun c => leBytes 8 (claimOf s c).imageId)).flatten
    ++ leBytes 8 (adjSeqWord s) ++ leBytes 2 (claimStateWord s)
    ++ leBytes 1 (keysProgrammed s) ++ leBytes 1 (keysRevoked s) ++ leBytes 4 0
    ++ leBytes 17 (retiredMask s) ++ leBytes 3 0 ++ leBytes 4 (retiredOther s) ++ leBytes 100 0

/-- A report: its fields and the signature of the device identity key. -/
def report (s : State) (nonce : List Byte) : List Byte :=
  let b := reportBody s nonce
  b ++ padTo 132 (Config.deviceSign b)

/-- What ATTEST with MODE 1 writes: three lengths, then the certificates (R450). -/
def chainBytes : List Byte :=
  let cs := (List.range 3).map Config.certificate
  (cs.map (fun c => leBytes 4 c.length)).flatten ++ cs.flatten

/-- What ATTEST with MODE 2 writes: readable entries from FROM_SEQ, as many as fit (R456). -/
def logBytes (s : State) (fromSeq size : Nat) : List Byte :=
  ((s.sec.log.drop (fromSeq - firstSeq s)).take (size / 96)).flatten

/-- Whether the reserved bytes of an ATTEST are 0 (R472). -/
def attestZero (l : List Byte) : Bool := zeroAt l 17 3 && zeroAt l 40 8 && zeroAt l 80 48

/-- ATTEST. -/
def opAttest (m : MDesc) (s : State) : State :=
  mgmtDesc s m (· == 0x86) attestZero (fun s o l =>
    let mode := byteAt l 16
    let size := fld l 20 4
    let out := if mode = 0 then report s (slice l 48 32) else if mode = 1 then chainBytes else logBytes s (fld l 32 8) size
    let least := if mode = 2 then 96 else out.length
    if 2 < mode || size < least then bad s o 0x16
    else doneWith (putHost s (fld l 24 8) out) o (leBytes 4 out.length))

/-- The meaning of ATTEST. -/
def execAttest (m : MDesc) (s : State) : Host.Outcome State Fault Refusal := .next (opAttest m s)

/-- COUNTER_FREEZE: every Tally counter into the snapshot bank (R437). -/
def opCounterFreeze (m : MDesc) (s : State) : State :=
  mgmtDesc s m (· == 0x87) (fun l => zeroAt l 16 112) (fun s o _ =>
    let n := s.watch.snapSeq + 1
    let s1 := passAll s
    doneWith { s1 with watch := { s1.watch with snap := s1.watch.live, snapSeq := n } } o (leBytes 8 n.toNat))

/-- The meaning of COUNTER_FREEZE. -/
def execCounterFreeze (m : MDesc) (s : State) : Host.Outcome State Fault Refusal := .next (opCounterFreeze m s)

/-- RESERVED_MGMT_OPCODE: codes 0x88 to 0xFF complete with BAD_DESCRIPTOR, reason FIELD (R471); those below 0x80 are of the
wrong kind for the management ring (R77). -/
def opReservedMgmtOpcode (m : MDesc) (s : State) : State :=
  mgmtDesc s m (fun c => decide (c < 0x80) || decide (0x88 ≤ c)) (fun _ => true) (fun s o _ => bad s o 0x16)

/-- The meaning of RESERVED_MGMT_OPCODE. -/
def execReservedMgmtOpcode (m : MDesc) (s : State) : Host.Outcome State Fault Refusal := .next (opReservedMgmtOpcode m s)

/-! ### Debug reads (R460) -/

/-- Granules of a Lode: 128 GiB of 128 bytes. -/
def lodeGranules : Nat := 2 ^ 30

/-- A debug read: the granules copied, the entry appended, the buffer readable. What a granule holds, and whether it is
poisoned, is free (log 5); a poisoned granule is copied as zeros. -/
def debugRead (value : W64) (s : State) : State :=
  let v := value.toNat
  let first := bits v 63 34
  let count := bits v 13 8
  let lode := bits v 3 0
  if count = 0 || 32 < count then s
  else if 12 ≤ lode || lodeGranules < first + count then { s with sec := { s.sec with dbgState := 3 } }
  else
    let ctr := s.freeCtr
    let (f, s1) := takeFree s
    let gran := fun (i : Nat) =>
      if bit f i then List.replicate 128 0 else (List.range 128).map (fun j => Config.lodeByte lode (128 * (first + i) + j) ctr)
    let bytes := ((List.range count).map gran).flatten
    let s2 := extendLog s1 8 0xF (lode + first * 65536) count (sha512 bytes)
    { s2 with sec := { s2.sec with
      dbgReads := satAdd 32 s2.sec.dbgReads 1, dbgPoison := (List.range count).any (bit f), dbgState := 2, dbgBuf := padTo 4096 bytes } }

/-- DEBUG_READ: a write of SC_DBG_CMD. -/
def opDebugRead (value : W64) (s : State) : State := if mgmtUp s then debugRead value s else s

/-- The meaning of DEBUG_READ. -/
def execDebugRead (value : W64) (s : State) : Host.Outcome State Fault Refusal := .next (opDebugRead value s)

/-! ### The TAP (R459) -/

/-- Whether the TAP runs an instruction: the module is out of reset, and the TAP has left Test-Logic-Reset. -/
def tapOn (s : State) : Bool := s.boot.resetN && s.boot.stage == 3 && s.sec.tap.attached

/-- The instruction in the TAP's instruction register: 0 IDCODE (after Test-Logic-Reset), 1 BYPASS, 2 EXTEST,
3 SAMPLE/PRELOAD, 4 CLAMP, 5 HIGHZ, 6 MGMT, 7 LODE_READ. -/
def loadInstr (s : State) (n : Nat) : State := { s with sec := { s.sec with tap := { s.sec.tap with instr := n } } }

/-- JTAG_ATTACH: the TAP leaves Test-Logic-Reset; the first instruction is in `opcode`. -/
def opJtagAttach (opcode : Byte) (s : State) : State :=
  if s.boot.resetN && s.boot.stage == 3 && !s.sec.tap.attached then
    let n := satAdd 64 s.sec.attaches 1
    extendLog { s with sec := { s.sec with attaches := n, tap := { s.sec.tap with attached := true } } } 7 0xF opcode.toNat n []
  else s

/-- The meaning of JTAG_ATTACH. -/
def execJtagAttach (opcode : Byte) (s : State) : Host.Outcome State Fault Refusal := .next (opJtagAttach opcode s)

/-- TEST_LOGIC_RESET: through TRST_N or TMS. -/
def opTestLogicReset (s : State) : State := { s with sec := { s.sec with tap := { attached := false, instr := 0 } } }

/-- The meaning of TEST_LOGIC_RESET. -/
def execTestLogicReset (s : State) : Host.Outcome State Fault Refusal := .next (opTestLogicReset s)

/-- BYPASS: one bit between TDI and TDO, which captures 0 (log 13). -/
def opBypass (s : State) : State := if tapOn s then emit (loadInstr s 1) (.tdo 1 0) else s

/-- The meaning of BYPASS. -/
def execBypass (s : State) : Host.Outcome State Fault Refusal := .next (opBypass s)

/-- IDCODE: the 32 bits of the device identification. -/
def opIdcode (s : State) : State := if tapOn s then emit (loadInstr s 0) (.tdo 32 (Config.idcode % 2 ^ 32)) else s

/-- The meaning of IDCODE. -/
def execIdcode (s : State) : Host.Outcome State Fault Refusal := .next (opIdcode s)

/-- An instruction that takes the pins: while a claim is RUNNING or ENDING it is refused, and BYPASS is loaded. -/
def loadPins (s : State) (n : Nat) : State :=
  if !tapOn s then s
  else if (List.range 4).any (claimRuns s) then opBypass s
  else loadInstr s n

/-- EXTEST. -/
def opExtest (s : State) : State := loadPins s 2
/-- CLAMP. -/
def opClamp (s : State) : State := loadPins s 4
/-- HIGHZ. -/
def opHighz (s : State) : State := loadPins s 5
/-- SAMPLE/PRELOAD: the boundary register samples or preloads beside the module's work. -/
def opSamplePreload (s : State) : State := if tapOn s then loadInstr s 3 else s
/-- LODE_READ: a debug read by the TAP. -/
def opLodeRead (value : W64) (s : State) : State :=
  if tapOn s && mgmtUp s then debugRead value (loadInstr s 7) else s

/-- The meaning of EXTEST. -/
def execExtest (s : State) : Host.Outcome State Fault Refusal := .next (opExtest s)
/-- The meaning of CLAMP. -/
def execClamp (s : State) : Host.Outcome State Fault Refusal := .next (opClamp s)
/-- The meaning of HIGHZ. -/
def execHighz (s : State) : Host.Outcome State Fault Refusal := .next (opHighz s)
/-- The meaning of SAMPLE_PRELOAD. -/
def execSamplePreload (s : State) : Host.Outcome State Fault Refusal := .next (opSamplePreload s)
/-- The meaning of LODE_READ. -/
def execLodeRead (value : W64) (s : State) : Host.Outcome State Fault Refusal := .next (opLodeRead value s)

end Sys2Proof.Machine
end

