-- ==== Sys2Proof/Machine/Bringup.lean ====
section
/-! DEFINITION. Reset and bring-up (18 R431, 21 R466 to R470), the end of hold-up (17 R402), and the I3C bus with the MCTP
control commands (21 R467, R468). -/

namespace Sys2Proof.Machine

/-! ### Reset (R431) -/

/-- A pit after a reset: what is durable in flash. -/
def resetPit (p : PitStore) : PitStore := { layout := p.layout, live := p.dur, dur := p.dur, published := p.published }

/-- A ledger after a reset: what is durable in flash. -/
def resetLedger (l : LedgerStore) : LedgerStore := { layout := l.layout, live := l.dur, dur := l.dur }

/-- A seam die after a reset: OFF until it is powered and recovers; what flash tells of it is kept. -/
def resetDie (d : SeamDie) : SeamDie :=
  { st := 0, recovery := d.recovery, seq := d.seq, water := d.water, star := d.star, tailClosed := d.tailClosed }

/-- Every field at its Reset value, but for what survives (R431): flash with the pits and ledgers in it, the retirement
record, the security store's fuses and lifetime counters; and but for what is outside the block: companion memory, what the
block has answered, the pins and the input, the TAP, the queue. -/
def resetAll (kind : Nat) (s : State) : State :=
  { boot := { resetKind := kind, resetN := s.boot.resetN, leakN := s.boot.leakN, refclk := s.boot.refclk
              holdupUs := s.boot.holdupUs, pwrOkMs := s.boot.pwrOkMs }
    store := { pits := s.store.pits.map (fun p => (p.1, resetPit p.2)), ledgers := s.store.ledgers.map (fun p => (p.1, resetLedger p.2)) }
    flash := { dies := s.flash.dies.map resetDie, seams := s.flash.seams }
    power := { retired := s.power.retired, spares := s.power.spares.filter (fun p => !s.power.joins.contains p.1), inputOk := s.power.inputOk, inputMv := s.power.inputMv }
    sec := { bootCount := s.sec.bootCount, attaches := s.sec.attaches, keys := s.sec.keys, tap := s.sec.tap }
    host := s.host, out := s.out, freeCtr := s.freeCtr, pending := s.pending }

/-! ### Bring-up (R470) -/

/-- The pin straps read (R466): the code, the address, and the fault of a strap that reads no level. Where one does, the
strap code is free (log 5). -/
def readStraps (b : BringUp) (s : State) : State :=
  let lev := fun (x : Option Nat) => x.filter (fun n => decide (n < 4))
  match lev b.strap0, lev b.strap1 with
  | some l0, some l1 =>
    let code := 4 * l1 + l0
    { s with boot := { s.boot with strapValid := true, strapCode := BitVec.ofNat 4 code, staticAddr := BitVec.ofNat 8 (0x30 + code) } }
  | _, _ =>
    let (f, s1) := takeFree s
    { s1 with boot := { s1.boot with
      strapValid := false, strapCode := BitVec.ofNat 4 f, staticAddr := 0x2F, pinErr := s1.boot.pinErr ||| 0x10 } }

/-- Hold-up measured (R469) and the interval counters calibrated (R369). -/
def measure (b : BringUp) (s : State) : State :=
  { s with
    boot := { s.boot with
      holdupUs := min 65535 b.holdupUs, pwrOkMs := min 65535 b.pwrOkMs
      pinErr := if b.holdupUs < 5000 then s.boot.pinErr ||| 0x20 else s.boot.pinErr }
    haul := { s.haul with
      calState := if b.calOk then 1 else 2, errPpm := min 65535 b.errPpm
      err := if b.calOk then s.haul.err else s.haul.err ||| 4 } }

/-- The first two entries of the log, after BOOT_COUNT has gone up. What the retirement record's bytes are, and so their
digest, is free (log 31). -/
def logBoot (s : State) : State :=
  let n := satAdd 64 s.sec.bootCount 1
  let s1 := extendLog { s with sec := { s.sec with bootCount := n } } 1 0xF s.boot.resetKind n []
  let (f, s2) := takeFree s1
  extendLog s2 2 0xF (popcount 136 (retiredMask s2)) (retiredOther s2) (leBytes 64 f)

/-- The domains that bring-up powers, in its order (R400, R470 step 4). -/
def bootDomains : List Nat := [57, 58, 29, 33, 37, 41, 30, 31, 32, 34, 35, 36, 38, 39, 40, 42, 43, 44]

/-- A unit that failed its self-test at power-up: an array is retired (R409), another unit is fenced (R431). -/
def failUnit (s : State) (u : UnitId) : State :=
  if unitCount u.cls ≤ u.idx then s else if u.cls = 0 then retire s u else fenceUnit s u 5

/-- Steps 2 to 5 of R470, and the start of step 6: Hoistlink trains and the seam dies recover. A leak input that is asserted then is a
leak again (R415). -/
def bringUp (b : BringUp) (s : State) : State :=
  let s1 := readStraps b (measure b (logBoot s))
  let s2 := (bootDomains.map (fun d => (d, true))).foldl switchDomain s1
  let (f, s3) := takeFree s2
  let s4 := { s3 with
    boot := { s3.boot with stage := 3, leakN := !b.leak }
    hl := { s3.hl with st := 1 }
    power := { s3.power with inputMv := 4000 + f % 2001 }
    flash := { s3.flash with dies := s3.flash.dies.map (fun d => { d with st := 1 }) } }
  let s5 := b.failed.foldl failUnit s4
  if b.leak then opLeak s5 else s5

/-- RESET_N_RELEASE: bring-up from step 2 where the input is within its range. -/
def opResetNRelease (b : BringUp) (s : State) : State :=
  if s.boot.resetN then s
  else
    let s1 := { s with boot := { s.boot with resetN := true } }
    if s.power.inputOk then bringUp b s1 else s1

/-- The meaning of RESET_N_RELEASE. -/
def execResetNRelease (b : BringUp) (s : State) : Host.Outcome State Fault Refusal := .next (opResetNRelease b s)

/-- RESET_N_ASSERT: the seam dies act as R351, then the module is reset and stays so. -/
def opResetNAssert (s : State) : State :=
  if s.boot.resetN then
    let s1 := { s with boot := { s.boot with resetN := false } }
    if s.boot.stage == 0 then s1 else resetAll 2 (flushDies s1 true)
  else s

/-- The meaning of RESET_N_ASSERT. -/
def execResetNAssert (s : State) : Host.Outcome State Fault Refusal := .next (opResetNAssert s)

/-- HOLDUP_END: the always-on region and the seam quarters lose power. -/
def opHoldupEnd (s : State) : State :=
  if s.power.inputOk then s else resetAll 1 { s with sec := { s.sec with tap := {} } }

/-- The meaning of HOLDUP_END. -/
def execHoldupEnd (s : State) : Host.Outcome State Fault Refusal := .next (opHoldupEnd s)

/-- POWER_ON: the input enters its range. Bring-up follows where the module is down and RESET_N is high; while hold-up
still serves a module that shuts down, the input's return restores nothing (R402). -/
def opPowerOn (b : BringUp) (s : State) : State :=
  if s.power.inputOk then s
  else
    let s1 := { s with power := { s.power with inputOk := true } }
    if s.boot.resetN && s.boot.stage == 0 then bringUp b s1 else s1

/-- The meaning of POWER_ON. -/
def execPowerOn (b : BringUp) (s : State) : Host.Outcome State Fault Refusal := .next (opPowerOn b s)

/-! ### The I3C bus (R467, R468) -/

/-- Whether the always-on region runs at all: PWR_OK follows it. -/
def upNow (s : State) : Bool := s.boot.resetN && s.boot.stage == 3

/-- Whether the sideband answers: the module is up and its bus is free. -/
def sidebandUp (s : State) : Bool := upNow s && !s.boot.busHeld

/-- SIDEBAND_BUS_HELD: a line held for 1 ms. -/
def opSidebandBusHeld (s : State) : State :=
  if upNow s then { s with boot := { s.boot with busHeld := true, pinErr := s.boot.pinErr ||| 8 } } else s

/-- The meaning of SIDEBAND_BUS_HELD. -/
def execSidebandBusHeld (s : State) : Host.Outcome State Fault Refusal := .next (opSidebandBusHeld s)

/-- I3C_BUS_FREE: the bus that was held frees. -/
def opI3cBusFree (s : State) : State := { s with boot := { s.boot with busHeld := false } }

/-- The meaning of I3C_BUS_FREE. -/
def execI3cBusFree (s : State) : Host.Outcome State Fault Refusal := .next (opI3cBusFree s)

/-- I3C_DYNAMIC_ADDRESS: the board's controller assigns an address. -/
def opI3cDynamicAddress (addr : Byte) (s : State) : State :=
  if sidebandUp s then { s with boot := { s.boot with dynAddr := addr } } else s

/-- The meaning of I3C_DYNAMIC_ADDRESS. -/
def execI3cDynamicAddress (addr : Byte) (s : State) : Host.Outcome State Fault Refusal := .next (opI3cDynamicAddress addr s)

/-! ### MCTP control commands (R467; the message bodies are DSP0236's, log 33) -/

/-- An MCTP control response: command code, completion code and data. -/
def mctpAnswer (s : State) (cmd code : Nat) (body : List Byte) : State :=
  emit s (.sideband (leBytes 1 cmd ++ leBytes 1 code ++ body))

/-- SET_ENDPOINT_ID: 0x00 and 0xFF are no endpoint IDs. -/
def opSetEndpointId (eid : Byte) (s : State) : State :=
  if !sidebandUp s then s
  else if eid = 0 || eid = 0xFF then mctpAnswer s 1 2 []
  else mctpAnswer { s with boot := { s.boot with eid := eid } } 1 0 [0, eid, 0]

/-- The meaning of SET_ENDPOINT_ID. -/
def execSetEndpointId (eid : Byte) (s : State) : Host.Outcome State Fault Refusal := .next (opSetEndpointId eid s)

/-- GET_ENDPOINT_ID: the ID, a simple endpoint with a dynamic ID, nothing medium-specific. -/
def opGetEndpointId (s : State) : State := if sidebandUp s then mctpAnswer s 2 0 [s.boot.eid, 0, 0] else s

/-- The meaning of GET_ENDPOINT_ID. -/
def execGetEndpointId (s : State) : Host.Outcome State Fault Refusal := .next (opGetEndpointId s)

/-- GET_MCTP_VERSION_SUPPORT: one entry, the base protocol version 1.3. -/
def opGetMctpVersionSupport (s : State) : State :=
  if sidebandUp s then mctpAnswer s 4 0 [1, 0xF1, 0xF3, 0xFF, 0] else s

/-- The meaning of GET_MCTP_VERSION_SUPPORT. -/
def execGetMctpVersionSupport (s : State) : Host.Outcome State Fault Refusal := .next (opGetMctpVersionSupport s)

/-- GET_MESSAGE_TYPE_SUPPORT: one type beside MCTP control, 0x7F. -/
def opGetMessageTypeSupport (s : State) : State := if sidebandUp s then mctpAnswer s 5 0 [1, 0x7F] else s

/-- The meaning of GET_MESSAGE_TYPE_SUPPORT. -/
def execGetMessageTypeSupport (s : State) : Host.Outcome State Fault Refusal := .next (opGetMessageTypeSupport s)

/-- GET_VENDOR_DEFINED_MESSAGE_SUPPORT: the last set, IANA format 0x01, the enterprise number most significant byte first. -/
def opGetVendorDefinedMessageSupport (s : State) : State :=
  if sidebandUp s then mctpAnswer s 6 0 ([0xFF, 1] ++ beBytes 4 Config.iana ++ [0, 0]) else s

/-- The meaning of GET_VENDOR_DEFINED_MESSAGE_SUPPORT. -/
def execGetVendorDefinedMessageSupport (s : State) : Host.Outcome State Fault Refusal := .next (opGetVendorDefinedMessageSupport s)

end Sys2Proof.Machine
end

