-- ==== Sys2Proof/Machine/ReadRegs.lean ====
section
/-! DEFINITION. What the registers read, first part: Headframe, Hoistlink, the Foreman, and the engine blocks from the
Crusher to Ledgers (chapters 02 to 11, 18 and 21, each under its Registers heading). A function takes the offset within its
block; a reserved offset reads 0 (R15). -/

namespace Sys2Proof.Machine

/-! ### Words from fields -/

/-- A word from fields given as lowest bit, width and value; a value is cut to its width. -/
def packWord (fs : List (Nat × Nat × Nat)) : Nat := (fs.map (fun f => f.2.2 % 2 ^ f.2.1 * 2 ^ f.1)).sum

/-- A saturating field. -/
def satF (w v : Nat) : Nat := min (2 ^ w - 1) v

/-- A bit. -/
def bitF (b : Bool) : Nat := if b then 1 else 0

/-- A mask of those of `n` units that a test picks. -/
def maskF (n : Nat) (p : Nat → Bool) : Nat := ((List.range n).map (fun i => if p i then 2 ^ i else 0)).sum

/-- Whether a domain is on. -/
def domOn (s : State) (d : Nat) : Bool := (domainOf s d).on

/-- The claim that owns a unit, as a field: 0xF where none does, and 0 before an image is in force (R18). -/
def ownerField (s : State) (u : UnitId) : Nat := if s.hf.moduleInForce then (unitOwner s u).getD 0xF else 0

/-- The word of a run of registers 8 bytes apart, from an offset: their number is the argument. -/
def regRun (rel base n : Nat) (f : Nat → Nat) : Option Nat :=
  if base ≤ rel && rel < base + 8 * n then some (f ((rel - base) / 8)) else none

/-- The first of several register runs that holds an offset; 0 where none does. -/
def firstReg (l : List (Option Nat)) : Nat := (l.findSome? id).getD 0

/-! ### Headframe (02, 18, 21) -/

/-- Whether a DELTA of a claim is between issue and completion. -/
def deltaPending (s : State) (c : Nat) : Bool :=
  (claimOf s c).adjust.isSome || (s.hf.load.map (fun j => j.kind == 2 && j.claim == c)).getD false
    || s.hf.waiting.any (fun j => j.claim == c)

/-- HF_FENCE_INFO of a unit. -/
def fenceInfo (s : State) (u : UnitId) : Nat :=
  let f := kgetD s.hf.fences u {}
  packWord [(32, 32, f.ended), (16, 16, f.returned), (8, 8, f.cause), (0, 2, f.st)]

/-- HF_FATAL. -/
def fatalWord (s : State) : Nat := packWord [(8, 32, s.boot.fatalUnit), (0, 8, s.boot.fatalCause)]

/-- HF_PINS. -/
def pinsWord (s : State) : Nat :=
  packWord [(39, 1, bitF s.boot.leakN), (38, 1, bitF (alertNLevel s)), (37, 1, bitF (pwrOkLevel s)), (36, 1, bitF s.boot.resetN),
    (32, 4, s.boot.refclk.toNat), (0, 6, s.boot.pinErr.toNat)]

/-- HF_STRAPS. -/
def strapsWord (s : State) : Nat :=
  packWord [(32, 32, Config.iana), (24, 8, s.boot.eid.toNat), (16, 8, s.boot.dynAddr.toNat), (8, 8, s.boot.staticAddr.toNat),
    (4, 1, bitF s.boot.strapValid), (0, 4, s.boot.strapCode.toNat)]

/-- The registers of Headframe. -/
def readHeadframe (s : State) (rel : Nat) : Nat :=
  let one := fun (o v : Nat) => regRun rel o 1 (fun _ => v)
  let h := s.hf
  firstReg [
    one 0x100 (packWord [(40, 8, h.refuseCode), (8, 16, h.sections), (4, 4, h.imgKind), (0, 4, h.loadState)]),
    regRun rel 0x108 8 (fun n => fld h.digest (8 * n) 8),
    one 0x148 (claimStateWord s),
    one 0x150 (adjSeqWord s),
    one 0x158 (packWord [(8, 8, h.adjCode), (4, 4, h.adjClaim), (0, 4, maskF 4 (deltaPending s))]),
    regRun rel 0x160 12 (fun _ => lodeAvail),
    regRun rel 0x1C0 4 (fun c => (claimOf s c).imageId),
    one 0x1E0 h.moduleImage,
    one 0x1E8 h.moduleAdjSeq,
    one 0x200 h.fenceSel.toNat,
    one 0x208 (fenceInfo s ⟨h.fenceSel.toNat % 256, h.fenceSel.toNat / 256⟩),
    one 0x210 (packWord [(32, 4, h.faultClass), (0, 32, h.faultUnit)]),
    one 0x218 (packWord [(48, 16, h.cntUnit), (32, 16, h.cntShared), (16, 16, h.cntRequest), (0, 16, h.cntLink)]),
    one 0x220 (packWord [(32, 32, h.audits), (0, 32, h.lastReturned)]),
    one 0x228 (fatalWord s),
    one 0x230 s.boot.resetKind,
    one 0x238 s.boot.err.toNat,
    one 0x300 (packWord [(32, 16, s.boot.holdupUs), (16, 16, s.boot.pwrOkMs), (0, 2, s.boot.stage)]),
    one 0x308 (pinsWord s),
    one 0x310 (strapsWord s)]

/-! ### Hoistlink (03) -/

/-- The state of a ring: FULL is an ENABLED completion ring with no free entry. -/
def ringState (s : State) (id : RingId) : Nat :=
  match kget s.hl.rings id with
  | none => 0
  | some g => if id.cpl && g.st == 1 && cplFree s id.claim id.idx == 0 then 3 else g.st

/-- The ring of an entry number: 512 to a claim, the submission rings first. -/
def ringOfEntry (g : Nat) : RingId := ⟨g / 512, decide (256 ≤ g % 512), g % 256⟩

/-- The registers of Hoistlink. -/
def readHoistlink (s : State) (rel : Nat) : Nat :=
  let one := fun (o v : Nat) => regRun rel o 1 (fun _ => v)
  let h := s.hl
  firstReg [
    one 0 (packWord [(51, 1, bitF h.refclkSrc), (50, 1, bitF h.reversed), (34, 16, h.polFix.toNat), (18, 16, h.laneMask.toNat),
      (13, 5, popcount 16 h.laneMask.toNat), (0, 4, h.st)]),
    one 8 h.laneDisable.toNat,
    one 0x10 (packWord [(16, 8, h.chosen.toNat), (8, 8, h.peerSet.toNat), (0, 8, 1)]),
    regRun rel 0x20 3 (fun n => packWord [(32, 32, (h.vc.getD n {}).issued.toNat), (0, 32, (h.vc.getD n {}).returned.toNat)]),
    one 0x40 (packWord [(40, 24, h.fecCorrected), (16, 24, h.crcRetry), (0, 6, h.err.toNat)]),
    one 0x48 (packWord [(32, 4, h.mgmtErrCode), (0, 26, h.mgmtErrOffset.toNat)]),
    regRun rel 0x100 4 (fun c => (h.ringTable.getD c 0).toNat),
    one 0x120 h.mgmtRingTable.toNat,
    one 0x130 h.ringCmdStatus,
    one 0x138 (packWord [(4, 4, ringState s ⟨4, true, 0⟩), (0, 4, ringState s ⟨4, false, 0⟩)]),
    regRun rel 0x400 128 (fun r => packWord ((List.range 16).map (fun i => (4 * i, 4, ringState s (ringOfEntry (16 * r + i))))))]

/-! ### The Foreman (04) -/

/-- FM_SLOT_INFO of a slot. RECIPE of an occupant that names none, SEARCH_ONLY or FLAT_SCAN, reads 0 (DESIGN CHOICE, log 113). -/
def slotInfo (s : State) (n : Nat) : Nat :=
  let v := slotOf s n
  let c := (List.range 4).find? (fun c => slotIn s c n)
  match v.occ with
  | none => packWord [(48, 16, v.gen.toNat), (20, 4, c.getD 0xF)]
  | some r => packWord [(48, 16, v.gen.toNat), (32, 16, r.tenant), (24, 8, r.bind.recipeNo.getD 0), (20, 4, c.getD 0xF),
      (12, 8, r.commit.getD 0), (0, 2, if r.commit.isSome then 2 else 1)]

/-- The registers of the Foreman. -/
def readForeman (s : State) (rel : Nat) : Nat :=
  firstReg [
    regRun rel 0 4 (fun c => ((requests s).filter (fun r => slotIn s c r.1)).length),
    regRun rel 0x20 1 (fun _ => s.fm.slotSel.toNat),
    regRun rel 0x28 1 (fun _ => slotInfo s s.fm.slotSel.toNat),
    regRun rel 0x30 1 (fun _ => packWord [(42, 21, s.fm.bad), (21, 21, s.fm.policed), (0, 21, s.fm.noSlot)])]

/-! ### Work on units (log 35) -/

/-- Whether a command of a step type (none: any) is on a unit of a roster engine class. -/
def unitBusy (s : State) (engine unit : Nat) (typ : Option Nat) : Bool :=
  s.haul.rosters.any (fun p => p.1.engine == engine && p.1.unit == unit && p.2.queue.any (fun x =>
    match typ with
    | none => true
    | some t => ((x.slot.bind (reqOf s)).bind (fun r => ((planOf r)[x.step]?).map (·.typ))) == some t))

/-! ### Crusher (05) -/

/-- The claim that has a vocabulary, and the bytes of the vocabulary's three sections. -/
def vocabOwner (s : State) (v : Nat) : Option Nat := (List.range 4).find? (fun c => (vocabOf s c v).isSome)
def vocabBytes (s : State) (v : Nat) : Nat :=
  match (vocabOwner s v).bind (cfgOf s) with
  | none => 0
  | some g =>
    ((kget g.vocabs v).map (·.len)).getD 0 + ((kget g.merges v).map (·.len)).getD 0 + ((kget g.classes v).map (·.len)).getD 0

/-- CR_VOCAB of a vocabulary index. -/
def vocabWord (s : State) (v : Nat) : Nat :=
  match vocabOwner s v with
  | none => packWord [(24, 4, 0xF)]
  | some c =>
    let x := (vocabOf s c v).map (fun x => (x.stopsets.length, x.toks.length))
    packWord [(48, 16, (vocabBytes s v + 1023) / 1024), (32, 11, (x.map (·.1)).getD 0), (24, 4, c), (0, 19, (x.map (·.2)).getD 0)]

/-- Whether a Crusher lane detokenizes (R109): the requests of its claim with a batch on its way take, one each, the lanes in
service that run no TOKENIZE step, from the lowest (log 35). -/
def laneDetok (s : State) (lane : Nat) : Bool :=
  (List.range 4).any (fun c =>
    let free := (claimUnits s c 4).filter (fun i => unitOk s 4 i && !unitBusy s 4 i (some 1))
    let n := ((requests s).filter (fun r => r.2.claim == c && !r.2.gen.batches.isEmpty)).length
    (free.take n).contains lane)

/-- The registers of the Crusher. -/
def readCrusher (s : State) (rel : Nat) : Nat :=
  let one := fun (o v : Nat) => regRun rel o 1 (fun _ => v)
  let e := s.eng
  firstReg [
    one 0 (packWord [(0, 32, ((List.range 8).map (vocabBytes s)).sum)]),
    regRun rel 8 8 (vocabWord s),
    one 0x48 (packWord [(8, 8, maskF 8 (laneDetok s)), (0, 8, maskF 8 (fun i => unitBusy s 4 i (some 1)))]),
    one 0x50 (packWord [(32, 32, satF 32 e.crInvalid), (16, 16, satF 16 e.crTrunc), (0, 16, satF 16 e.crStops)]),
    one 0x58 (packWord [(32, 32, satF 32 e.crCe), (0, 2, e.crErr.toNat)])]

/-! ### Selector and Timber (11) -/

/-- The versions held of a grammar of a claim: the current one, and those that requests still bind. -/
def grammarNow (s : State) (c n : Nat) : Option GrammarSec := (cfgOf s c).bind (fun g => secOf g.grammars n)
def grammarOld (s : State) (c n : Nat) : List GrammarSec :=
  ((heldGrammars s (liveCfgs s)).filter (fun h => h.1.1 == c && h.1.2.1 == n)).map (·.2)

/-- TB_GRAMMAR of a grammar of a claim. -/
def grammarWord (s : State) (c n : Nat) : Nat :=
  let old := grammarOld s c n
  match grammarNow s c n with
  | some g => packWord [(56, 8, 1 + old.length), (32, 16, g.states.length), (16, 13, g.classCount), (8, 8, g.vocab), (0, 2, 1)]
  | none => if old.isEmpty then 0 else packWord [(56, 8, old.length), (8, 8, ((old.head?).map (·.vocab)).getD 0), (0, 2, 2)]

/-- The bytes of grammar SRAM held. -/
def grammarUse (s : State) : Nat :=
  ((List.range 4).map (fun c =>
    match cfgOf s c with
    | none => 0
    | some g => (g.grammars.map (fun x => grammarBytes x.2.sec)).sum
        + ((List.range 64).map (fun n => ((grammarOld s c n).map grammarBytes).sum)).sum)).sum

/-- The registers of the Selector and of Timber. -/
def readSelector (s : State) (rel : Nat) : Nat :=
  let one := fun (o v : Nat) => regRun rel o 1 (fun _ => v)
  let e := s.eng
  firstReg [
    one 0 (packWord [(8, 8, maskF 8 (fun i => unitBusy s 5 i (some 9))), (0, 8, maskF 8 (fun i => unitBusy s 5 i none))]),
    one 8 (packWord [(32, 32, satF 32 e.slDraws), (16, 16, satF 16 e.slCapped), (0, 16, satF 16 e.slTies)]),
    one 0x10 (packWord [(32, 32, satF 32 e.slNan), (0, 3, e.slErr.toNat)]),
    one 0x100 (packWord [(32, 24, satF 24 e.tbCe), (0, 32, grammarUse s)]),
    one 0x108 e.tbSel.toNat,
    one 0x110 (grammarWord s (e.tbSel.toNat / 256) (e.tbSel.toNat % 64)),
    one 0x118 (packWord [(32, 32, satF 32 e.tbMasks), (16, 16, satF 16 e.tbDeadEnds), (0, 4, satF 4 e.tbSpecPeak)])]

/-! ### Packer (09) -/

/-- The registers of the Packer. -/
def readPacker (s : State) (rel : Nat) : Nat :=
  let e := s.eng
  let pfx := fun (c : Nat) =>
    let held := s.face.prefixes.filter (fun p => p.2.claim == c && decide (0 < p.2.refs))
    let pages := (poolOf s c 4).filter (fun q => q.2.frame.isSome || q.2.host.isSome)
    packWord [(48, 16, 512 * ownOf s c (·.slotBlocks)), (32, 16, held.length), (0, 32, pages.length)]
  firstReg [
    regRun rel 0 1 (fun _ => maskF 4 (fun i => unitBusy s 7 i none)),
    regRun rel 8 4 pfx,
    regRun rel 0x28 1 (fun _ => packWord [(32, 32, satF 32 e.pkPassages), (16, 16, satF 16 e.pkCut), (0, 16, satF 16 e.pkHistoryCut)]),
    regRun rel 0x30 1 (fun _ => packWord [(32, 32, satF 32 e.pkDropped), (0, 1, e.pkErr.toNat)])]

/-! ### Face (10) -/

/-- FC_MODEL of a model of a claim. -/
def modelWord (s : State) (c m : Nat) : Nat :=
  match modelOf s c m with
  | none => packWord [(4, 4, 0xF)]
  | some x => packWord [(42, 11, if 2 ≤ x.kind then 0 else pppOf x), (29, 13, x.crossover), (4, 4, x.kind),
      (0, 4, kgetD s.face.models (c, m) 1)]

/-- The adapter versions of a claim, and its adapter slots in use. -/
def versionsOf (s : State) (c : Nat) : List AdapterVer := ((kvals s.face.adapters).filterMap (·.ver)).filter (fun v => v.claim == c)

/-- FC_ADAPTER of a claim. The reference that a version holds while it is loaded is none of R254's, so it does not count
as DRAINING. -/
def adapterWord (s : State) (c : Nat) : Nat :=
  let vs := versionsOf s c
  let loading := (s.cmds.filter (fun x => match x.body with
    | .adapterPublish _ => x.o.claim == c
    | _ => false)).length
  packWord [(32, 16, (vs.filter (·.current)).length),
    (16, 16, (vs.filter (fun v => !v.current && decide (0 < v.refs))).length - loading),
    (0, 16, ownOf s c (·.adapterCount) - vs.length)]

/-- The registers of Face. -/
def readFace (s : State) (rel : Nat) : Nat :=
  let f := s.face
  let one := fun (o v : Nat) => regRun rel o 1 (fun _ => v)
  let on := fun (e : Nat) => ((s.haul.rosters.filter (fun p => p.1.engine == e)).map (fun p => p.2.queue.length)).sum
  let sched := fun (i : Nat) => !(unitWork s ⟨0xB, i⟩).isEmpty
  firstReg [
    one 0 (packWord [(16, 8, satF 8 (on 0)), (8, 8, satF 8 (on 1)), (0, 8, maskF 8 sched)]),
    one 8 f.modelSel.toNat,
    one 0x10 (modelWord s (f.modelSel.toNat / 256) (f.modelSel.toNat % 16)),
    regRun rel 0x20 4 (fun c => packWord [(32, 32, booked s c),
      (0, 32, ((poolOf s c 1).filter (fun q => q.2.frame.isSome || q.2.host.isSome)).length)]),
    regRun rel 0x40 4 (fun c => packWord [(32, 32, satF 32 (f.drafted.getD c 0)), (0, 32, satF 32 (f.accepted.getD c 0))]),
    regRun rel 0x60 4 (adapterWord s),
    one 0x80 (packWord [(32, 32, satF 32 f.countFull), (0, 4, f.err.toNat)])]

/-! ### Assay and Ledgers (08) -/

/-- LG_TABLE of a ledger of a claim. -/
def tableWord (s : State) (c l : Nat) : Nat :=
  match ledgerSecOf s c l with
  | none => 0
  | some _ =>
    let t := ledgerOf s c l
    packWord [(24, 40, t.live.hdr.rows), (20, 4, log2Nat t.live.hdr.rowBytes), (17, 3, t.live.hdr.fmt), (16, 1, t.live.active), (0, 3, t.st)]

/-- LG_CACHE of a claim: PINNED_PCT is the share of its cache that pins hold. -/
def cacheWord (s : State) (c : Nat) : Nat :=
  let g := gatherOf s c
  packWord [(32, 32, satF 32 g.hits), (8, 24, satF 24 g.misses),
    (0, 8, 100 * (g.cache.filter (·.pinned)).length / max 1 (cacheSize s c))]

/-- The registers of Assay and of Ledgers; Live fields of a gather unit whose domain is off read 0 (R475). -/
def readLedgers (s : State) (rel : Nat) : Nat :=
  let one := fun (o v : Nat) => regRun rel o 1 (fun _ => v)
  let e := s.eng
  let c := s.store.lgSel.toNat / 256
  let l := s.store.lgSel.toNat % 64
  let t := ledgerOf s c l
  let live := (ledgerSecOf s c l).isSome
  let coal := fun (u : Nat) => packWord [(32, 32, satF 32 (s.store.merged.getD u 0)),
    (0, 13, if domOn s (72 + u) then (s.store.windows.getD u []).length else 0)]
  firstReg [
    one 0 (packWord [(4, 4, maskF 4 (fun i => unitBusy s 8 i (some 6))), (0, 4, maskF 4 (fun i => unitBusy s 8 i none))]),
    one 8 (packWord [(32, 32, satF 32 e.asCandidates), (0, 32, satF 32 e.asPairs)]),
    one 0x10 (packWord [(32, 32, satF 32 e.asDropped), (0, 2, e.asErr.toNat)]),
    one 0x100 s.store.lgSel.toNat,
    one 0x108 (tableWord s c l),
    one 0x110 (if live then t.live.hdr.version % 2 ^ 64 else 0),
    regRun rel 0x120 4 (cacheWord s),
    regRun rel 0x140 2 coal,
    regRun rel 0x150 12 (fun n => if live then satF 32 (kgetD t.lastLoads n 0) else 0),
    one 0x1B0 (packWord [(32, 32, if live then satF 32 t.binsMoved else 0),
      (0, 13, if live then ((t.moves.head?).map (·.1)).getD 8191 else 8191)]),
    one 0x1B8 (packWord [(32, 32, satF 32 s.store.oor), (20, 12, satF 12 s.store.cacheCe), (8, 12, satF 12 s.store.cacheUe),
      (0, 5, s.store.lgErr.toNat)])]

end Sys2Proof.Machine
end

