-- ==== Sys2Proof/Machine/ReadRegsB.lean ====
section
/-! DEFINITION. What the registers read, second part: the Cage and the Lodes, rosters and Haulage, Tally, Lamp and Watch,
Canary and power, the security store, array banks, seam dies with Drift, and Adit (chapters 06, 07, 12 to 17, 19 and 20, each
under its Registers heading). -/

namespace Sys2Proof.Machine

/-! ### The Cage (13) -/

/-- CG_POOL_USE and CG_POOL_STATE of a pool. -/
def poolUse (s : State) (c kind : Nat) : Nat :=
  let ps := poolOf s c kind
  let marked := ps.filter (fun q => q.2.dirty != 0 && kind != 2 && kind != 3)
  packWord [(32, 32, (ps.filter (fun q => decide (0 < q.2.pins))).length), (0, 32, marked.length)]

def poolState (s : State) (c kind : Nat) : Nat :=
  let n := fun (st : PageSt) => satF 16 ((poolOf s c kind).filter (fun q => q.2.st == st)).length
  packWord [(48, 16, n .promoting), (32, 16, n .demoting), (16, 16, n .invalid), (0, 16, n .quarantined)]

/-- Whether a mover holds a move: the lowest in service of its claim (log 35). -/
def moverBusy (s : State) (i : Nat) : Bool := s.cage.pages.any (fun q => pageMoves q.2 && firstUnit s q.1.claim 0xA == some i)

/-- Page moves in flight: of each claim at most 64 for each of its movers in service. -/
def movesInFlight (s : State) : Nat :=
  ((List.range 4).map (fun c =>
    let movers := ((claimUnits s c 0xA).filter (fun i => unitOk s 0xA i)).length
    min (64 * movers) (s.cage.pages.filter (fun q => q.1.claim == c && pageMoves q.2)).length)).sum

/-- The registers of the Cage. -/
def readCage (s : State) (rel : Nat) : Nat :=
  let g := s.cage
  let one := fun (o v : Nat) => regRun rel o 1 (fun _ => v)
  let c := g.poolSel.toNat / 256
  let k := g.poolSel.toNat % 256
  firstReg [
    one 0 g.poolSel.toNat,
    one 8 (packWord [(32, 32, poolPages s c k), (0, 32, if k = 0x10 then hostFree s c else freeFrames s c k)]),
    one 0x10 (poolUse s c k),
    one 0x18 (poolState s c k),
    one 0x20 (kgetD g.ages (c, k) 0 % 2 ^ 64),
    regRun rel 0x40 4 (fun n => (g.hostBase.getD n 0).toNat),
    regRun rel 0x60 4 (fun n => packWord [(16, 16, g.flashUs.getD n 0), (0, 16, g.hostUs.getD n 0)]),
    one 0x80 (packWord [(8, 10, movesInFlight s), (0, 8, maskF 8 (moverBusy s))]),
    one 0x88 g.quar.toNat,
    one 0x90 (packWord [(40, 24, satF 24 g.ueLoads), (16, 24, satF 24 g.late), (0, 4, g.err.toNat)]),
    one 0x98 g.quarId.toNat]

/-- STATE of a unit that is the whole of a domain: FENCED, RUN, or OFF. -/
def runState (s : State) (u : UnitId) (d : Nat) : Nat :=
  if fenceSt s u = 2 then 2 else if domOn s d then 1 else 0

/-- The frames of a Lode that pools have, and those that pages hold. -/
def pooledOn (s : State) (n : Nat) : Nat :=
  ((List.range 4).map (fun c => ([1, 2, 3, 4, 5].map (fun k => poolShare s c k n)).sum)).sum
def framesHeld (s : State) (n : Nat) : Nat := ((s.cage.pages.map (fun q => q.2.frames)).flatten.filter (fun f => f.1 == n)).length

/-- The registers of a Lode. -/
def readLode (s : State) (n rel : Nat) : Nat :=
  let d := s.cage.lodes.getD n {}
  let one := fun (o v : Nat) => regRun rel o 1 (fun _ => v)
  let on := domOn s (17 + n)
  firstReg [
    one 0 (packWord [(48, 4, ownerField s ⟨1, n⟩), (2, 2, if on then d.fn else 0), (0, 2, runState s ⟨1, n⟩ (17 + n))]),
    one 8 (if on then packWord [(32, 32, pooledOn s n), (0, 32, framesHeld s n)] else 0),
    one 0x10 (packWord [(16, 10, d.peak), (0, 10, if on then buffersOn s n else 0)]),
    one 0x18 (packWord [(32, 32, satF 32 d.ce), (16, 16, satF 16 d.ue), (0, 2, d.err.toNat)])]

/-! ### Rosters (15) -/

/-- The fields of RS_SEL: the unit, and the class. -/
def rsUnit (s : State) : RUnit := ⟨bits s.haul.rsSel.toNat 23 20, bits s.haul.rsSel.toNat 19 16, bits s.haul.rsSel.toNat 13 8⟩
def rsClass (s : State) : Nat := bits s.haul.rsSel.toNat 4 0

/-- The domain of a unit of a roster's engine class (R398). -/
def engineDomain (engine unit : Nat) : Nat :=
  if engine = 0 then unit else if engine = 1 then 17 + unit else if engine = 2 || engine = 3 then 29 + unit / 4
  else if engine ≤ 8 then 63 + engine else if engine = 9 then 72 + unit / 4 else 74 + unit / 4

/-- The time of one work unit at the reference point in ps; a bank's tile is 4,112 beats of 1,500 M beats/s (R360). -/
def unitPs (engine : Nat) : Nat := [0, 8200, 3500000, 32800000, 2560000, 128000, 128000, 1280000, 4000000, 320000, 1310000].getD engine 0

/-- T_X of R367 in ns at a beat rate, rounded up, saturating. -/
def shiftNs (t : RosterTable) (rate : Nat) : Nat :=
  let work := (t.entries.map (·.2)).sum + t.entries.length * (t.cmdUnits - 1)
  if t.engine = 2 || t.engine = 3 then satF 32 ((work * unitPs t.engine + 999) / 1000)
  else if rate = 0 then 2 ^ 32 - 1
  else if t.engine = 0 then satF 32 ((work * 4112000 + rate - 1) / rate)
  else satF 32 ((work * unitPs t.engine * 3 + 2 * rate - 1) / (2 * rate))

/-- The beat rate of the slowest unit of a class in a claim, as Canary reports it. -/
def slowestRate (s : State) (k : RUnit) : Nat :=
  let rs := (claimUnits s k.claim (unitClass k.engine)).map (fun u => (domainOf s (engineDomain k.engine u)).rate)
  (leastBy (fun a b => decide (a < b)) rs).getD 0

/-- The registers of the Roster. -/
def readRoster (s : State) (rel : Nat) : Nat :=
  let k := rsUnit s
  let r := rosterOf s k
  let one := fun (o v : Nat) => regRun rel o 1 (fun _ => v)
  let bound := match rosterTable s k with
    | none => 0
    | some t => packWord [(32, 32, shiftNs t (slowestRate s k)), (0, 32, shiftNs t 1200)]
  firstReg [
    one 0 s.haul.rsSel.toNat,
    one 8 (packWord [(16, 48, satF 48 r.shifts), (0, 8, r.entry)]),
    one 0x10 bound,
    one 0x18 (packWord [(32, 32, kgetD r.lastServed (rsClass s) 0), (16, 16, satF 16 (readyOf (readyCmds s k r) (rsClass s)).length)])]

/-! ### Haulage (15) -/

/-- HA_STREAMS of a claim. -/
def streamsWord (s : State) (c : Nat) : Nat :=
  let mine := s.haul.streams.filter (fun x => x.2.claim == c)
  let held := (mine.map (fun x => ((reqOf s x.1).map (fun r => r.stream.held.length)).getD 0)).sum
  let waits := s.haul.streamWaits.filter (fun n => ((reqOf s n).map (fun r => r.claim == c)).getD false)
  packWord [(32, 16, waits.length), (16, 16, satF 16 held), (0, 16, mine.length)]

/-- The registers of Haulage. -/
def readHaulage (s : State) (rel : Nat) : Nat :=
  let h := s.haul
  let one := fun (o v : Nat) => regRun rel o 1 (fun _ => v)
  let p := kgetD h.policers (h.policerSel.toNat / 65536, h.policerSel.toNat % 65536) {}
  let g := kgetD h.gates h.gateSel.toNat {}
  firstReg [
    one 0 (packWord [(32, 16, h.errPpm), (0, 2, h.calState)]),
    one 8 h.clock.toNat,
    one 0x10 h.policerSel.toNat,
    one 0x18 (packWord [(32, 32, p.micro / 1000000), (24, 8, p.profile), (0, 24, satF 24 p.refused)]),
    regRun rel 0x20 4 (streamsWord s),
    one 0x40 h.gateSel.toNat,
    one 0x48 (packWord [(32, 32, satF 32 g.cycles), (16, 16, satF 16 g.overrun), (0, 6, g.pos)]),
    one 0x50 h.err.toNat]

/-! ### Tally, Lamp, Watch (19) -/

/-- The registers of Tally: of the live counters, or of the snapshot. -/
def readTally (s : State) (rel : Nat) : Nat :=
  let sel := s.watch.tlSel.toNat
  let b := if bit sel 24 then s.watch.snap else s.watch.live
  let c := b.claims.getD (bits sel 23 20) {}
  let u := kgetD b.units (tallyUnit s) {}
  let one := fun (o v : Nat) => regRun rel o 1 (fun _ => v)
  firstReg [
    one 0 sel, one 8 (u.busy % 2 ^ 64), one 0x10 (u.stalled % 2 ^ 64), one 0x18 (u.idle % 2 ^ 64),
    regRun rel 0x20 16 (fun r => kgetD u.reasons r 0 % 2 ^ 64),
    regRun rel 0x100 16 (fun n => kgetD c.status n 0),
    one 0x180 c.tokensIn, one 0x188 c.tokensOut, one 0x190 (c.outputWait % 2 ^ 64),
    one 0x198 (packWord [(32, 32, satF 32 b.completions), (0, 32, satF 32 c.late)]),
    one 0x1A0 s.watch.snapSeq.toNat]

/-- The registers of Lamp. -/
def readLamp (s : State) (rel : Nat) : Nat :=
  let l := lampOf s
  firstReg [
    regRun rel 0 4 (fun c => packWord [(8, 1, bitF (lampSampled s c)), (1, 4, (l c).sampleLog2), (0, 1, bitF (l c).enable)]),
    regRun rel 0x20 4 (fun c => (l c).base.toNat),
    regRun rel 0x40 4 (fun c => (l c).lines % 2 ^ 32),
    regRun rel 0x60 4 (fun c => (l c).head.toNat),
    regRun rel 0x80 4 (fun c => packWord [(32, 32, satF 32 (l c).dropped), (0, 32, (l c).written.toNat)])]

/-- The registers of Watch. -/
def readWatch (s : State) (rel : Nat) : Nat :=
  firstReg [
    regRun rel 0 4 (fun c => packWord [(32, 32, s.watch.dumps.getD c 0), (0, 7, (s.watch.arms.filter (fun a => a.claim == c)).length)]),
    regRun rel 0x20 1 (fun _ => s.watch.wtErr.toNat)]

/-! ### Canary and power (17) -/

/-- PW_DOMAIN and CN_DOMAIN of a domain; Canary's readings of one that is off read 0. -/
def powerWord (s : State) (d : Nat) : Nat :=
  let x := domainOf s d
  if x.on then packWord [(48, 16, x.power), (32, 2, 1), (16, 16, x.v10 / 10), (0, 16, x.vNeed)]
  else packWord [(32, 2, if domainFenced s d then 2 else 0)]
def canaryWord (s : State) (d : Nat) : Nat :=
  let x := domainOf s d
  if x.on then packWord [(48, 16, x.rate), (32, 16, x.drift), (16, 16, x.margin), (0, 16, x.late)] else 0

/-- CN_SELFTEST: tests of SELFTEST_REQUEST and of UNFENCE. -/
def selftestWord (s : State) : Nat :=
  let p := s.power
  let now := ((p.testing.head?).map (·.unit)).orElse (fun _ => (kkeys s.hf.unfences).head?)
  let st := if now.isSome then 2 else if p.tests.isEmpty then 0 else 1
  packWord [(48, 16, p.deferred.length), (32, 8, (now.map (·.cls)).getD 0), (24, 8, (now.map (·.idx)).getD 0), (0, 2, st)]

/-- The registers of Canary and power; CAP_W is the image's (R18). -/
def readPower (s : State) (rel : Nat) : Nat :=
  let p := s.power
  let one := fun (o v : Nat) => regRun rel o 1 (fun _ => v)
  let cap := if s.hf.moduleInForce then (planInForce s).capW else 0
  firstReg [
    one 0 (packWord [(48, 16, p.inputMv), (32, 16, p.powerW), (16, 16, cap), (0, 4, p.st)]),
    regRun rel 0x100 80 (powerWord s),
    regRun rel 0x400 80 (canaryWord s),
    one 0x700 (packWord [(32, 32, p.passes), (0, 16, popcount 136 (retiredMask s))]),
    one 0x708 (selftestWord s),
    one 0x710 (packWord [(56, 8, p.tjMax), (48, 8, p.tjDomain), (40, 8, p.inlet), (32, 8, p.outlet)]),
    one 0x718 p.err.toNat]

/-! ### The security store (20) -/

/-- The registers of the security store. -/
def readSecurity (s : State) (rel : Nat) : Nat :=
  let x := s.sec
  let one := fun (o v : Nat) => regRun rel o 1 (fun _ => v)
  firstReg [
    one 0 (packWord [(32, 32, x.logCount), (16, 16, firstSeq s), (8, 8, keysRevoked s), (0, 8, keysProgrammed s)]),
    one 8 Config.serial.toNat,
    one 0x10 (packWord [(32, 32, satF 32 x.bootCount), (0, 32, satF 32 x.attaches)]),
    regRun rel 0x40 8 (fun n => fld x.m (8 * n) 8),
    regRun rel 0x100 17 (fun n => (x.keyData.getD n 0).toNat),
    one 0x190 x.keyStatus,
    one 0x208 (packWord [(32, 32, satF 32 x.dbgReads), (2, 1, bitF x.dbgPoison), (0, 2, x.dbgState)]),
    regRun rel 0x1000 512 (fun n => fld x.dbgBuf (8 * n) 8)]

/-! ### Array banks (12) -/

/-- ARRAY_STATE of an array: the bank's spare serves while another array of the bank is fenced. -/
def arrayState (s : State) (b i : Nat) : Nat :=
  let a := 8 * b + i
  if s.power.retired.contains ⟨0, a⟩ then 2
  else if fenceSt s ⟨0, a⟩ = 3 then 3
  else if kget s.power.spares b = some a && (List.range 8).all (fun j => fenceSt s ⟨0, 8 * b + j⟩ != 2) then 1
  else 0

/-- The registers of an array bank. -/
def readBank (s : State) (b rel : Nat) : Nat :=
  let x := s.banks.getD b {}
  let one := fun (o v : Nat) => regRun rel o 1 (fun _ => v)
  let queue := ((s.haul.rosters.filter (fun p => p.1.engine == 0 && p.1.unit == b)).map (fun p => p.2.queue.length)).sum
  firstReg [
    one 0 (packWord ([(48, 4, ownerField s ⟨0xE, b⟩), (40, 8, min 64 queue), (0, 2, runState s ⟨0xE, b⟩ b)]
      ++ (List.range 8).map (fun i => (16 + 2 * i, 2, arrayState s b i)))),
    one 8 (packWord [(32, 32, satF 32 (x.useful / 2 ^ 24)), (0, 32, satF 32 (x.gated / 2 ^ 24))]),
    one 0x10 (if domOn s b then satF 16 (domainOf s b).rate else 0),
    one 0x18 (packWord [(40, 24, satF 24 x.span), (16, 24, satF 24 x.overflow), (0, 4, x.numErr.toNat)]),
    one 0x20 (packWord [(32, 32, satF 32 x.ce), (0, 3, x.err.toNat)])]

/-! ### Seam dies (14), Drift (06) and pit upkeep (07) -/

/-- STATE and GC of a Seam. -/
def seamState (s : State) (i : Nat) : Nat :=
  if fenceSt s ⟨3, i⟩ = 2 then 3 else if (unitOwner s ⟨3, i⟩).isNone then 0
  else if (seamOf s i).dgs.any (fun g => g.dead != 0) then 2 else 1
def seamGc (s : State) (i : Nat) : Nat :=
  if gcUrgent s i then 2 else if (seamOf s i).dgs.any (fun g => g.victim.isSome) then 1 else 0

/-- SM_SEAM_STATUS and SM_SEAM_WEAR of a Seam. -/
def seamWord (s : State) (i : Nat) : Nat :=
  let ds := (seamOf s i).dgs.take dieGroups
  let dead := ((List.range dieGroups).map (fun g => (ds.getD g {}).dead % 256 * 256 ^ g)).sum
  packWord [(48, 16, satF 16 ((ds.map (·.retired)).sum)), (32, 14, seamFree s i), (16, 16, dead), (2, 2, seamGc s i), (0, 2, seamState s i)]
def wearWord (s : State) (i : Nat) : Nat :=
  let gs := (seamOf s i).dgs.take dieGroups
  let n := (gs.map (fun g => 8 * (9922 - g.gone.length))).sum
  let most := (gs.map eraseMax).foldl max 0
  packWord [(32, 16, satF 16 most), (16, 16, satF 16 ((gs.map eraseMin).foldl min most)),
    (0, 16, satF 16 ((gs.map eraseCounts).flatten.sum / n))]

/-- STATE of a seam die: FENCED where every Seam of it is. -/
def dieState (s : State) (n : Nat) : Nat :=
  if (List.range 16).all (fun i => fenceSt s ⟨3, 16 * n + i⟩ == 2) then 3 else (dieOf s n).st

/-- DR_ENG_STATUS of an engine. -/
def driftWord (s : State) (e : Nat) : Nat :=
  let ts := ((kvals s.drift.searches).map (fun x => x.strands.filter (fun t => t.engine == e && !t.done))).flatten
  let st := if fenceSt s ⟨2, e⟩ = 2 || fenceSt s ⟨3, e⟩ = 2 then 2 else if (unitOwner s ⟨2, e⟩).isNone then 0 else 1
  let scans := ((kvals s.drift.searches).filter (·.scanWants e)).length
  packWord [(32, 8, satF 8 ((ts.filter (·.waiting)).length + scans)), (16, 5, min 16 (engineLoad s e)), (0, 2, st)]

/-- The pit that DR_PIT_SEL selects, and its registers. -/
def pitWords (s : State) (n : Nat) : Nat :=
  let c := s.store.pitSel.toNat / 65536
  let p := s.store.pitSel.toNat % 65536
  match pitSecOf s c p with
  | none => 0
  | some _ =>
    let t := pitOf s c p
    let nodes := (kvals t.live.recs).filter (fun r => r.kind == 1)
    if n = 0 then t.live.p % 2 ^ 64
    else if n = 1 then oldestEpoch s c p % 2 ^ 64
    else if n = 2 then packWord [(0, 40, nodes.length)]
    else if n = 3 then packWord [(40, 24, satF 24 t.live.pend), (16, 24, satF 24 (nodes.filter (fun r => r.del != liveEpoch)).length),
      (4, 6, (t.sweep.map (·.chan)).getD 0), (0, 2, (t.sweep.map (·.st)).getD 0)]
    else packWord [(32, 32, satF 32 t.migrated), (0, 32, (t.live.reps.filter (fun r => !r.2.forward)).length)]

/-- The registers of a seam die, with those of its Drift engines; the crossbar's and pit upkeep's in the window of die 0. -/
def readSeamDie (s : State) (n rel : Nat) : Nat :=
  let d := dieOf s n
  let one := fun (o v : Nat) => regRun rel o 1 (fun _ => v)
  let zero := fun (l : List (Option Nat)) => if n = 0 then l else []
  firstReg ([
    one 0 (packWord [(32, 28, lpnCount), (16, 8, d.progress), (8, 5, 8 * dieGroups), (4, 2, d.recovery), (0, 2, dieState s n)]),
    one 8 (d.seq % 2 ^ 64), one 0x10 (d.water % 2 ^ 64),
    one 0x18 (packWord [(32, 5, d.ckpt.getD 31), (0, 21, d.journal)]),
    regRun rel 0x100 16 (fun i => seamWord s (16 * n + i)),
    regRun rel 0x180 16 (fun i => wearWord s (16 * n + i)),
    one 0x200 (packWord [(40, 24, satF 24 d.rebuilt), (16, 24, satF 24 d.lost), (0, 7, d.err.toNat)]),
    regRun rel 0x80000 16 (fun i => driftWord s (16 * n + i)),
    regRun rel 0x80080 16 (fun i => packWord [(32, 32, satF 32 (kgetD s.drift.records (16 * n + i) 0)),
      (0, 32, satF 32 (kgetD s.drift.handoffs (16 * n + i) 0))]),
    one 0x80100 (packWord [(32, 32, satF 32 (s.drift.unreadable.getD n 0)), (0, 3, (s.drift.err.getD n 0).toNat)])]
    ++ zero [
    regRun rel 0x80200 4 (fun c => packWord [(32, 11, buffersOf s c), (16, 11, s.drift.peak.getD c 0), (0, 11, buffersUsed s c)]),
    one 0x80300 s.store.pitSel.toNat,
    regRun rel 0x80308 5 (pitWords s)])

/-! ### Adit (16) -/

/-- AD_LINK_STATUS and AD_PEER of a link. -/
def linkWord (s : State) (l : Nat) : Nat :=
  let x := linkOf s l
  packWord [(28, 8, x.peerSet.toNat), (20, 8, x.chosen.toNat), (19, 1, bitF x.refclkSrc), (18, 1, bitF x.reversed), (14, 4, x.polFix.toNat),
    (10, 4, x.laneMask.toNat), (7, 3, linkWidth s l), (0, 4, if fenceSt s ⟨0xD, l⟩ = 2 then 7 else x.st)]
def peerWord (x : AditLink) : Nat :=
  match x.peer with
  | none => packWord [(56, 8, x.miswire)]
  | some i => packWord [(56, 8, x.miswire), (32, 16, i.incarnation.toNat), (16, 4, i.claim), (8, 8, i.link), (0, 8, i.moduleId)]

/-- The registers of link `i` of a group, from the link's own offset. -/
def readLink (s : State) (l rel : Nat) : Nat :=
  let x := linkOf s l
  let one := fun (o v : Nat) => regRun rel o 1 (fun _ => v)
  firstReg [
    one 0 (linkWord s l), one 8 x.laneDisable.toNat, one 0x10 (peerWord x), one 0x18 ((x.peer.map (·.serial.toNat)).getD 0),
    one 0x20 (packWord [(8, 8, x.expLink), (0, 8, x.expModule)]),
    one 0x28 (packWord [(32, 32, x.issued.toNat), (0, 32, x.returned.toNat)]),
    one 0x30 (packWord [(40, 24, satF 24 x.fecCorrected), (16, 24, satF 24 x.crcRetry), (0, 8, x.err.toNat)])]

/-- Whether an UP link of a claim reaches a module. -/
def linkReaches (s : State) (c m : Nat) : Bool := !(upLinks s c m).isEmpty

/-- The registers of an Adit group, the gang registers in the window of group 0. -/
def readGroup (s : State) (g rel : Nat) : Nat :=
  if rel < 0x400 then readLink s (4 * g + rel / 0x100) (rel % 0x100)
  else if g != 0 then 0
  else firstReg [
    regRun rel 0x8000 4 (fun c => (gangOf s c).tag.toNat),
    regRun rel 0x8020 4 (fun c => packWord [(32, 16, (gangOf s c).incarnation.toNat), (0, 16, (gangOf s c).lossUs)]),
    regRun rel 0x8040 4 (fun c => packWord [(32, 32, (gangOf s c).lost), (0, 32, maskF 32 (linkReaches s c))]),
    regRun rel 0x8060 4 (fun c => packWord [(32, 32, satF 32 (gangOf s c).late), (0, 13, (gangOf s c).remote.length)])]

/-! ### The map (R475) -/

/-- What a register reads, by its offset in the window; a reserved offset reads 0 (R15). -/
def readReg (s : State) (off : Nat) : Nat :=
  let rel := off % 0x100000
  let page := off / 0x100000
  if off % 8 != 0 then 0
  else if page = 0 then readHeadframe s rel
  else if page = 1 then readHoistlink s rel
  else if page = 2 then readForeman s rel
  else if page = 3 then readCrusher s rel
  else if page = 4 then readSelector s rel
  else if page = 5 then readPacker s rel
  else if page = 6 then readFace s rel
  else if page = 7 then readLedgers s rel
  else if page = 8 then readCage s rel
  else if page = 9 then readRoster s rel
  else if page = 10 then readHaulage s rel
  else if page = 11 then (if rel < 0x40000 then readTally s rel else if rel < 0x80000 then readLamp s (rel - 0x40000) else readWatch s (rel - 0x80000))
  else if page = 12 then readPower s rel
  else if page = 13 then readSecurity s rel
  else if page = 14 then readBank s (rel / 0x10000) (rel % 0x10000)
  else if page = 15 then (if rel < 0x10000 then readBank s 16 rel else 0)
  else if page < 28 then readLode s (page - 16) rel
  else if page < 32 then readSeamDie s (page - 28) rel
  else if page < 44 then readGroup s (page - 32) rel
  else 0

end Sys2Proof.Machine
end

