-- ==== Sys2Proof/Machine/Hoistlink.lean ====
section
/-! DEFINITION. Hoistlink's events: training, retraining, lane, clock and replay faults, and credits (03 R59 to R66, R86). -/

namespace Sys2Proof.Machine

/-! ### The link down and up -/

/-- The link not UP, in a STATE; the block holds all its state (R86). -/
def hlDown (s : State) (st : Nat) : State :=
  faultEvent { s with hl := { s.hl with st := st, laneMask := 0, err := s.hl.err ||| 1 } } 5 0

/-- A retrain of a link that is UP; elsewhere a retrain asked for does nothing, since the link trains already or waits to
(DESIGN CHOICE, log 102). STATE passes through RETRAINING; credits, sequence numbers and replay buffers are kept (R65, R86, R431). -/
def hlRetrain (s : State) : State :=
  if s.hl.st = 2 then faultEvent { s with hl := { s.hl with st := 3, crcRun := 0, err := s.hl.err ||| 2 } } 5 0 else s

/-- What waited for the link or for a credit goes on: completion records in the order of their commits, answers to management
accesses, streams, traces, commands that read companion memory. -/
def hlResume (s : State) : State :=
  let s1 := flushAnswers (flushRecords s)
  let s2 := (s1.slots.map (·.1)).foldl pumpStream s1
  runCmds ((List.range 4).foldl (fun s c => lampPump ((lampOf s c).queue.length) s c) s2)

/-- The credits of the three channels at link-up (R64). -/
def hlCredits : List Credits :=
  (List.range 3).map (fun n => { issued := BitVec.ofNat 32 (vcGrant n), avail := vcGrant n })

/-- Lane training and what follows it (R61, R62). The first link-up grants the credits and takes the window base; a
retrain keeps them. A retrain that leaves fewer than 4 lanes takes the link down (R86). -/
def hlTrain (t : HlTrain) (s : State) : State :=
  let lanes := t.pass &&& ~~~s.hl.laneDisable
  let h := { s.hl with polFix := t.polarity &&& lanes, reversed := t.reversed, crcRun := 0 }
  let fails := fun (h : HlState) (st : Nat) =>
    if s.hl.st = 3 then hlDown { s with hl := h } st else { s with hl := { h with st := st, laneMask := 0 } }
  if popcount 16 lanes.toNat < 4 then fails h 4
  else if t.peerSet &&& 1 = 0 then fails { h with peerSet := t.peerSet, chosen := 0 } 5
  else
    let first := s.hl.chosen == 0
    let h1 := { h with st := 2, laneMask := lanes, peerSet := t.peerSet, chosen := 1 }
    let h2 := if first then { h1 with windowBase := t.base, vc := hlCredits } else h1
    let clock := if s.hl.refclkSrc then 2 else 1
    let s1 := { s with hl := h2, boot := { s.boot with refclk := s.boot.refclk ||| clock } }
    if alive s1 then hlResume s1 else s1

/-- Whether Hoistlink can train: the module is out of reset and its domains are on. -/
def hlPowered (s : State) : Bool := upNow s && domOn s 57 && domOn s 58

/-- HL_TRAINING: a link in TRAINING or RETRAINING. -/
def opHlTraining (t : HlTrain) (s : State) : State :=
  if hlPowered s && (s.hl.st == 1 || s.hl.st == 3) then hlTrain t s else s

/-- The meaning of HL_TRAINING. -/
def execHlTraining (t : HlTrain) (s : State) : Host.Outcome State Fault Refusal := .next (opHlTraining t s)

/-- HL_TRAIN_RETRY: a link that is down trains again; one without a common version stays down (R62, log 36). -/
def opHlTrainRetry (t : HlTrain) (s : State) : State :=
  if hlPowered s && (s.hl.st == 0 || s.hl.st == 4) then hlTrain t s else s

/-- The meaning of HL_TRAIN_RETRY. -/
def execHlTrainRetry (t : HlTrain) (s : State) : Host.Outcome State Fault Refusal := .next (opHlTrainRetry t s)

/-! ### Link errors (R86) -/

/-- HL_FLIT_CRC_FAIL: a replay, of the flit that failed last (`again`) or of another; the sixteenth failure of one flit in a row
retrains. Which it is, and how many codewords have been corrected since the last such failure, the line gives: free values
(log 77). -/
def opHlFlitCrcFail (s : State) : State :=
  if s.hl.st != 2 then s
  else
    let (x, s) := takeFree s
    let again := x % 2 == 1
    let corrected := x / 2
    let s1 := faultEvent { s with hl := { s.hl with
      fecCorrected := satAdd 24 s.hl.fecCorrected corrected, crcRetry := satAdd 24 s.hl.crcRetry 1
      crcRun := if again then s.hl.crcRun + 1 else 1 } } 1 0
    if 16 ≤ s1.hl.crcRun then hlRetrain s1 else s1

/-- The meaning of HL_FLIT_CRC_FAIL. -/
def execHlFlitCrcFail (s : State) : Host.Outcome State Fault Refusal := .next (opHlFlitCrcFail s)

/-- HL_RETRAIN: HL_LINK_CTL.RETRAIN written 1; in a module without a fatal cause, as any register write (R430). -/
def opHlRetrain (s : State) : State := if mgmtUp s then hlRetrain s else s

/-- The meaning of HL_RETRAIN. -/
def execHlRetrain (s : State) : Host.Outcome State Fault Refusal := .next (opHlRetrain s)

/-- HL_LANE_FAIL: the link re-stripes over the lanes left, or goes down below 4. -/
def opHlLaneFail (lane : Nat) (s : State) : State :=
  if !((s.hl.st == 2 || s.hl.st == 3) && decide (lane < 16) && s.hl.laneMask.getLsbD lane) then s
  else
    let left := s.hl.laneMask &&& ~~~(1#16 <<< lane)
    if popcount 16 left.toNat < 4 then hlDown s 4
    else faultEvent { s with hl := { s.hl with laneMask := left, err := s.hl.err ||| 4 } } 5 0

/-- The meaning of HL_LANE_FAIL. -/
def execHlLaneFail (lane : Nat) (s : State) : Host.Outcome State Fault Refusal := .next (opHlLaneFail lane s)

/-- HL_REFCLK_LOSS: the clock in use is lost. The link switches to a good partner and retrains once; without one it goes
down (R60). -/
def opHlRefclkLoss (partnerGood : Bool) (s : State) : State :=
  if !hlPowered s then s
  else
    let used : BitVec 4 := if s.hl.refclkSrc then 2 else 1
    if partnerGood then
      let s1 := { s with boot := { s.boot with refclk := (s.boot.refclk &&& ~~~used) ||| (3 &&& ~~~used) }
                         hl := { s.hl with refclkSrc := !s.hl.refclkSrc, err := s.hl.err ||| 8 } }
      hlRetrain (faultEvent s1 5 0)
    else
      let s1 := { s with boot := { s.boot with refclk := s.boot.refclk &&& ~~~3 } }
      if s.hl.st = 2 || s.hl.st = 3 then hlDown s1 0 else { s1 with hl := { s1.hl with st := 0 } }

/-- The meaning of HL_REFCLK_LOSS. -/
def execHlRefclkLoss (partnerGood : Bool) (s : State) : Host.Outcome State Fault Refusal := .next (opHlRefclkLoss partnerGood s)

/-- HL_COMPANION_STATE_LOSS: module-fatal, COMPANION_STATE (R430). -/
def opHlCompanionStateLoss (s : State) : State := if alive s then moduleFatal s 2 none else s

/-- The meaning of HL_COMPANION_STATE_LOSS. -/
def execHlCompanionStateLoss (s : State) : Host.Outcome State Fault Refusal := .next (opHlCompanionStateLoss s)

/-- Credits returned to the module on a channel: those held longest, as many as it holds (R64, log 107). -/
def creditReturn (s : State) (vc count : Nat) : State :=
  let n := min count (vcOf s vc).held.length
  modVc s vc (fun x => { x with issued := x.issued + BitVec.ofNat 32 n, avail := x.avail + n, held := x.held.drop n })

/-- HL_CREDIT_RETURN: credits granted again to the module on a channel; the messages that wait go on (R64). -/
def opHlCreditReturn (vc count : Nat) (s : State) : State :=
  if s.hl.st == 2 && decide (vc < 3) then
    let s1 := creditReturn s vc count
    if alive s1 then hlResume s1 else s1
  else s

/-- The meaning of HL_CREDIT_RETURN. -/
def execHlCreditReturn (vc count : Nat) (s : State) : Host.Outcome State Fault Refusal := .next (opHlCreditReturn vc count s)

end Sys2Proof.Machine
end

