-- ==== Sys2Proof/Machine/Rings.lean ====
section
/-! DEFINITION. The rings: the tail watch, snoops, heads, enabling and disabling (03). -/

namespace Sys2Proof.Machine

/-- Whether descriptors of a submission ring are taken: always of the management ring, of a claim's while it is
RUNNING or ENDING (R75, R108). -/
def ringTakes (s : State) (id : RingId) : Bool := id.claim == 4 || claimRuns s id.claim

/-- The lines of companion memory that the module holds in shared state (R66): of an ENABLED submission ring the line watched and
the one after it, the control block of a completion ring while it is full (R74), and the control line of a stream while its
ring is full (R83). -/
def sharedLines (s : State) : List Nat :=
  let ofRing := fun (p : RingId × Ring) =>
    if p.2.st != 1 then []
    else if p.1.cpl then (if cplFree s p.1.claim p.1.idx = 0 then [p.2.rcb] else [])
    else
      let n := p.2.n.toNat + p.2.fetched.length
      [p.2.base + 128 * (n % p.2.lines), p.2.base + 128 * ((n + 1) % p.2.lines)]
  let ofReq := fun (r : Nat × Req) => if r.2.hasStream && !streamRoom r.2 then [r.2.desc.streamBase] else []
  (s.hl.rings.map ofRing).flatten ++ ((requests s).map ofReq).flatten

/-- A line in hand taken by the watch (R72 step 3): its completion ring keeps an entry for it, and the watch moves on. A line after
it that is written already is taken at once, where an entry is free for it (R72 step 5, R87). -/
def watchTakes (s : State) (id : RingId) (g : Ring) (l : Bool × List Byte) : State :=
  let take := fun (s : State) (l : Bool × List Byte) => modRing (modRing s id (fun g => { g with fetched := g.fetched ++ [l] }))
    ⟨id.claim, true, g.cplRing⟩ (fun g => { g with v := g.v + 1 })
  let s1 := take (modRing s id (fun g => { g with ahead := none })) l
  match g.ahead with
  | some l2 => if 1 ≤ cplFree s1 id.claim g.cplRing then take s1 l2 else modRing s1 id (fun g => { g with ahead := some l2 })
  | none => s1

/-- WATCH_LINE_INVALIDATE (R71, R72): the invalidation of the line watched, or of the one after it (`after`), is answered, and the
line re-read. A new PHASE, or a poisoned read, is a descriptor: the watch takes that of the line watched where its completion
ring has a free entry, and that of the line after waits for it. Without one SPURIOUS_INV is set and the line is shared
again. -/
def opWatchLineInvalidate (ring : RingSel) (after poison : Bool) (line : List Byte) (s : State) : State :=
  let id := ringIdOf ring false
  let vc := ringVc id.claim
  match kget s.hl.rings id with
  | none => s
  | some g =>
    let pos := g.n.toNat + g.fetched.length + if after then 1 else 0
    if !(admits s && g.st == 1 && line.length == 128 && hlCan s vc id.claim) then s
    else
      let s0 := emit (hlGot s vc 2) (.snoop (BitVec.ofNat 64 (g.base + 128 * (pos % g.lines))) true)
      if poison || byteAt line 2 % 2 == phaseAt (g.cap false) pos then
        if after then modRing s0 id (fun g => { g with ahead := some (poison, line) })
        else if ringTakes s id && decide (cplFree s id.claim g.cplRing ≥ 1) then watchTakes s0 id g (poison, line)
        else s0
      else
        let s1 := { s0 with hl := { s0.hl with err := s0.hl.err ||| 0x10 } }
        if after then modRing s1 id (fun g => { g with ahead := none }) else s1

/-- The meaning of WATCH_LINE_INVALIDATE. -/
def execWatchLineInvalidate (w : WatchedLine) (poison : Bool) (line : List Byte) (s : State) : Host.Outcome State Fault Refusal :=
  .next (opWatchLineInvalidate w.ring w.after poison line s)

/-- SNOOP_RESPONSE (R67): the answer alone; nothing of the block stands before it. -/
def opSnoopResponse (addr : W64) (s : State) : State :=
  if s.boot.resetN && linkUp s then
    emit s (.snoop addr ((sharedLines s).contains (addr.toNat / 128 * 128)))
  else s

/-- The meaning of SNOOP_RESPONSE. -/
def execSnoopResponse (addr : W64) (s : State) : Host.Outcome State Fault Refusal := .next (opSnoopResponse addr s)

/-- CPL_HEAD_ADVANCE (R74): the module reads CPL_HEAD of a completion ring, on the ring's channel. -/
def opCplHeadAdvance (ring : RingSel) (head : W32) (s : State) : State :=
  let id := ringIdOf ring true
  if reach s && hlCan s (ringVc id.claim) id.claim then
    modRing (hlGot s (ringVc id.claim) 1) id (fun g => { g with head := head })
  else s

/-- The meaning of CPL_HEAD_ADVANCE. -/
def execCplHeadAdvance (ring : RingSel) (head : W32) (s : State) : Host.Outcome State Fault Refusal :=
  .next (opCplHeadAdvance ring head s)

/-- The RCB that HL_RING_CMD names: CLAIM 0..3 with entries 0..511, or 0xF with entries 0..1; none for another
CLAIM (code RANGE). -/
def ringCmdTarget (value : W64) : Option RingId :=
  let e := bits value.toNat 8 0
  let c := bits value.toNat 13 10
  if c = 15 then (if e ≤ 1 then some ⟨4, e == 1, 0⟩ else none)
  else if c ≤ 3 then some ⟨c, decide (e ≥ 256), e % 256⟩
  else none

/-- Whether an entry lies within the claim's SUB_RINGS or CPL_RINGS (R68). -/
def ringInRange (s : State) (id : RingId) : Bool :=
  if id.claim = 4 then true
  else match cfgOf s id.claim with
    | none => false
    | some g => decide (id.idx < if id.cpl then g.own.cplRings else g.own.subRings)

/-- The code of HL_RING_CMD_STATUS for an ENABLE with an RCB (R68, R69, R75); 0 where the ring is enabled. Where several checks
fail, the first in this order gives the code: RANGE of the entry against the claim's rings (an ABSENT claim has none to hold
it against), CLAIM_STATE, ALREADY or DRAINING, then KIND, LINES, BASE and CPL_RING (DESIGN CHOICE, log 23). -/
def ringEnableCode (s : State) (id : RingId) (rcb : List Byte) : Nat :=
  if (id.claim == 4 || (cfgOf s id.claim).isSome) && !ringInRange s id then 0x07
  else if id.claim != 4 && !((claimOf s id.claim).st == 1 || (claimOf s id.claim).st == 2) then 0x05
  else match kget s.hl.rings id with
    | some g => if g.st = 2 then 0x08 else 0x06
    | none =>
      if byteAt rcb 12 != (if id.cpl then 2 else 1) then 0x01
      else
        let n := fld rcb 8 4
        if !(isPow2 n && decide (16 ≤ n) && decide (n ≤ 65536)) then 0x02
        else if byteAt rcb 0 % 128 != 0 then 0x03
        else if id.cpl || id.claim == 4 then (if fld rcb 14 2 = 0 then 0 else 0x04)
        else if fld rcb 14 2 < ((cfgOf s id.claim).map (fun g => g.own.cplRings)).getD 0 then 0
        else 0x04

/-- HL_RING_CMD_STATUS set. -/
def setRingCode (s : State) (c : Nat) : State := { s with hl := { s.hl with ringCmdStatus := c } }

/-- ACTION ENABLE of HL_RING_CMD (R69), with the RCB as the module read it. -/
def enableRing (value : W64) (rcb : List Byte) (s : State) : State :=
  match ringCmdTarget value with
  | none => setRingCode s 0x07
  | some id =>
    let code := ringEnableCode s id rcb
    let s := if [5, 6, 7, 8].contains code then s else hlGot s (ringVc id.claim) 1
    if code != 0 then setRingCode s code
    else
      let g : Ring := { st := 1, base := fld rcb 0 8, lines := fld rcb 8 4, cplRing := fld rcb 14 2
                        rcb := rcbAddr s id, n := 0, head := 0, v := 0, fetched := [] }
      setRingCode { s with hl := { s.hl with rings := kset s.hl.rings id g } } 0

/-- A write of HL_RING_CMD by the companion, answered as every management access (R85): the access is received, it acts, and
its answer is sent. -/
def ringCmd (s : State) (act : State → State) : State := answerMgmt (act (hlGot s 2 1)) 0x100128 0 0

/-- RING_ENABLE (R69): a management write of HL_RING_CMD with ACTION ENABLE. -/
def opRingEnable (value : W64) (rcb : List Byte) (s : State) : State :=
  if reach s && bits value.toNat 15 14 == 1 then ringCmd s (enableRing value rcb) else s

/-- The meaning of RING_ENABLE. -/
def execRingEnable (value : W64) (rcb : List Byte) (s : State) : Host.Outcome State Fault Refusal :=
  .next (opRingEnable value rcb s)

/-- Whether a DRAINING ring has nothing left: no line between fetch and admission, or no reserved record (R87). -/
def drained (id : RingId) (g : Ring) : Bool := if id.cpl then g.v == 0 else g.fetched.isEmpty

/-- ACTION DISABLE of HL_RING_CMD (R69, R87). Of a ring that is DISABLED or DRAINING already it changes nothing, with code OK
(DESIGN CHOICE, log 108: no code is given for it). -/
def disableRing (value : W64) (s : State) : State :=
  match ringCmdTarget value with
  | none => setRingCode s 0x07
  | some id =>
    if id.claim != 4 && (cfgOf s id.claim).isSome && !ringInRange s id then setRingCode s 0x07
    else match kget s.hl.rings id with
      | none => setRingCode s 0
      | some g =>
        if g.st != 1 then setRingCode s 0
        else if drained id g then setRingCode { s with hl := { s.hl with rings := kdel s.hl.rings id } } 0
        else setRingCode (modRing s id (fun g => { g with st := 2, ahead := none })) 0

/-- RING_DISABLE (R69, R87): a management write of HL_RING_CMD with ACTION DISABLE. -/
def opRingDisable (value : W64) (s : State) : State :=
  if reach s && bits value.toNat 15 14 == 2 then ringCmd s (disableRing value) else s

/-- The meaning of RING_DISABLE. -/
def execRingDisable (value : W64) (s : State) : Host.Outcome State Fault Refusal := .next (opRingDisable value s)

/-- RING_DRAIN_COMPLETE (R87): a DRAINING ring with nothing left becomes DISABLED. -/
def opRingDrainComplete (ring : RingSel) (completion : Bool) (s : State) : State :=
  let id := ringIdOf ring completion
  match kget s.hl.rings id with
  | none => s
  | some g =>
    if alive s && g.st == 2 && drained id g then { s with hl := { s.hl with rings := kdel s.hl.rings id } } else s

/-- The meaning of RING_DRAIN_COMPLETE. -/
def execRingDrainComplete (ring : RingSel) (completion : Bool) (s : State) : Host.Outcome State Fault Refusal :=
  .next (opRingDrainComplete ring completion s)

end Sys2Proof.Machine
end

