-- ==== Sys2Proof/Machine/Registers.lean ====
section
/-! DEFINITION. Register writes by access code (R15 to R17), and the paths that carry management accesses: Hoistlink (03 R85),
the sideband (21 R467) and JTAG (20 R459), with the powered and fenced blocks of R475. -/

namespace Sys2Proof.Machine

/-! ### What an access meets (R85, R430, R475) -/

/-- The error code of a block: 2 POWERED_DOWN, 3 FENCED, 0 where the register answers. The register that reports a unit's STATE
answers also while the unit is fenced; RS_SEL answers whatever unit it selects (log 36). -/
def blockCode (s : State) (off : Nat) : Nat :=
  let rel := off % 0x100000
  let page := off / 0x100000
  let powered := fun (on : Bool) => if on then 0 else 2
  let fenced := fun (u : UnitId) => if fenceSt s u = 2 then 3 else 0
  if page = 3 then powered (domOn s 67)
  else if page = 4 then powered (domOn s (if rel < 0x100 then 68 else 69))
  else if page = 5 then powered (domOn s 70)
  else if page = 6 then powered (domOn s 76)
  else if page = 7 then powered (if rel < 0x100 then domOn s 71 else domOn s 72 || domOn s 73)
  else if page = 9 then
    let k := rsUnit s
    if rel = 0 then 0
    else if fenceSt s ⟨unitClass k.engine, k.unit⟩ = 2 then 3
    else powered (decide (k.engine ≤ 10) && decide (k.unit < unitCount (unitClass k.engine)) && domOn s (engineDomain k.engine k.unit))
  else if page = 10 then powered (domOn s 77)
  else if page = 11 then powered (decide (rel < 0x40000) || decide (0xC0000 ≤ rel) || domOn s 78)
  else if page = 14 || page = 15 then (if rel % 0x10000 = 0 then 0 else fenced ⟨0xE, off / 0x10000 - 0xE0⟩)
  else if 16 ≤ page && page < 28 then (if rel = 0 then 0 else fenced ⟨1, page - 16⟩)
  else if 28 ≤ page && page < 32 then
    if 0x180 ≤ rel && rel < 0x200 then fenced ⟨3, 16 * (page - 28) + (rel - 0x180) / 8⟩
    else if 0x80080 ≤ rel && rel < 0x80100 then fenced ⟨2, 16 * (page - 28) + (rel - 0x80080) / 8⟩
    else 0
  else if 32 ≤ page && page < 44 && rel < 0x400 then
    (if rel % 0x100 = 0 then 0 else fenced ⟨0xD, 4 * (page - 32) + rel / 0x100⟩)
  else 0

/-- The code an access receives: FENCED for every access but a read of HF_FATAL once a fatal cause is latched (R430), then
ALIGN, then the block's. -/
def accessCode (s : State) (read : Bool) (width off : Nat) : Nat :=
  if s.boot.fatalCause != 0 then (if read && off == 0x228 && width == 8 then 0 else 3)
  else if width != 8 || off % 8 != 0 then 1
  else blockCode s off

/-- HL_MGMT_ERR after an error response. -/
def noteMgmt (s : State) (code off : Nat) : State :=
  if code = 0 then s else { s with hl := { s.hl with mgmtErrCode := code, mgmtErrOffset := BitVec.ofNat 26 off } }

/-! ### Writes -/

/-- A field cleared by writing ones. -/
def w1c {n : Nat} (old : BitVec n) (v : Nat) : BitVec n := old &&& ~~~(BitVec.ofNat n v)

/-- The claim of a link RUNNING or ENDING: AD_PLAN is then kept. -/
def linkLocked (s : State) (l : Nat) : Bool := ((linkOwner s l).map (claimRuns s)).getD false

/-- A write of LP_CTL. A trace that ends has its queued records written, on whole lines (R448); one that begins counts its
records from 0 (log 34). -/
def writeLampCtl (s : State) (c v : Nat) : State :=
  let on := bit v 0
  let was := (lampOf s c).enable
  let s1 := modLamp s c (fun l => { l with enable := on, sampleLog2 := bits v 4 1 })
  if on && !was then modLamp s1 c (fun l => { l with written := 0, seq := 0 })
  else if was && !on then opLampLineTimeout c (lampPump ((lampOf s1 c).queue.length) s1 c)
  else s1

/-- A write to Headframe's registers. -/
def writeHeadframe (s : State) (rel v : Nat) : State :=
  if rel = 0x200 then { s with hf := { s.hf with fenceSel := BitVec.ofNat 16 v } }
  else if rel = 0x238 then { s with boot := { s.boot with err := w1c s.boot.err v } }
  else if rel = 0x308 then { s with boot := { s.boot with pinErr := w1c s.boot.pinErr v } }
  else s

/-- A write to Hoistlink's registers. A ring enabled over a path whose row carries no RCB has one that is free (log 5). -/
def writeHoistlink (s : State) (rel v : Nat) : State :=
  if rel = 8 then
    let s1 := { s with hl := { s.hl with laneDisable := BitVec.ofNat 16 v } }
    if bit v 16 then hlRetrain s1 else s1
  else if rel = 0x40 then { s with hl := { s.hl with err := w1c s.hl.err v } }
  else if 0x100 ≤ rel && rel < 0x120 then
    { s with hl := { s.hl with ringTable := lmod s.hl.ringTable ((rel - 0x100) / 8) (fun _ => BitVec.ofNat 64 (v / 65536 * 65536)) } }
  else if rel = 0x120 then { s with hl := { s.hl with mgmtRingTable := BitVec.ofNat 64 (v / 256 * 256) } }
  else if rel = 0x128 then
    if bits v 15 14 = 1 && linkUp s then
      let (b, s1) := freeBytes s 128
      enableRing (BitVec.ofNat 64 v) b s1
    else if bits v 15 14 = 2 then disableRing (BitVec.ofNat 64 v) s
    else s
  else s

/-- A write to the registers of the engine blocks from the Crusher to Ledgers. -/
def writeEngines (s : State) (page rel v : Nat) : State :=
  let e := s.eng
  if page = 3 then (if rel = 0x58 then { s with eng := { e with crErr := w1c e.crErr v } } else s)
  else if page = 4 then
    if rel = 0x10 then { s with eng := { e with slErr := w1c e.slErr v } }
    else if rel = 0x108 then { s with eng := { e with tbSel := BitVec.ofNat 12 v &&& 0xF3F } }
    else s
  else if page = 5 then (if rel = 0x30 then { s with eng := { e with pkErr := w1c e.pkErr v } } else s)
  else if page = 6 then
    if rel = 8 then { s with face := { s.face with modelSel := BitVec.ofNat 12 v &&& 0xF0F } }
    else if rel = 0x80 then { s with face := { s.face with err := w1c s.face.err v } }
    else s
  else if rel = 0x10 then { s with eng := { e with asErr := w1c e.asErr v } }
  else if rel = 0x100 then { s with store := { s.store with lgSel := BitVec.ofNat 12 v &&& 0xF3F } }
  else if rel = 0x1B8 then { s with store := { s.store with lgErr := w1c s.store.lgErr v } }
  else s

/-- A write to the Cage's registers; CG_HOST_BASE is kept while its claim is RUNNING or ENDING (R308). -/
def writeCage (s : State) (rel v : Nat) : State :=
  let g := s.cage
  if rel = 0 then { s with cage := { g with poolSel := BitVec.ofNat 12 v } }
  else if 0x40 ≤ rel && rel < 0x60 then
    let c := (rel - 0x40) / 8
    if claimRuns s c then s
    else { s with cage := { g with hostBase := lmod g.hostBase c (fun _ => BitVec.ofNat 64 (v / 65536 * 65536)) } }
  else if 0x60 ≤ rel && rel < 0x80 then
    let c := (rel - 0x60) / 8
    { s with cage := { g with flashUs := lmod g.flashUs c (fun _ => bits v 31 16), hostUs := lmod g.hostUs c (fun _ => bits v 15 0) } }
  else if rel = 0x90 then { s with cage := { g with err := w1c g.err v } }
  else s

/-- A write to the registers of rosters and of Haulage. -/
def writeHaulage (s : State) (page rel v : Nat) : State :=
  let h := s.haul
  if page = 9 then (if rel = 0 then { s with haul := { h with rsSel := BitVec.ofNat 24 v &&& 0xFF3F1F } } else s)
  else if rel = 0x10 then { s with haul := { h with policerSel := BitVec.ofNat 20 v } }
  else if rel = 0x40 then { s with haul := { h with gateSel := BitVec.ofNat 6 v } }
  else if rel = 0x50 then { s with haul := { h with err := w1c h.err v } }
  else s

/-- A write to the registers of Tally, Lamp and Watch. LP_BASE and LP_LINES are kept while ENABLE is 1 (R439). -/
def writeTrace (s : State) (rel v : Nat) : State :=
  if rel = 0 then { s with watch := { s.watch with tlSel := BitVec.ofNat 25 v &&& 0x1FF3F00 } }
  else if rel < 0x40000 then s
  else if rel < 0x80000 then
    let r := rel - 0x40000
    let c := r / 8 % 4
    if r < 0x20 then writeLampCtl s c v
    else if r < 0x40 then
      if (lampOf s c).enable then s else modLamp s c (fun l => { l with base := BitVec.ofNat 64 (v / 128 * 128) })
    else if r < 0x60 then (if (lampOf s c).enable then s else modLamp s c (fun l => { l with lines := v % 2 ^ 32 }))
    else if r < 0x80 then
      let s1 := modLamp s c (fun l => { l with head := BitVec.ofNat 32 v })
      lampPump ((lampOf s1 c).queue.length) s1 c
    else s
  else if rel = 0x80020 then { s with watch := { s.watch with wtErr := w1c s.watch.wtErr v } }
  else s

/-- A write to the security store: the staged key, and the commands. -/
def writeSecurity (s : State) (rel v : Nat) : State :=
  if 0x100 ≤ rel && rel < 0x188 then
    let n := (rel - 0x100) / 8
    { s with sec := { s.sec with keyData := lmod s.sec.keyData n (fun _ => BitVec.ofNat 64 (if n = 16 then v % 2 ^ 32 else v)) } }
  else if rel = 0x188 then
    if bits v 5 4 = 1 then opKeyProgram (BitVec.ofNat 64 v) s else opKeyRevoke (BitVec.ofNat 64 v) s
  else if rel = 0x200 then opDebugRead (BitVec.ofNat 64 v) s
  else s

/-- A write to an array bank. -/
def writeBank (s : State) (b rel v : Nat) : State :=
  if rel = 0x18 then { s with banks := lmod s.banks b (fun x => { x with numErr := w1c x.numErr v }) }
  else if rel = 0x20 then { s with banks := lmod s.banks b (fun x => { x with err := w1c x.err v }) }
  else s

/-- A write to a seam die's window. -/
def writeSeamDie (s : State) (n rel v : Nat) : State :=
  if rel = 0x200 then modDie s n (fun d => { d with err := w1c d.err v })
  else if rel = 0x80100 then { s with drift := { s.drift with err := lmod s.drift.err n (fun e => w1c e v) } }
  else if rel = 0x80300 && n = 0 then { s with store := { s.store with pitSel := BitVec.ofNat 20 v } }
  else s

/-- A retrain of an Adit link that is UP: STATE passes through RETRAINING; credits and sequence numbers are kept (R388). -/
def adRetrain (s : State) (l : Nat) : State :=
  if (linkOf s l).st = 2 then faultEvent (modLink s l (fun x => { x with st := 3, crcRun := 0, err := x.err ||| 4 })) 5 0 else s

/-- AD_LINK_CTL.RETRAIN written 1: a link that is UP retrains; one that training left without traffic trains again
(log 102). -/
def retrainLink (s : State) (l : Nat) : State :=
  let st := (linkOf s l).st
  if st = 4 || st = 5 || st = 6 then modLink s l (fun x => { x with st := 1, err := x.err ||| 4 }) else adRetrain s l

/-- A write to an Adit group: a link's registers, and in group 0 the gangs'. -/
def writeGroup (s : State) (g rel v : Nat) : State :=
  if rel < 0x400 then
    let l := 4 * g + rel / 0x100
    let r := rel % 0x100
    if r = 8 then
      let s1 := modLink s l (fun x => { x with laneDisable := BitVec.ofNat 4 v })
      if bit v 4 then retrainLink s1 l else s1
    else if r = 0x20 then
      if linkLocked s l then s else modLink s l (fun x => { x with expLink := bits v 15 8, expModule := bits v 7 0 })
    else if r = 0x30 then modLink s l (fun x => { x with err := w1c x.err v })
    else s
  else if g != 0 then s
  else if 0x8000 ≤ rel && rel < 0x8020 then
    let c := (rel - 0x8000) / 8
    if claimRuns s c then s else modGang s c (fun x => { x with tag := BitVec.ofNat 64 v })
  else if 0x8020 ≤ rel && rel < 0x8040 then modGang s ((rel - 0x8020) / 8) (fun x => { x with lossUs := bits v 15 0 })
  else s

/-- A register written by its access code (R16): RO fields, reserved bits and reserved offsets discard. -/
def writeReg (s : State) (off v : Nat) : State :=
  let rel := off % 0x100000
  let page := off / 0x100000
  if off % 8 != 0 then s
  else if page = 0 then writeHeadframe s rel v
  else if page = 1 then writeHoistlink s rel v
  else if page = 2 then (if rel = 0x20 then { s with fm := { s.fm with slotSel := BitVec.ofNat 16 v } } else s)
  else if page < 8 then writeEngines s page rel v
  else if page = 8 then writeCage s rel v
  else if page = 9 || page = 10 then writeHaulage s page rel v
  else if page = 11 then writeTrace s rel v
  else if page = 12 then (if rel = 0x718 then { s with power := { s.power with err := w1c s.power.err v } } else s)
  else if page = 13 then writeSecurity s rel v
  else if page = 14 then writeBank s (rel / 0x10000) (rel % 0x10000) v
  else if page = 15 then (if rel < 0x10000 then writeBank s 16 rel v else s)
  else if page < 28 then
    if rel = 0x18 then
      { s with cage := { s.cage with lodes := lmod s.cage.lodes (page - 16) (fun d => { d with err := w1c d.err v }) } }
    else s
  else if page < 32 then writeSeamDie s (page - 28) rel v
  else if page < 44 then writeGroup s (page - 32) rel v
  else s

/-! ### The paths -/

/-- A management write on a path: its code, and the state after it. -/
def mgmtWrite (s : State) (width off v : Nat) : Nat × State :=
  let code := accessCode s false width off
  (code, if code = 0 then writeReg s off v else noteMgmt s code off)

/-- A management read on a path: its code, its data (0 on an error), and the state after it. -/
def mgmtRead (s : State) (width off : Nat) : Nat × Nat × State :=
  let code := accessCode s true width off
  if code = 0 then
    let s1 := passRead s off
    (code, readReg s1 off, noteMgmt s1 code off)
  else (code, 0, noteMgmt s code off)

/-- REGISTER_WRITE: an access by the companion over Hoistlink, on the management channel; it gets one answer (R85). An access
without a value is a read of the window: the table gives it no row of its own (log 111). -/
def opRegisterWrite (offset : BitVec 26) (width : Nat) (value : Option W64) (s : State) : State :=
  if upNow s && linkUp s then
    let s0 := hlGot s 2 1
    match value with
    | some v =>
      let (code, s1) := mgmtWrite s0 width offset.toNat v.toNat
      answerMgmt s1 offset.toNat code 0
    | none =>
      let (code, data, s1) := mgmtRead s0 width offset.toNat
      answerMgmt s1 offset.toNat code (BitVec.ofNat 64 data)
  else s

/-- The meaning of REGISTER_WRITE. -/
def execRegisterWrite (offset : BitVec 26) (width : Nat) (value : Option W64) (s : State) : Host.Outcome State Fault Refusal :=
  .next (opRegisterWrite offset width value s)

/-- MGMT_ACCESS_TIMEOUT: an access not answered within 20 µs (R85), over Hoistlink or, while it is down, through the TAP. -/
def opMgmtAccessTimeout (offset : BitVec 26) (s : State) : State :=
  if !mgmtUp s then s
  else if linkUp s then answerMgmt (noteMgmt (hlGot s 2 1) 4 offset.toNat) offset.toNat 4 0
  else emit (noteMgmt s 4 offset.toNat) (.mgmt offset.toNat 4 0)

/-- The meaning of MGMT_ACCESS_TIMEOUT. -/
def execMgmtAccessTimeout (offset : BitVec 26) (s : State) : Host.Outcome State Fault Refusal := .next (opMgmtAccessTimeout offset s)

/-- A sideband response: the code, four bytes of 0, the data (R467). -/
def sidebandAnswer (s : State) (code data : Nat) : State := emit s (.sideband (leBytes 1 code ++ leBytes 4 0 ++ leBytes 8 data))

/-- READ8: it answers with the link down too; HF_FATAL once a fatal cause is latched (R430). -/
def opRead8 (offset : W32) (s : State) : State :=
  if sidebandUp s then
    let (code, data, s1) := mgmtRead s 8 offset.toNat
    sidebandAnswer s1 code data
  else s

/-- The meaning of READ8. -/
def execRead8 (offset : W32) (s : State) : Host.Outcome State Fault Refusal := .next (opRead8 offset s)

/-- WRITE8. -/
def opWrite8 (offset : W32) (value : W64) (s : State) : State :=
  if sidebandUp s then
    let (code, s1) := mgmtWrite s 8 offset.toNat value.toNat
    sidebandAnswer s1 code 0
  else s

/-- The meaning of WRITE8. -/
def execWrite8 (offset : W32) (value : W64) (s : State) : Host.Outcome State Fault Refusal := .next (opWrite8 offset value s)

/-- MGMT: the TAP's management access, with the rules of R85. -/
def opMgmt (a : MgmtAccess) (s : State) : State :=
  if !tapOn s then s
  else
    let s0 := loadInstr s 6
    match a with
    | .read off =>
      let (code, data, s1) := mgmtRead s0 8 off.toNat
      emit s1 (.mgmt off.toNat code (BitVec.ofNat 64 data))
    | .write off v =>
      let (code, s1) := mgmtWrite s0 8 off.toNat v.toNat
      emit s1 (.mgmt off.toNat code 0)

/-- The meaning of MGMT. -/
def execMgmt (a : MgmtAccess) (s : State) : Host.Outcome State Fault Refusal := .next (opMgmt a s)

end Sys2Proof.Machine
end

