-- ==== Sys2Proof/Machine/AditLinks.lean ====
section
/-! DEFINITION. Adit's events: training with the identity checks, link errors, credits and acknowledgements, the messages
of a gang and the loss of a peer (16 R380 to R395). -/

namespace Sys2Proof.Machine

/-! ### Training (R383 to R386) -/

/-- The first check of R386 that an identity fails; 0 where none does. DUPLICATE looks at the links of the same claim, whose
gang the numbers belong to (log 37). -/
def identFault (s : State) (c l : Nat) (i : AdIdentity) : Nat :=
  let own := fun (f : ClaimSec → Nat) => ownOf s c f
  let x := linkOf s l
  let dup := (List.range 48).any (fun k => k != l && linkOwner s k == some c && (linkOf s k).st == 2
    && ((linkOf s k).peer.map (fun j => j.moduleId == i.moduleId && j.serial != i.serial)).getD false)
  if i.district != 0 then 1
  else if i.serial = Config.serial then 2
  else if i.tag != (gangOf s c).tag then 3
  else if i.gangSize != own (·.gangSize) || own (·.gangSize) ≤ i.moduleId || i.moduleId = own (·.gangModuleId) then 4
  else if dup then 5
  else if (x.expModule != 0xFF && i.moduleId != x.expModule) || (x.expLink != 0xFF && i.link != x.expLink) then 6
  else 0

/-- A link that training leaves without traffic, in a STATE. -/
def trainFails (s : State) (l st : Nat) (f : AditLink → AditLink) : State := modLink (linkDown s l st) l f

/-- The initial credits of a link (R390), and their sum. -/
def adCredits : List Nat := [32, 288, 288, 288, 288, 288, 288]

/-- What is known of the peer of a link that is UP: another serial or incarnation than before loses the old peer (R394), and
its message numbers begin anew. -/
def notePeer (s : State) (c : Nat) (i : AdIdentity) : State :=
  let old := kgetD (gangOf s c).peers i.moduleId {}
  let fresh : PeerState := { incarnation := some i.incarnation, serial := i.serial }
  if old.incarnation.isSome && (old.incarnation != some i.incarnation || old.serial != i.serial) then
    modGang (peerLost s c i.moduleId) c (fun g => { g with peers := kset g.peers i.moduleId fresh })
  else modGang s c (fun g => { g with peers := kset g.peers i.moduleId { old with incarnation := some i.incarnation, serial := i.serial } })

/-- Steps 5 and 6 of training on the lanes that passed: identities, and the initial credits. A retrain with the same peer keeps the
credits (R388). -/
def adIdentify (s : State) (c l : Nat) (i : AdIdentity) (note : AditLink → AditLink) : State :=
  let x := linkOf s l
  let code := identFault s c l i
  if code != 0 then trainFails s l 6 (fun y => { note y with miswire := code, peer := some i, err := y.err ||| 0x20 })
  else
    let same := x.st == 3 && (x.peer.map (fun p => p.serial == i.serial && p.incarnation == i.incarnation)).getD false
    let up := fun (y : AditLink) => { note y with st := 2, miswire := 0, peer := some i, crcRun := 0 }
    let grant := fun (y : AditLink) =>
      if same then y else { y with issued := BitVec.ofNat 32 adCredits.sum, returned := 0, avail := adCredits }
    let clock := if x.refclkSrc then 8 else 4
    let s1 := modLink { s with boot := { s.boot with refclk := s.boot.refclk ||| clock } } l (fun y => grant (up y))
    linkIsUp (notePeer s1 c i) l

/-- Lane training and the exchanges that follow it, for the claim that owns the link. -/
def adTrain (s : State) (c l : Nat) (t : AdTrain) : State :=
  let lanes := t.pass &&& ~~~(linkOf s l).laneDisable
  let note := fun (y : AditLink) => { y with polFix := t.polarity &&& lanes, reversed := t.reversed, laneMask := lanes }
  if lanes = 0 then trainFails s l 4 note
  else if t.peerSet &&& 1 = 0 then trainFails s l 5 (fun y => { note y with peerSet := t.peerSet, chosen := 0 })
  else adIdentify s c l t.ident (fun y => { note y with peerSet := t.peerSet, chosen := 1 })

/-- What trains again on a link that stopped: all of it, or steps 5 and 6 alone on a MISWIRED one, whose lanes and version stand
(R383). -/
def adRetry (s : State) (c l : Nat) (t : AdTrain) : State :=
  let x := linkOf s l
  if x.st = 6 then adIdentify s c l t.ident (fun y => { y with laneMask := x.laneMask }) else adTrain s c l t

/-- Whether a link can train: its claim runs or starts, its group is powered, it is in service. -/
def linkPowered (s : State) (l : Nat) : Bool := alive s && decide (l < 48) && domOn s (45 + l / 4) && unitOk s 0xD l

/-- A training of a link in one of some states. -/
def trainIn (l : Nat) (t : AdTrain) (sts : List Nat) (s : State) : State :=
  match linkOwner s l with
  | some c => if linkPowered s l && sts.contains (linkOf s l).st then adRetry s c l t else s
  | none => s

/-- AD_TRAINING: a link in TRAINING or RETRAINING. -/
def opAdTraining (link : Nat) (t : AdTrain) (s : State) : State := trainIn link t [1, 3] s

/-- The meaning of AD_TRAINING. -/
def execAdTraining (link : Nat) (t : AdTrain) (s : State) : Host.Outcome State Fault Refusal := .next (opAdTraining link t s)

/-- AD_TRAIN_RETRY: a link that no lane of passed, or that is MISWIRED, tries again. -/
def opAdTrainRetry (link : Nat) (t : AdTrain) (s : State) : State := trainIn link t [4, 6] s

/-- The meaning of AD_TRAIN_RETRY. -/
def execAdTrainRetry (link : Nat) (t : AdTrain) (s : State) : Host.Outcome State Fault Refusal := .next (opAdTrainRetry link t s)

/-! ### Link errors (R381, R388) -/

/-- AD_RETRAIN: AD_LINK_CTL.RETRAIN written 1. -/
def opAdRetrain (link : Nat) (s : State) : State := if mgmtUp s then retrainLink s link else s

/-- The meaning of AD_RETRAIN. -/
def execAdRetrain (link : Nat) (s : State) : Host.Outcome State Fault Refusal := .next (opAdRetrain link s)

/-- AD_FLIT_CRC_FAIL: a replay, of the flit that failed last (`again`) or of another; the sixteenth failure of one flit in a row
retrains. `corrected` codewords have been corrected since the last such failure. -/
def opAdFlitCrcFail (link : Nat) (again : Bool) (corrected : Nat) (s : State) : State :=
  if !(alive s && (linkOf s link).st == 2) then s
  else
    let f := fun (x : AditLink) => { x with
      fecCorrected := satAdd 24 x.fecCorrected corrected, crcRetry := satAdd 24 x.crcRetry 1
      crcRun := if again then x.crcRun + 1 else 1 }
    let s1 := faultEvent (modLink s link f) 1 0
    if 16 ≤ (linkOf s1 link).crcRun then adRetrain s1 link else s1

/-- The meaning of AD_FLIT_CRC_FAIL. -/
def execAdFlitCrcFail (flit : BadFlit) (s : State) : Host.Outcome State Fault Refusal :=
  .next (opAdFlitCrcFail flit.link flit.again flit.corrected s)

/-- AD_LANE_FAIL: the link re-stripes, or goes down with its last lane. -/
def opAdLaneFail (link lane : Nat) (s : State) : State :=
  let x := linkOf s link
  if !(alive s && (x.st == 2 || x.st == 3) && decide (lane < 4) && x.laneMask.getLsbD lane) then s
  else
    let left := x.laneMask &&& ~~~(1#4 <<< lane)
    if left = 0 then linkDown s link 4
    else faultEvent (modLink s link (fun x => { x with laneMask := left, err := x.err ||| 8 })) 5 0

/-- The meaning of AD_LANE_FAIL. -/
def execAdLaneFail (link lane : Nat) (s : State) : Host.Outcome State Fault Refusal := .next (opAdLaneFail link lane s)

/-- AD_REFCLK_LOSS: every UP link switches to a good partner and retrains once; without one every link goes down. -/
def opAdRefclkLoss (partnerGood : Bool) (s : State) : State :=
  if !alive s then s
  else if partnerGood then
    let src := (linkOf s 0).refclkSrc
    let s1 := { s with boot := { s.boot with refclk := (s.boot.refclk &&& 3) ||| (if src then 4 else 8) } }
    (List.range 48).foldl (fun s l =>
      let up := (linkOf s l).st == 2
      let s1 := modLink s l (fun x => { x with refclkSrc := !src, err := if up then x.err ||| 0x10 else x.err })
      if up then adRetrain s1 l else s1) s1
  else
    let s1 := { s with boot := { s.boot with refclk := s.boot.refclk &&& 3 } }
    (List.range 48).foldl (fun s l => if (linkOf s l).st = 0 then s else linkDown s l 4) s1

/-- The meaning of AD_REFCLK_LOSS. -/
def execAdRefclkLoss (partnerGood : Bool) (s : State) : Host.Outcome State Fault Refusal := .next (opAdRefclkLoss partnerGood s)

/-! ### Receiving (R390, R391) -/

/-- The claim whose link carries traffic, and the peer at its other end. -/
def openLink (s : State) (l : Nat) : Option (Nat × AdIdentity) :=
  match linkOwner s l, (linkOf s l).peer with
  | some c, some i => if alive s && claimRuns s c && (linkOf s l).st == 2 && unitOk s 0xD l then some (c, i) else none
  | _, _ => none

/-- Whether a message is of an old incarnation, or of a peer that is lost (R394). -/
def isStale (s : State) (c : Nat) (i : AdIdentity) (m : AdMsg) : Bool :=
  m.incarnation != i.incarnation || bit (gangOf s c).lost i.moduleId

/-- Whether a peer's message was accepted before (R391). -/
def isDuplicate (p : PeerState) (seq : W32) : Bool := decide (65536 ≤ (seq - p.lowest).toNat) || p.marked.contains seq

/-- The lowest PEER_SEQ not accepted moved over those marked. -/
def advanceSeq (fuel : Nat) (p : PeerState) : PeerState :=
  match fuel with
  | 0 => p
  | fuel + 1 =>
    if p.marked.contains p.lowest then
      advanceSeq fuel { p with lowest := p.lowest + 1, marked := p.marked.filter (· != p.lowest) }
    else p

/-- A message marked as accepted. -/
def markPeerSeq (p : PeerState) (seq : W32) : PeerState := advanceSeq (p.marked.length + 1) { p with marked := p.marked ++ [seq] }

/-- The flits of a message. -/
def msgFlits (m : AdMsg) : Nat := ((framesOf m).map (fun f => flitsOf f.len)).sum

/-- A frame of class LINK on a link (log 26). -/
def linkMsg (s : State) (c : Nat) (dst : Nat) (payload : List Byte) : AdMsg :=
  { src := moduleIdOf s c, dst := dst, step := 0, incarnation := (gangOf s c).incarnation, peerSeq := 0, handle := 0
    home := moduleIdOf s c, tenant := 0, object := 0, payload := payload }

/-- A message's credits returned, and where it was accepted now or before its acknowledgement, on class LINK. -/
def returnCredits (s : State) (c l cls : Nat) (i : AdIdentity) (m : AdMsg) (ack : Bool) : State :=
  let n := msgFlits m
  let s1 := modLink s l (fun x => { x with returned := x.returned + BitVec.ofNat 32 n })
  let pay := leBytes 1 2 ++ leBytes 1 cls ++ leBytes 4 n ++ (if ack then leBytes 4 m.peerSeq.toNat else [])
  queueFrames s1 l 0 (framesOf (linkMsg s1 c i.moduleId pay))

/-- A message taken from a link: STALE ones and duplicates are discarded, another is marked and acted on. -/
def takeMsg (s : State) (l cls : Nat) (m : AdMsg) (act : State → Nat → State) : State :=
  match openLink s l with
  | none => s
  | some (c, i) =>
    if m.src != i.moduleId then s
    else if isStale s c i m then modLink (returnCredits s c l cls i m false) l (fun x => { x with err := x.err ||| 0x40 })
    else
      let p := kgetD (gangOf s c).peers i.moduleId {}
      let s1 := returnCredits s c l cls i m true
      if isDuplicate p m.peerSeq then s1
      else act (modGang s1 c (fun g => { g with peers := kset g.peers i.moduleId (markPeerSeq p m.peerSeq) })) c

/-! ### Work for peers (R392) -/

/-- A pit of a claim that this module holds a shard of, as a peer may ask it. -/
def shardPit (s : State) (c p : Nat) : Option PitSec := (pitSecOf s c p).filter (fun x => bit x.shardModules (moduleIdOf s c))

/-- An answer of a class to a message; empty where it reports a configuration fault (log 26). -/
def answerMsg (s : State) (c cls : Nat) (m : AdMsg) (payload : List Byte) : State :=
  sendMsg s c m.src cls m.handle.toNat m.home m.step m.tenant m.object payload

/-- A QUERY served: a search of the shard at the epoch its pit held when the QUERY arrived (R161, R164). -/
def serveQuery (s : State) (l : Nat) (m : AdMsg) (epoch c : Nat) : State :=
  match shardPit s c m.object with
  | none => answerMsg s c 2 m []
  | some _ =>
    let num := s.drift.next
    let owner := SearchOwner.peer c l m.src m.home m.handle.toNat m.peerSeq.toNat
    let x := querySearch owner c m.object epoch m.payload
    modGang { s with drift := { s.drift with searches := kset s.drift.searches num x, next := num + 1 } } c
      (fun g => { g with remote := g.remote ++ [⟨l, 1, m, some num⟩] })

/-- The extent of a passage of a pit on this module (R142). -/
def passageExtent (s : State) (c p : Nat) (sec : PitSec) (handle : Nat) : List Byte :=
  let mine := (pitOf s c p).live.recs.filter (fun r => r.2.kind == 1 && r.2.passage == passageOf handle)
  let live := (mine.find? (fun r => r.2.del == liveEpoch)).orElse (fun _ => mine.head?)
  (live.bind (fun r => extentOf s c p sec r.1.1 r.1.2)).getD []

/-- The handles of a FETCH's payload, and one item of a REPLY: its length and its bytes. -/
def fetchHandles (b : List Byte) : List Nat := (List.range ((b.length - 8) / 8)).map (fun i => fld b (8 + 8 * i) 8)
def replyItem (b : List Byte) : List Byte := leBytes 4 b.length ++ b

/-- A ledger row as a REPLY carries it. -/
def rowReply (f : FeatRow) : List Byte := replyItem (leBytes 1 f.fmt ++ leBytes 2 f.elements ++ f.bytes)

/-- A FETCH served: ledger rows, looked up as one batch, or text extents, an empty one where it stayed unreadable (R194, R206, R227).
The reply waits for no load: a row of a page that is not there is looked up as R193 says, and its value is free only where the page
cannot be read (DESIGN CHOICE, log 124). -/
def serveFetch (s : State) (m : AdMsg) (c : Nat) : State :=
  let kind := fld m.payload 0 8
  let hs := fetchHandles m.payload
  if kind = 0 then
    match ledgerSecOf s c m.object with
    | none => answerMsg s c 4 m []
    | some _ =>
      let h := (ledgerOf s c m.object).live.hdr
      let (rows, s1) := serveRows s c m.object none (hs.map passageOf)
      answerMsg s1 c 4 m (leBytes 8 kind ++ (rows.map (fun b => rowReply ⟨h.fmt, h.elements, b⟩)).flatten)
  else
    match shardPit s c m.object with
    | none => answerMsg s c 4 m []
    | some sec => answerMsg s c 4 m (leBytes 8 kind ++ (hs.map (fun h => replyItem (passageExtent s c m.object sec h))).flatten)

/-- The pairs of a SCATTER's payload. -/
def scatterPairs (fuel : Nat) (b : List Byte) : List (Nat × List Byte) :=
  match fuel with
  | 0 => []
  | fuel + 1 =>
    if b.length < 12 then []
    else
      let n := fld b 8 4
      (fld b 0 8, (b.drop 12).take n) :: scatterPairs fuel (b.drop (12 + n))

/-- A SCATTER served, as one batch at a port; one that names no ledger of the claim is answered with a configuration fault (R392). -/
def serveScatter (s : State) (m : AdMsg) (c : Nat) : State :=
  if (ledgerSecOf s c m.object).isNone then answerMsg s c 4 m []
  else startScatter s c m.object (gatherPort s c) (scatterPairs m.payload.length m.payload)

/-- A message of class 1, 3 or 5 served; a QUERY at its epoch. -/
def serveWork (s : State) (l cls : Nat) (m : AdMsg) (epoch : Nat) : State :=
  takeMsg s l cls m (fun s c => if cls = 1 then serveQuery s l m epoch c else if cls = 3 then serveFetch s m c else serveScatter s m c)

/-- Whether a message waits in its receive buffer: the remote-work table is full (R392), an earlier message of its request
waits, or its ledger is paused for the flip of a swap. -/
def mustWait (s : State) (before : List SentMsg) (l cls : Nat) (m : AdMsg) : Bool :=
  match openLink s l with
  | none => false
  | some (c, i) =>
    let same := before.any (fun h => h.msg.src == m.src && h.msg.handle == m.handle)
    let full := decide (4096 ≤ (gangOf s c).remote.length)
    let rows := cls == 5 || (cls == 3 && fld m.payload 0 8 == 0)
    let paused := rows && (ledgerSecOf s c m.object).isSome && !ledgerOpen s c m.object
    m.src == i.moduleId && !isStale s c i m && (same || full || paused)

/-- The messages held in receive buffers served as far as they can be. -/
def serveHeld (s : State) : State :=
  let step := fun (s : State) (h : SentMsg) =>
    if mustWait s s.adit.held h.link h.cls h.msg then { s with adit := { s.adit with held := s.adit.held ++ [h] } }
    else serveWork s h.link h.cls h.msg h.epoch
  s.adit.held.foldl step { s with adit := { s.adit with held := [] } }

/-- A message for this module's work received. -/
def recvWork (s : State) (l cls : Nat) (m : AdMsg) : State :=
  let s1 := serveHeld s
  let epoch := (linkOwner s l).elim 0 (fun c => (pitOf s c m.object).live.p)
  if mustWait s1 s1.adit.held l cls m then { s1 with adit := { s1.adit with held := s1.adit.held ++ [⟨l, cls, m, epoch⟩] } }
  else serveWork s1 l cls m epoch

/-- QUERY. -/
def opQuery (link : Nat) (m : AdMsg) (s : State) : State := recvWork s link 1 m
/-- FETCH. -/
def opFetch (link : Nat) (m : AdMsg) (s : State) : State := recvWork s link 3 m
/-- SCATTER. -/
def opScatter (link : Nat) (m : AdMsg) (s : State) : State := recvWork s link 5 m

/-- The meaning of QUERY. -/
def execQuery (link : Nat) (m : AdMsg) (s : State) : Host.Outcome State Fault Refusal := .next (opQuery link m s)
/-- The meaning of FETCH. -/
def execFetch (link : Nat) (m : AdMsg) (s : State) : Host.Outcome State Fault Refusal := .next (opFetch link m s)
/-- The meaning of SCATTER. -/
def execScatter (link : Nat) (m : AdMsg) (s : State) : Host.Outcome State Fault Refusal := .next (opScatter link m s)

/-- CANCEL: the work a request has here ends, and its entries and buffers are free; its messages still in receive buffers are taken
and not acted on, but for a SCATTER, which is applied (R393). -/
def opCancel (link : Nat) (m : AdMsg) (s : State) : State :=
  takeMsg s link 6 m (fun s c =>
    let mine := fun (x : AdMsg) => x.src == m.src && x.handle == m.handle
    let gone := fun (h : SentMsg) => mine h.msg && h.cls != 5
    let s1 := dropRemote s c (fun w => mine w.msg)
    let s2 := { s1 with adit := { s1.adit with held := s1.adit.held.filter (fun h => !gone h) } }
    serveHeld ((s1.adit.held.filter gone).foldl (fun s h => takeMsg s h.link h.cls h.msg (fun s _ => s)) s2))

/-- The meaning of CANCEL. -/
def execCancel (link : Nat) (m : AdMsg) (s : State) : Host.Outcome State Fault Refusal := .next (opCancel link m s)

/-! ### Answers at home (R393) -/

/-- An answer that came after its request retired, counted (R393, R433). -/
def countLate (s : State) (c : Nat) : State :=
  let s1 := modGang s c (fun g => { g with late := satAdd 32 g.late 1 })
  let b := s1.watch.live
  { s1 with watch := { s1.watch with live := { b with claims := lmod b.claims c (fun t => { t with late := satAdd 32 t.late 1 }) } } }

/-- What a home request awaits of a message, taken off; one that comes once the request has retired, which its commit does
(R97), is late; an answer that reports a configuration fault ends the request
(R392). -/
def homeMsg (s : State) (l cls ask : Nat) (m : AdMsg) (act : State → Nat → Req → Await → State) : State :=
  takeMsg s l cls m (fun s c =>
    let n := m.handle.toNat % 65536
    match reqOf s n with
    | none => countLate s c
    | some r =>
      if handleOf s n != m.handle.toNat || r.claim != c || r.commit.isSome then countLate s c
      else
        let asked := s.adit.awaits.find? (fun a => a.slot == n && a.step == m.step && a.cls == ask && a.peer == m.src)
        let s1 := { s with adit := { s.adit with awaits := s.adit.awaits.filter (fun b => some b != asked) } }
        if m.payload.isEmpty then
          commitReq (modLink s1 l (fun x => { x with err := x.err ||| 0x80 })) n 9 (unitDetail ⟨0x10, m.src⟩ 9)
        else match asked with
          | none => s
          | some a => act s1 n r a)

/-- ANSWER: a shard's list joins the search it belongs to. -/
def opAnswer (link : Nat) (m : AdMsg) (s : State) : State :=
  homeMsg s link 2 1 m (fun s n _ a =>
    let b := m.payload
    let mine := fun (x : Search) => match x.owner with
      | .request k i => k == n && i == a.step
      | .peer .. => false
    match s.drift.searches.find? (fun p => mine p.2) with
    | none => s
    | some p => modSearch s p.1 (fun x => { x with
        shards := x.shards.filter (· != m.src), shardLists := x.shardLists ++ [answerEntries b]
        shardFlags := x.shardFlags ||| fld b 4 2, shardDups := x.shardDups + fld b 20 4, shardVisits := x.shardVisits + fld b 24 4 }))

/-- The meaning of ANSWER. -/
def execAnswer (link : Nat) (m : AdMsg) (s : State) : Host.Outcome State Fault Refusal := .next (opAnswer link m s)

/-- The items of a REPLY. -/
def replyItems (fuel : Nat) (b : List Byte) : List (List Byte) :=
  match fuel with
  | 0 => []
  | fuel + 1 =>
    if b.length < 4 then []
    else
      let n := fld b 0 4
      (b.drop 4).take n :: replyItems fuel (b.drop (4 + n))

/-- REPLY: the rows or extents fetched are kept for the step that asked. -/
def opReply (link : Nat) (m : AdMsg) (s : State) : State :=
  homeMsg s link 4 3 m (fun s n _ a =>
    let kind := fld m.payload 0 8
    let items := replyItems m.payload.length (m.payload.drop 8)
    let put := fun (t : KMap (Nat × Nat) (List Byte)) (x : Nat × List Byte) => kset t (n, fetchKey kind m.object x.1) x.2
    { s with adit := { s.adit with fetched := (a.what.zip items).foldl put s.adit.fetched } })

/-- The meaning of REPLY. -/
def execReply (link : Nat) (m : AdMsg) (s : State) : Host.Outcome State Fault Refusal := .next (opReply link m s)

/-! ### Class LINK, class 7, and the loss of a peer (R389, R390, R394) -/

/-- LIVENESS: a liveness frame, with a credit of class LINK; it waits behind frames of the class and for a credit. -/
def opLiveness (link : Nat) (s : State) : State :=
  match openLink s link with
  | none => s
  | some (c, i) =>
    let s1 := serveHeld s
    let m := linkMsg s1 c i.moduleId [1]
    if (linkOf s1 link).avail.getD 0 0 = 0 || !(kgetD s1.haul.frames (link, 0) []).isEmpty then queueFrames s1 link 0 (framesOf m)
    else emit (modLink s1 link (fun x => { x with avail := lmod x.avail 0 (· - 1) })) (.adit link 0 m)

/-- The meaning of LIVENESS. -/
def execLiveness (link : Nat) (s : State) : Host.Outcome State Fault Refusal := .next (opLiveness link s)

/-- LINK_FRAME: credits by class, and acknowledgements of the peer. -/
def opLinkFrame (link : Nat) (credits : List Nat) (acked : List W32) (s : State) : State :=
  match openLink s link with
  | none => s
  | some (c, i) =>
    let grant := fun (x : AditLink) => { x with
      issued := x.issued + BitVec.ofNat 32 (credits.take 7).sum, returned := x.returned + 1
      avail := (x.avail.zip (List.range 7)).map (fun a => a.1 + credits.getD a.2 0) }
    let ack := fun (p : PeerState) => { p with unacked := p.unacked.filter (fun m => !acked.contains m.msg.peerSeq) }
    serveHeld (sendWaiting (modGang (modLink s link grant) c (fun g => { g with peers := kmod g.peers i.moduleId ack })) c i.moduleId)

/-- The meaning of LINK_FRAME. -/
def execLinkFrame (link : Nat) (credits : List Nat) (acked : List W32) (s : State) : Host.Outcome State Fault Refusal :=
  .next (opLinkFrame link credits acked s)

/-- CLASS7_FRAME: dropped. -/
def opClass7Frame (link : Nat) (s : State) : State :=
  match openLink s link with
  | none => s
  | some _ => modLink s link (fun x => { x with err := x.err ||| 1 })

/-- The meaning of CLASS7_FRAME. -/
def execClass7Frame (link : Nat) (s : State) : Host.Outcome State Fault Refusal := .next (opClass7Frame link s)

/-- Whether a claim that runs can lose a peer: a gang module that is not lost already. -/
def canLose (s : State) (c peer : Nat) : Bool :=
  alive s && decide (c < 4) && claimRuns s c && decide (peer < ownOf s c (·.gangSize)) && peer != moduleIdOf s c && !bit (gangOf s c).lost peer

/-- PEER_LOSS_TIMEOUT: no link to the peer has been UP for LOSS_US. -/
def opPeerLossTimeout (claim peer : Nat) (s : State) : State :=
  if canLose s claim peer && (upLinks s claim peer).isEmpty then serveHeld (peerLost s claim peer) else s

/-- The meaning of PEER_LOSS_TIMEOUT. -/
def execPeerLossTimeout (claim peer : Nat) (s : State) : Host.Outcome State Fault Refusal := .next (opPeerLossTimeout claim peer s)

/-- LEAVING_NOTICE: the peer's claim ends; frames of its incarnation are STALE from now on. -/
def opLeavingNotice (claim peer : Nat) (s : State) : State :=
  if canLose s claim peer && !(upLinks s claim peer).isEmpty then serveHeld (peerLost s claim peer) else s

/-- The meaning of LEAVING_NOTICE. -/
def execLeavingNotice (claim peer : Nat) (s : State) : Host.Outcome State Fault Refusal := .next (opLeavingNotice claim peer s)

end Sys2Proof.Machine
end

