-- ==== Sys2Proof/Machine/Dispatch.lean ====
section
/-! DEFINITION. What each command does to the block: one arm a row of the table, each one call of that row's
meaning. -/

namespace Sys2Proof.Machine

/-- The effect of a command on everything but the queue. -/
def exec (i : Instr) (s : State) : Host.Outcome State Fault Refusal :=
  match i with
  | .watchLineInvalidate w poison line => Sys2Proof.Machine.execWatchLineInvalidate w poison line s
  | .snoopResponse addr => Sys2Proof.Machine.execSnoopResponse addr s
  | .cplHeadAdvance ring head => Sys2Proof.Machine.execCplHeadAdvance ring head s
  | .streamHeadAdvance slot head => Sys2Proof.Machine.execStreamHeadAdvance slot head s
  | .completionRecordWrite slot => Sys2Proof.Machine.execCompletionRecordWrite slot s
  | .ringEnable value rcb => Sys2Proof.Machine.execRingEnable value rcb s
  | .ringDisable value => Sys2Proof.Machine.execRingDisable value s
  | .ringDrainComplete ring completion => Sys2Proof.Machine.execRingDrainComplete ring completion s
  | .runRecipe d => Sys2Proof.Machine.execRunRecipe d s
  | .abort d => Sys2Proof.Machine.execAbort d s
  | .prefixCreate d tokens => Sys2Proof.Machine.execPrefixCreate d tokens s
  | .prefixPrefillDone fill => Sys2Proof.Machine.execPrefixPrefillDone fill s
  | .prefixRelease d => Sys2Proof.Machine.execPrefixRelease d s
  | .adapterPublish d header => Sys2Proof.Machine.execAdapterPublish d header s
  | .adapterLoadDone adapter => Sys2Proof.Machine.execAdapterLoadDone adapter s
  | .adapterWithdraw d => Sys2Proof.Machine.execAdapterWithdraw d s
  | .pitInsert d items => Sys2Proof.Machine.execPitInsert d items s
  | .pitDelete d items => Sys2Proof.Machine.execPitDelete d items s
  | .pitPublish d => Sys2Proof.Machine.execPitPublish d s
  | .epochRecordDurable claim pit => Sys2Proof.Machine.execEpochRecordDurable claim pit s
  | .ledgerRowWrite d items => Sys2Proof.Machine.execLedgerRowWrite d items s
  | .ledgerSwap d table => Sys2Proof.Machine.execLedgerSwap d table s
  | .ledgerSwapFlip claim ledger => Sys2Proof.Machine.execLedgerSwapFlip claim ledger s
  | .cagePin d => Sys2Proof.Machine.execCagePin d s
  | .cageEvict d => Sys2Proof.Machine.execCageEvict d s
  | .cageLoad d => Sys2Proof.Machine.execCageLoad d s
  | .watchArm d => Sys2Proof.Machine.execWatchArm d s
  | .searchOnly d query => Sys2Proof.Machine.execSearchOnly d query s
  | .flatScan d query => Sys2Proof.Machine.execFlatScan d query s
  | .imageAdjust d header => Sys2Proof.Machine.execImageAdjust d header s
  | .selftestRequest d => Sys2Proof.Machine.execSelftestRequest d s
  | .reservedOpcode d => Sys2Proof.Machine.execReservedOpcode d s
  | .imageLoad m header => Sys2Proof.Machine.execImageLoad m header s
  | .imageVerifyDone job image => Sys2Proof.Machine.execImageVerifyDone job image s
  | .imageApplyDone job image => Sys2Proof.Machine.execImageApplyDone job image s
  | .claimStart m => Sys2Proof.Machine.execClaimStart m s
  | .claimEnd m => Sys2Proof.Machine.execClaimEnd m s
  | .claimEndDrained claim => Sys2Proof.Machine.execClaimEndDrained claim s
  | .fence m => Sys2Proof.Machine.execFence m s
  | .unfence m => Sys2Proof.Machine.execUnfence m s
  | .replan m => Sys2Proof.Machine.execReplan m s
  | .attest m => Sys2Proof.Machine.execAttest m s
  | .counterFreeze m => Sys2Proof.Machine.execCounterFreeze m s
  | .reservedMgmtOpcode m => Sys2Proof.Machine.execReservedMgmtOpcode m s
  | .tokenizeStep slot step input => Sys2Proof.Machine.execTokenizeStep slot step input s
  | .encodeStep slot step run => Sys2Proof.Machine.execEncodeStep slot step run s
  | .searchStart claim => Sys2Proof.Machine.execSearchStart claim s
  | .strandRound search strand => Sys2Proof.Machine.execStrandRound search strand s
  | .strandHandoff search strand => Sys2Proof.Machine.execStrandHandoff search strand s
  | .labelScan search channel => Sys2Proof.Machine.execLabelScan search channel s
  | .searchMerge search => Sys2Proof.Machine.execSearchMerge search s
  | .featuresStep slot step => Sys2Proof.Machine.execFeaturesStep slot step s
  | .assay1Step slot step => Sys2Proof.Machine.execAssay1Step slot step s
  | .assay2Step slot step logits => Sys2Proof.Machine.execAssay2Step slot step logits s
  | .packStep slot step history => Sys2Proof.Machine.execPackStep slot step history s
  | .kvReservationGrant claim => Sys2Proof.Machine.execKvReservationGrant claim s
  | .prefillChunk run => Sys2Proof.Machine.execPrefillChunk run s
  | .verifyStep run draft gen => Sys2Proof.Machine.execVerifyStep run draft gen s
  | .attentionPartialMerge slot run => Sys2Proof.Machine.execAttentionPartialMerge slot run s
  | .writeResultStep slot step => Sys2Proof.Machine.execWriteResultStep slot step s
  | .retireRelease slot => Sys2Proof.Machine.execRetireRelease slot s
  | .detokenizeBatch slot => Sys2Proof.Machine.execDetokenizeBatch slot s
  | .streamShaperGrant slot => Sys2Proof.Machine.execStreamShaperGrant slot s
  | .bucketRefill claim => Sys2Proof.Machine.execBucketRefill claim s
  | .gateWindowAdvance link => Sys2Proof.Machine.execGateWindowAdvance link s
  | .aditFrameEgress link cls => Sys2Proof.Machine.execAditFrameEgress link cls s
  | .unitCommandComplete claim engine unit units work => Sys2Proof.Machine.execUnitCommandComplete claim engine unit units work s
  | .gatherBatch claim ledger port batch => Sys2Proof.Machine.execGatherBatch claim ledger port batch s
  | .scatterBatch claim ledger port pairs => Sys2Proof.Machine.execScatterBatch claim ledger port pairs s
  | .coalescerEntryLeave unit claim ledger row => Sys2Proof.Machine.execCoalescerEntryLeave unit claim ledger row s
  | .sketchHalving claim => Sys2Proof.Machine.execSketchHalving claim s
  | .binLoadWindowEnd claim => Sys2Proof.Machine.execBinLoadWindowEnd claim s
  | .binMigrateDone claim ledger => Sys2Proof.Machine.execBinMigrateDone claim ledger s
  | .stagingBufferGrant claim => Sys2Proof.Machine.execStagingBufferGrant claim s
  | .pageBufferGrant lode => Sys2Proof.Machine.execPageBufferGrant lode s
  | .frameAllocate claim kind => Sys2Proof.Machine.execFrameAllocate claim kind s
  | .pageLoadDone load => Sys2Proof.Machine.execPageLoadDone load s
  | .pageLoadUe page => Sys2Proof.Machine.execPageLoadUe page s
  | .writebackGranuleAck page granule => Sys2Proof.Machine.execWritebackGranuleAck page granule s
  | .loadDeadlineExpire slot page => Sys2Proof.Machine.execLoadDeadlineExpire slot page s
  | .lodeDramUe page => Sys2Proof.Machine.execLodeDramUe page s
  | .pageReadDone seam lpn outcome => Sys2Proof.Machine.execPageReadDone seam lpn outcome s
  | .readRebuildDone seam lpn ok => Sys2Proof.Machine.execReadRebuildDone seam lpn ok s
  | .pageProgramDone seam seq => Sys2Proof.Machine.execPageProgramDone seam seq s
  | .stripeFill seam group => Sys2Proof.Machine.execStripeFill seam group s
  | .programFail seam seq => Sys2Proof.Machine.execProgramFail seam seq s
  | .eraseDone seam group superblock => Sys2Proof.Machine.execEraseDone seam group superblock s
  | .eraseFail seam group superblock die => Sys2Proof.Machine.execEraseFail seam group superblock die s
  | .dieFailure seam die => Sys2Proof.Machine.execDieFailure seam die s
  | .collectionCopyDurable seam lpn => Sys2Proof.Machine.execCollectionCopyDurable seam lpn s
  | .journalStripeProgram die => Sys2Proof.Machine.execJournalStripeProgram die s
  | .checkpointStart die => Sys2Proof.Machine.execCheckpointStart die s
  | .checkpointDone die => Sys2Proof.Machine.execCheckpointDone die s
  | .seamRecovery die => Sys2Proof.Machine.execSeamRecovery die s
  | .sweepRecordRepair claim pit channel slot => Sys2Proof.Machine.execSweepRecordRepair claim pit channel slot s
  | .sweepFree claim pit => Sys2Proof.Machine.execSweepFree claim pit s
  | .hotNodeWindowEnd claim pit channel => Sys2Proof.Machine.execHotNodeWindowEnd claim pit channel s
  | .hlTraining t => Sys2Proof.Machine.execHlTraining t s
  | .hlTrainRetry t => Sys2Proof.Machine.execHlTrainRetry t s
  | .hlFlitCrcFail => Sys2Proof.Machine.execHlFlitCrcFail s
  | .hlRetrain => Sys2Proof.Machine.execHlRetrain s
  | .hlLaneFail lane => Sys2Proof.Machine.execHlLaneFail lane s
  | .hlRefclkLoss partnerGood => Sys2Proof.Machine.execHlRefclkLoss partnerGood s
  | .hlCompanionStateLoss => Sys2Proof.Machine.execHlCompanionStateLoss s
  | .companionReadPoison target => Sys2Proof.Machine.execCompanionReadPoison target s
  | .mgmtAccessTimeout offset => Sys2Proof.Machine.execMgmtAccessTimeout offset s
  | .registerWrite offset width value => Sys2Proof.Machine.execRegisterWrite offset width value s
  | .adTraining link t => Sys2Proof.Machine.execAdTraining link t s
  | .adTrainRetry link t => Sys2Proof.Machine.execAdTrainRetry link t s
  | .adRetrain link => Sys2Proof.Machine.execAdRetrain link s
  | .adFlitCrcFail flit => Sys2Proof.Machine.execAdFlitCrcFail flit s
  | .adLaneFail link lane => Sys2Proof.Machine.execAdLaneFail link lane s
  | .adRefclkLoss partnerGood => Sys2Proof.Machine.execAdRefclkLoss partnerGood s
  | .liveness link => Sys2Proof.Machine.execLiveness link s
  | .linkFrame link credits acked => Sys2Proof.Machine.execLinkFrame link credits acked s
  | .query link m => Sys2Proof.Machine.execQuery link m s
  | .answer link m => Sys2Proof.Machine.execAnswer link m s
  | .fetch link m => Sys2Proof.Machine.execFetch link m s
  | .reply link m => Sys2Proof.Machine.execReply link m s
  | .scatter link m => Sys2Proof.Machine.execScatter link m s
  | .cancel link m => Sys2Proof.Machine.execCancel link m s
  | .class7Frame link => Sys2Proof.Machine.execClass7Frame link s
  | .peerLossTimeout claim peer => Sys2Proof.Machine.execPeerLossTimeout claim peer s
  | .leavingNotice claim peer => Sys2Proof.Machine.execLeavingNotice claim peer s
  | .replanPass r => Sys2Proof.Machine.execReplanPass r s
  | .selftestRun cls idx => Sys2Proof.Machine.execSelftestRun cls idx s
  | .selftestDone cls idx pass => Sys2Proof.Machine.execSelftestDone cls idx pass s
  | .aditCalibration link => Sys2Proof.Machine.execAditCalibration link s
  | .domainSwitchGroup => Sys2Proof.Machine.execDomainSwitchGroup s
  | .powerOn b => Sys2Proof.Machine.execPowerOn b s
  | .inputLoss millivolts => Sys2Proof.Machine.execInputLoss millivolts s
  | .resetNAssert => Sys2Proof.Machine.execResetNAssert s
  | .resetNRelease b => Sys2Proof.Machine.execResetNRelease b s
  | .junctionHot domain celsius => Sys2Proof.Machine.execJunctionHot domain celsius s
  | .thermalLimit domain => Sys2Proof.Machine.execThermalLimit domain s
  | .thermalShed domain => Sys2Proof.Machine.execThermalShed domain s
  | .coolantInletRange celsius => Sys2Proof.Machine.execCoolantInletRange celsius s
  | .sensorFault inlet => Sys2Proof.Machine.execSensorFault inlet s
  | .leak => Sys2Proof.Machine.execLeak s
  | .pinReadbackMismatch alert => Sys2Proof.Machine.execPinReadbackMismatch alert s
  | .sidebandBusHeld => Sys2Proof.Machine.execSidebandBusHeld s
  | .read8 offset => Sys2Proof.Machine.execRead8 offset s
  | .write8 offset value => Sys2Proof.Machine.execWrite8 offset value s
  | .setEndpointId eid => Sys2Proof.Machine.execSetEndpointId eid s
  | .getEndpointId => Sys2Proof.Machine.execGetEndpointId s
  | .getMctpVersionSupport => Sys2Proof.Machine.execGetMctpVersionSupport s
  | .getMessageTypeSupport => Sys2Proof.Machine.execGetMessageTypeSupport s
  | .getVendorDefinedMessageSupport => Sys2Proof.Machine.execGetVendorDefinedMessageSupport s
  | .gateHangTimeout u => Sys2Proof.Machine.execGateHangTimeout u s
  | .unitFault u cause => Sys2Proof.Machine.execUnitFault u cause s
  | .hubSramUe error => Sys2Proof.Machine.execHubSramUe error s
  | .lampLineTimeout claim => Sys2Proof.Machine.execLampLineTimeout claim s
  | .watchDumpWritten claim arm => Sys2Proof.Machine.execWatchDumpWritten claim arm s
  | .keyProgram value => Sys2Proof.Machine.execKeyProgram value s
  | .keyRevoke value => Sys2Proof.Machine.execKeyRevoke value s
  | .debugRead value => Sys2Proof.Machine.execDebugRead value s
  | .jtagAttach opcode => Sys2Proof.Machine.execJtagAttach opcode s
  | .bypass => Sys2Proof.Machine.execBypass s
  | .idcode => Sys2Proof.Machine.execIdcode s
  | .extest => Sys2Proof.Machine.execExtest s
  | .samplePreload => Sys2Proof.Machine.execSamplePreload s
  | .clamp => Sys2Proof.Machine.execClamp s
  | .highz => Sys2Proof.Machine.execHighz s
  | .mgmt a => Sys2Proof.Machine.execMgmt a s
  | .lodeRead value => Sys2Proof.Machine.execLodeRead value s
  | .holdupEnd => Sys2Proof.Machine.execHoldupEnd s
  | .coolantInletReturn celsius => Sys2Proof.Machine.execCoolantInletReturn celsius s
  | .hlCreditReturn vc count => Sys2Proof.Machine.execHlCreditReturn vc count s
  | .testLogicReset => Sys2Proof.Machine.execTestLogicReset s
  | .i3cBusFree => Sys2Proof.Machine.execI3cBusFree s
  | .moduleFatalError cause u => Sys2Proof.Machine.execModuleFatalError cause u s
  | .i3cDynamicAddress addr => Sys2Proof.Machine.execI3cDynamicAddress addr s

end Sys2Proof.Machine
end

