-- ==== Sys2Proof/Safety.lean ====
section
/-! DEFINITION. What counts as a safe step, and the conditions on the state and the operands that the claims are
stated under. -/

namespace Sys2Proof.Machine

/-- A step of the block is safe where it answers a next state: no fault and no refusal. -/
def StepSafe (s : State) : Prop := ∃ t, step s = .next t

/-- A descriptor line of a claim ring whose turn in the rotation of admission has come (R356), with an opcode that the Foreman takes
(R72 to R74), read without poison and with a DVER of 1 (R77): `o` is its origin and `s1` the state once SUB_CONSUMED has advanced. -/
def LineTaken (s : State) (d : Desc) (op : Nat) (o : Origin) (s1 : State) : Prop :=
  admits s = true ∧ claimRuns s d.claim = true ∧ d.claim < 4 ∧ d.line.length = 128 ∧ d.poison = false
    ∧ byteAt d.line 0 = op ∧ byteAt d.line 1 = 1 ∧ turnOf s d.claim d.ring = true
    ∧ takeLine (takeTurn s d.claim d.ring) ⟨d.claim, false, d.ring⟩ false d.line = some (o, s1)

/-- A line taken of a RUNNING claim whose common reserved bits are 0 and whose tenant the claim maps: it passes R77,
R108 and step 3 of R99. -/
def LineAccepted (s : State) (d : Desc) (op : Nat) (o : Origin) (s1 : State) : Prop :=
  LineTaken s d op o s1 ∧ (claimOf s d.claim).st = 2 ∧ commonZero d.line = true
    ∧ tenantOk s1 d.claim o.tenant = true

/-- A descriptor line of the management ring taken, with DVER 1 and the common fields as R471 asks. -/
def MgmtAccepted (s : State) (m : MDesc) (op : Nat) (o : Origin) (s1 : State) : Prop :=
  admits s = true ∧ m.line.length = 128 ∧ m.poison = false ∧ byteAt m.line 0 = op ∧ byteAt m.line 1 = 1
    ∧ takeLine s ⟨4, false, 0⟩ false m.line = some (o, s1)
    ∧ commonZero m.line = true ∧ o.req = 0xFFFFFFFF ∧ o.tenant = 0

/-- What holds of the block at all times: companion memory is in its canonical form; there are four claims in legal states
(R45), Hoistlink and the 48 Adit links are in legal STATEs, eight key slots in legal states (R451); the log keeps at most
4,096 entries and no more than were made (R456); the lifetime counters fit their 64 bits (R449). -/
def BlockInv (s : State) : Prop :=
  hostWf s.host = true
    ∧ (s.claims.length = 4 ∧ ∀ x ∈ s.claims, x.st ≤ 3)
    ∧ s.hl.st ≤ 5
    ∧ (s.adit.links.length = 48 ∧ ∀ x ∈ s.adit.links, x.st ≤ 6)
    ∧ (s.sec.keys.length = 8 ∧ ∀ k ∈ s.sec.keys, k.st ≤ 2)
    ∧ (s.sec.log.length ≤ 4096 ∧ s.sec.log.length ≤ s.sec.logCount)
    ∧ (s.sec.bootCount < 2 ^ 64 ∧ s.sec.attaches < 2 ^ 64)

/-- What cannot be undone (R408, R449, R451): a PROGRAMMED key slot keeps its key and is PROGRAMMED or REVOKED ever after, a
REVOKED one stays as it is, the lifetime counters do not go down, and a retired unit stays retired. -/
def FusesKept (s t : State) : Prop :=
  (∀ (i : Nat) (k : KeySlot), s.sec.keys[i]? = some k → ∃ k' : KeySlot, t.sec.keys[i]? = some k'
      ∧ (k.st = 1 → k'.key = k.key ∧ (k'.st = 1 ∨ k'.st = 2)) ∧ (k.st = 2 → k' = k))
    ∧ s.sec.bootCount ≤ t.sec.bootCount ∧ s.sec.attaches ≤ t.sec.attaches
    ∧ ∀ u ∈ s.power.retired, u ∈ t.power.retired

end Sys2Proof.Machine
end

