-- ==== Sys2Proof/Laws/Data.lean ====
section
/-! SUPPORT. Laws of the plain data: sparse maps, lists by place, and saturating counts. -/

namespace Sys2Proof.Machine

variable {κ α : Type} [DecidableEq κ]

@[simp] theorem kget_nil (k : κ) : kget ([] : KMap κ α) k = none := rfl

@[simp] theorem kget_kset_self (m : KMap κ α) (k : κ) (v : α) : kget (kset m k v) k = some v := by
  induction m with
  | nil => simp [kset, kget]
  | cons p r ih =>
    obtain ⟨k', v'⟩ := p
    by_cases h : k' = k <;> simp [kset, kget, h, ih]

theorem kget_kset_ne (m : KMap κ α) {k j : κ} (v : α) (h : j ≠ k) : kget (kset m k v) j = kget m j := by
  induction m with
  | nil => simp [kset, kget, Ne.symm h]
  | cons p r ih =>
    obtain ⟨k', v'⟩ := p
    by_cases h1 : k' = k
    · subst h1; simp [kset, kget, Ne.symm h]
    · by_cases h2 : k' = j <;> simp [kset, kget, h1, h2, ih, h]

@[simp] theorem kget_kdel_self (m : KMap κ α) (k : κ) : kget (kdel m k) k = none := by
  induction m with
  | nil => rfl
  | cons p r ih =>
    obtain ⟨k', v'⟩ := p
    by_cases h : k' = k <;> simp [kdel, kget, h, ih]

theorem kget_kdel_ne (m : KMap κ α) {k j : κ} (h : j ≠ k) : kget (kdel m k) j = kget m j := by
  induction m with
  | nil => rfl
  | cons p r ih =>
    obtain ⟨k', v'⟩ := p
    by_cases h1 : k' = k
    · subst h1; simp [kdel, kget, Ne.symm h, ih]
    · by_cases h2 : k' = j <;> simp [kdel, kget, h1, h2, ih, h]

@[simp] theorem kset_kset_self (m : KMap κ α) (k : κ) (v w : α) : kset (kset m k v) k w = kset m k w := by
  induction m with
  | nil => simp [kset]
  | cons p r ih =>
    obtain ⟨k', v'⟩ := p
    by_cases h : k' = k <;> simp [kset, h, ih]

theorem kmod_of {m : KMap κ α} {k : κ} {v : α} (f : α → α) (h : kget m k = some v) : kmod m k f = kset m k (f v) := by
  simp [kmod, h]

@[simp] theorem lmod_length (l : List α) (i : Nat) (f : α → α) : (lmod l i f).length = l.length := by
  induction l generalizing i with
  | nil => simp [lmod]
  | cons a r ih => cases i <;> simp [lmod, ih]

theorem lmod_getElem? (l : List α) (i j : Nat) (f : α → α) :
    (lmod l i f)[j]? = if j = i then (l[j]?).map f else l[j]? := by
  induction l generalizing i j with
  | nil => simp [lmod]
  | cons a r ih => cases i <;> cases j <;> simp [lmod, ih]

theorem satAdd_le (w a b : Nat) : satAdd w a b ≤ 2 ^ w - 1 := Nat.min_le_left ..

end Sys2Proof.Machine
end

