-- ==== Sys2Proof/Laws/Memory.lean ====
section
/-! SUPPORT. Laws of companion memory: every write keeps the canonical form, a byte written reads back, and every
other byte reads as before. -/

namespace Sys2Proof.Machine

/-- The canonical form of a memory with a first cell. -/
theorem hostWfFrom_cons {lo : Option Nat} {a : Nat} {v : Byte} {r : List Host.Cell} :
    hostWfFrom lo ((a, v) :: r) = true ↔ (∀ l, lo = some l → l < a) ∧ v ≠ hostDefault ∧ hostWfFrom (some a) r = true := by
  cases lo <;> simp [hostWfFrom, and_assoc]

theorem hostRead_below {m : List Host.Cell} {a l : Nat} (h : hostWfFrom (some l) m = true) (ha : a ≤ l) :
    hostRead m a = hostDefault := by
  induction m generalizing l with
  | nil => rfl
  | cons p r ih =>
    obtain ⟨b, w⟩ := p
    obtain ⟨h1, -, h3⟩ := hostWfFrom_cons.1 h
    have h1 := h1 l rfl
    have hb : b ≠ a := by omega
    simp [hostRead, hb, ih h3 (by omega)]

/-- A lower bound keeps the canonical form. -/
theorem hostWfFrom_bound {m : List Host.Cell} {lo : Option Nat} {b : Nat} (h : hostWfFrom (some b) m = true)
    (hl : ∀ l, lo = some l → l < b) : hostWfFrom lo m = true := by
  cases m with
  | nil => rfl
  | cons p r =>
    obtain ⟨c, x⟩ := p
    obtain ⟨h1, h2, h3⟩ := hostWfFrom_cons.1 h
    exact hostWfFrom_cons.2 ⟨fun l e => Nat.lt_trans (hl l e) (h1 b rfl), h2, h3⟩

/-- A write keeps the canonical form. -/
theorem hostWfFrom_hostWrite {m : List Host.Cell} {lo : Option Nat} {a : Nat} {v : Byte} (h : hostWfFrom lo m = true)
    (ha : ∀ l, lo = some l → l < a) : hostWfFrom lo (hostWrite m a v) = true := by
  induction m generalizing lo with
  | nil =>
    unfold hostWrite; split
    · rfl
    · exact hostWfFrom_cons.2 ⟨ha, by assumption, rfl⟩
  | cons p r ih =>
    obtain ⟨b, w⟩ := p
    obtain ⟨h1, h2, h3⟩ := hostWfFrom_cons.1 h
    unfold hostWrite
    split
    · exact hostWfFrom_cons.2 ⟨h1, h2, ih h3 (by intro l hl; cases hl; assumption)⟩
    · split
      · rename_i he
        subst he
        split
        · exact hostWfFrom_bound h3 h1
        · exact hostWfFrom_cons.2 ⟨h1, by assumption, h3⟩
      · split
        · exact h
        · exact hostWfFrom_cons.2 ⟨ha, by assumption, hostWfFrom_cons.2 ⟨by intro l hl; cases hl; omega, h2, h3⟩⟩

theorem hostWf_hostWrite {m : List Host.Cell} {a : Nat} {v : Byte} (h : hostWf m = true) : hostWf (hostWrite m a v) = true :=
  hostWfFrom_hostWrite h (by simp)

theorem hostWf_hostWriteBytes {m : List Host.Cell} {a : Nat} {bs : List Byte} (h : hostWf m = true) :
    hostWf (hostWriteBytes m a bs) = true := by
  induction bs generalizing m a with
  | nil => exact h
  | cons b r ih => exact ih (hostWf_hostWrite h)

/-- A byte written reads back. -/
theorem hostRead_hostWrite_self {m : List Host.Cell} {lo : Option Nat} {a : Nat} {v : Byte} (h : hostWfFrom lo m = true) :
    hostRead (hostWrite m a v) a = v := by
  induction m generalizing lo with
  | nil => unfold hostWrite; split <;> simp_all [hostRead]
  | cons p r ih =>
    obtain ⟨b, w⟩ := p
    obtain ⟨h0, hd, h1⟩ := hostWfFrom_cons.1 h
    unfold hostWrite
    split
    · rename_i hlt
      have : b ≠ a := by omega
      simp [hostRead, this, ih h1]
    · split
      · split
        · rename_i he hv; subst he; rw [hv]; exact hostRead_below h1 (Nat.le_refl _)
        · simp [hostRead]
      · split
        · rename_i hn he hv
          simp [hostRead, he, hv]
          exact hostRead_below h1 (by omega)
        · simp [hostRead]

/-- A write leaves every other byte as it was. -/
theorem hostRead_hostWrite_ne {m : List Host.Cell} {a x : Nat} {v : Byte} (hx : x ≠ a) :
    hostRead (hostWrite m a v) x = hostRead m x := by
  induction m with
  | nil => unfold hostWrite; split <;> simp [hostRead, Ne.symm hx]
  | cons p r ih =>
    obtain ⟨b, w⟩ := p
    unfold hostWrite
    split
    · simp [hostRead, ih]
    · split
      · rename_i he; subst he
        split <;> simp [hostRead, Ne.symm hx]
      · split
        · rfl
        · simp [hostRead, Ne.symm hx]

/-- Bytes written leave every byte outside them as it was. -/
theorem hostRead_hostWriteBytes_out {m : List Host.Cell} {a x : Nat} {bs : List Byte}
    (hx : ∀ i, i < bs.length → x ≠ (a + i) % 2 ^ 64) : hostRead (hostWriteBytes m a bs) x = hostRead m x := by
  induction bs generalizing m a with
  | nil => rfl
  | cons b r ih =>
    unfold hostWriteBytes
    rw [ih]
    · exact hostRead_hostWrite_ne (by simpa using hx 0 (by simp))
    · intro i hi
      have := hx (i + 1) (by simpa using hi)
      rwa [show a + (i + 1) = a + 1 + i by omega] at this

/-- Bytes written read back. -/
theorem hostRead_hostWriteBytes_in {m : List Host.Cell} {a i : Nat} {bs : List Byte} (h : hostWf m = true)
    (hn : bs.length ≤ 2 ^ 64) (hi : i < bs.length) :
    hostRead (hostWriteBytes m a bs) ((a + i) % 2 ^ 64) = bs.getD i 0 := by
  induction bs generalizing m a i with
  | nil => simp at hi
  | cons b r ih =>
    unfold hostWriteBytes
    cases i with
    | zero =>
      rw [hostRead_hostWriteBytes_out]
      · simpa using hostRead_hostWrite_self (lo := none) h
      · intro j hj
        simp at hn
        omega
    | succ i =>
      have := ih (m := hostWrite m (a % 2 ^ 64) b) (a := a + 1) (i := i) (hostWf_hostWrite h) (by simp at hn; omega) (by simpa using hi)
      rw [show a + (i + 1) = a + 1 + i by omega]
      simpa using this

/-- Companion memory at reset has the canonical form. -/
theorem hostWf_reset : hostWf State.reset.host = true := rfl

end Sys2Proof.Machine
end

