-- ==== Sys2Proof/Laws/State.lean ====
section
/-! SUPPORT. What the named updates of the state change, field by field, and how a slot reads after an update. -/

namespace Sys2Proof.Machine

@[simp] theorem emit_out (s : State) (m : OutMsg) : (emit s m).out = s.out ++ [m] := rfl
@[simp] theorem putHost_host (s : State) (a : Nat) (b : List Byte) :
    (putHost s a b).host = hostWriteBytes s.host a b := rfl
@[simp] theorem modClaim_claims (s : State) (c : Nat) (f : Claim → Claim) :
    (modClaim s c f).claims = lmod s.claims c f := rfl
@[simp] theorem takeFree_freeCtr (s : State) : (takeFree s).2.freeCtr = s.freeCtr + 1 := rfl
@[simp] theorem emit_hf (s : State) (m : OutMsg) : (emit s m).hf = s.hf := rfl
@[simp] theorem emit_boot (s : State) (m : OutMsg) : (emit s m).boot = s.boot := rfl
@[simp] theorem emit_claims (s : State) (m : OutMsg) : (emit s m).claims = s.claims := rfl
@[simp] theorem emit_hl (s : State) (m : OutMsg) : (emit s m).hl = s.hl := rfl
@[simp] theorem emit_fm (s : State) (m : OutMsg) : (emit s m).fm = s.fm := rfl
@[simp] theorem emit_slots (s : State) (m : OutMsg) : (emit s m).slots = s.slots := rfl
@[simp] theorem emit_drift (s : State) (m : OutMsg) : (emit s m).drift = s.drift := rfl
@[simp] theorem emit_eng (s : State) (m : OutMsg) : (emit s m).eng = s.eng := rfl
@[simp] theorem emit_face (s : State) (m : OutMsg) : (emit s m).face = s.face := rfl
@[simp] theorem emit_store (s : State) (m : OutMsg) : (emit s m).store = s.store := rfl
@[simp] theorem emit_cage (s : State) (m : OutMsg) : (emit s m).cage = s.cage := rfl
@[simp] theorem emit_flash (s : State) (m : OutMsg) : (emit s m).flash = s.flash := rfl
@[simp] theorem emit_haul (s : State) (m : OutMsg) : (emit s m).haul = s.haul := rfl
@[simp] theorem emit_banks (s : State) (m : OutMsg) : (emit s m).banks = s.banks := rfl
@[simp] theorem emit_adit (s : State) (m : OutMsg) : (emit s m).adit = s.adit := rfl
@[simp] theorem emit_power (s : State) (m : OutMsg) : (emit s m).power = s.power := rfl
@[simp] theorem emit_watch (s : State) (m : OutMsg) : (emit s m).watch = s.watch := rfl
@[simp] theorem emit_sec (s : State) (m : OutMsg) : (emit s m).sec = s.sec := rfl
@[simp] theorem emit_cmds (s : State) (m : OutMsg) : (emit s m).cmds = s.cmds := rfl
@[simp] theorem emit_host (s : State) (m : OutMsg) : (emit s m).host = s.host := rfl
@[simp] theorem emit_freeCtr (s : State) (m : OutMsg) : (emit s m).freeCtr = s.freeCtr := rfl
@[simp] theorem emit_pending (s : State) (m : OutMsg) : (emit s m).pending = s.pending := rfl
@[simp] theorem putHost_hf (s : State) (a : Nat) (b : List Byte) : (putHost s a b).hf = s.hf := rfl
@[simp] theorem putHost_boot (s : State) (a : Nat) (b : List Byte) : (putHost s a b).boot = s.boot := rfl
@[simp] theorem putHost_claims (s : State) (a : Nat) (b : List Byte) : (putHost s a b).claims = s.claims := rfl
@[simp] theorem putHost_hl (s : State) (a : Nat) (b : List Byte) : (putHost s a b).hl = s.hl := rfl
@[simp] theorem putHost_fm (s : State) (a : Nat) (b : List Byte) : (putHost s a b).fm = s.fm := rfl
@[simp] theorem putHost_slots (s : State) (a : Nat) (b : List Byte) : (putHost s a b).slots = s.slots := rfl
@[simp] theorem putHost_drift (s : State) (a : Nat) (b : List Byte) : (putHost s a b).drift = s.drift := rfl
@[simp] theorem putHost_eng (s : State) (a : Nat) (b : List Byte) : (putHost s a b).eng = s.eng := rfl
@[simp] theorem putHost_face (s : State) (a : Nat) (b : List Byte) : (putHost s a b).face = s.face := rfl
@[simp] theorem putHost_store (s : State) (a : Nat) (b : List Byte) : (putHost s a b).store = s.store := rfl
@[simp] theorem putHost_cage (s : State) (a : Nat) (b : List Byte) : (putHost s a b).cage = s.cage := rfl
@[simp] theorem putHost_flash (s : State) (a : Nat) (b : List Byte) : (putHost s a b).flash = s.flash := rfl
@[simp] theorem putHost_haul (s : State) (a : Nat) (b : List Byte) : (putHost s a b).haul = s.haul := rfl
@[simp] theorem putHost_banks (s : State) (a : Nat) (b : List Byte) : (putHost s a b).banks = s.banks := rfl
@[simp] theorem putHost_adit (s : State) (a : Nat) (b : List Byte) : (putHost s a b).adit = s.adit := rfl
@[simp] theorem putHost_power (s : State) (a : Nat) (b : List Byte) : (putHost s a b).power = s.power := rfl
@[simp] theorem putHost_watch (s : State) (a : Nat) (b : List Byte) : (putHost s a b).watch = s.watch := rfl
@[simp] theorem putHost_sec (s : State) (a : Nat) (b : List Byte) : (putHost s a b).sec = s.sec := rfl
@[simp] theorem putHost_cmds (s : State) (a : Nat) (b : List Byte) : (putHost s a b).cmds = s.cmds := rfl
@[simp] theorem putHost_out (s : State) (a : Nat) (b : List Byte) : (putHost s a b).out = s.out := rfl
@[simp] theorem putHost_freeCtr (s : State) (a : Nat) (b : List Byte) : (putHost s a b).freeCtr = s.freeCtr := rfl
@[simp] theorem putHost_pending (s : State) (a : Nat) (b : List Byte) : (putHost s a b).pending = s.pending := rfl
@[simp] theorem modClaim_hf (s : State) (c : Nat) (f : Claim → Claim) : (modClaim s c f).hf = s.hf := rfl
@[simp] theorem modClaim_boot (s : State) (c : Nat) (f : Claim → Claim) : (modClaim s c f).boot = s.boot := rfl
@[simp] theorem modClaim_hl (s : State) (c : Nat) (f : Claim → Claim) : (modClaim s c f).hl = s.hl := rfl
@[simp] theorem modClaim_fm (s : State) (c : Nat) (f : Claim → Claim) : (modClaim s c f).fm = s.fm := rfl
@[simp] theorem modClaim_slots (s : State) (c : Nat) (f : Claim → Claim) : (modClaim s c f).slots = s.slots := rfl
@[simp] theorem modClaim_drift (s : State) (c : Nat) (f : Claim → Claim) : (modClaim s c f).drift = s.drift := rfl
@[simp] theorem modClaim_eng (s : State) (c : Nat) (f : Claim → Claim) : (modClaim s c f).eng = s.eng := rfl
@[simp] theorem modClaim_face (s : State) (c : Nat) (f : Claim → Claim) : (modClaim s c f).face = s.face := rfl
@[simp] theorem modClaim_store (s : State) (c : Nat) (f : Claim → Claim) : (modClaim s c f).store = s.store := rfl
@[simp] theorem modClaim_cage (s : State) (c : Nat) (f : Claim → Claim) : (modClaim s c f).cage = s.cage := rfl
@[simp] theorem modClaim_flash (s : State) (c : Nat) (f : Claim → Claim) : (modClaim s c f).flash = s.flash := rfl
@[simp] theorem modClaim_haul (s : State) (c : Nat) (f : Claim → Claim) : (modClaim s c f).haul = s.haul := rfl
@[simp] theorem modClaim_banks (s : State) (c : Nat) (f : Claim → Claim) : (modClaim s c f).banks = s.banks := rfl
@[simp] theorem modClaim_adit (s : State) (c : Nat) (f : Claim → Claim) : (modClaim s c f).adit = s.adit := rfl
@[simp] theorem modClaim_power (s : State) (c : Nat) (f : Claim → Claim) : (modClaim s c f).power = s.power := rfl
@[simp] theorem modClaim_watch (s : State) (c : Nat) (f : Claim → Claim) : (modClaim s c f).watch = s.watch := rfl
@[simp] theorem modClaim_sec (s : State) (c : Nat) (f : Claim → Claim) : (modClaim s c f).sec = s.sec := rfl
@[simp] theorem modClaim_cmds (s : State) (c : Nat) (f : Claim → Claim) : (modClaim s c f).cmds = s.cmds := rfl
@[simp] theorem modClaim_host (s : State) (c : Nat) (f : Claim → Claim) : (modClaim s c f).host = s.host := rfl
@[simp] theorem modClaim_out (s : State) (c : Nat) (f : Claim → Claim) : (modClaim s c f).out = s.out := rfl
@[simp] theorem modClaim_freeCtr (s : State) (c : Nat) (f : Claim → Claim) : (modClaim s c f).freeCtr = s.freeCtr := rfl
@[simp] theorem modClaim_pending (s : State) (c : Nat) (f : Claim → Claim) : (modClaim s c f).pending = s.pending := rfl
@[simp] theorem setSlot_hf (s : State) (n : Nat) (v : Slot) : (setSlot s n v).hf = s.hf := rfl
@[simp] theorem setSlot_boot (s : State) (n : Nat) (v : Slot) : (setSlot s n v).boot = s.boot := rfl
@[simp] theorem setSlot_claims (s : State) (n : Nat) (v : Slot) : (setSlot s n v).claims = s.claims := rfl
@[simp] theorem setSlot_hl (s : State) (n : Nat) (v : Slot) : (setSlot s n v).hl = s.hl := rfl
@[simp] theorem setSlot_fm (s : State) (n : Nat) (v : Slot) : (setSlot s n v).fm = s.fm := rfl
@[simp] theorem setSlot_drift (s : State) (n : Nat) (v : Slot) : (setSlot s n v).drift = s.drift := rfl
@[simp] theorem setSlot_eng (s : State) (n : Nat) (v : Slot) : (setSlot s n v).eng = s.eng := rfl
@[simp] theorem setSlot_face (s : State) (n : Nat) (v : Slot) : (setSlot s n v).face = s.face := rfl
@[simp] theorem setSlot_store (s : State) (n : Nat) (v : Slot) : (setSlot s n v).store = s.store := rfl
@[simp] theorem setSlot_cage (s : State) (n : Nat) (v : Slot) : (setSlot s n v).cage = s.cage := rfl
@[simp] theorem setSlot_flash (s : State) (n : Nat) (v : Slot) : (setSlot s n v).flash = s.flash := rfl
@[simp] theorem setSlot_haul (s : State) (n : Nat) (v : Slot) : (setSlot s n v).haul = s.haul := rfl
@[simp] theorem setSlot_banks (s : State) (n : Nat) (v : Slot) : (setSlot s n v).banks = s.banks := rfl
@[simp] theorem setSlot_adit (s : State) (n : Nat) (v : Slot) : (setSlot s n v).adit = s.adit := rfl
@[simp] theorem setSlot_power (s : State) (n : Nat) (v : Slot) : (setSlot s n v).power = s.power := rfl
@[simp] theorem setSlot_watch (s : State) (n : Nat) (v : Slot) : (setSlot s n v).watch = s.watch := rfl
@[simp] theorem setSlot_sec (s : State) (n : Nat) (v : Slot) : (setSlot s n v).sec = s.sec := rfl
@[simp] theorem setSlot_cmds (s : State) (n : Nat) (v : Slot) : (setSlot s n v).cmds = s.cmds := rfl
@[simp] theorem setSlot_host (s : State) (n : Nat) (v : Slot) : (setSlot s n v).host = s.host := rfl
@[simp] theorem setSlot_out (s : State) (n : Nat) (v : Slot) : (setSlot s n v).out = s.out := rfl
@[simp] theorem setSlot_freeCtr (s : State) (n : Nat) (v : Slot) : (setSlot s n v).freeCtr = s.freeCtr := rfl
@[simp] theorem setSlot_pending (s : State) (n : Nat) (v : Slot) : (setSlot s n v).pending = s.pending := rfl
@[simp] theorem modRing_hf (s : State) (r : RingId) (f : Ring → Ring) : (modRing s r f).hf = s.hf := rfl
@[simp] theorem modRing_boot (s : State) (r : RingId) (f : Ring → Ring) : (modRing s r f).boot = s.boot := rfl
@[simp] theorem modRing_claims (s : State) (r : RingId) (f : Ring → Ring) : (modRing s r f).claims = s.claims := rfl
@[simp] theorem modRing_fm (s : State) (r : RingId) (f : Ring → Ring) : (modRing s r f).fm = s.fm := rfl
@[simp] theorem modRing_slots (s : State) (r : RingId) (f : Ring → Ring) : (modRing s r f).slots = s.slots := rfl
@[simp] theorem modRing_drift (s : State) (r : RingId) (f : Ring → Ring) : (modRing s r f).drift = s.drift := rfl
@[simp] theorem modRing_eng (s : State) (r : RingId) (f : Ring → Ring) : (modRing s r f).eng = s.eng := rfl
@[simp] theorem modRing_face (s : State) (r : RingId) (f : Ring → Ring) : (modRing s r f).face = s.face := rfl
@[simp] theorem modRing_store (s : State) (r : RingId) (f : Ring → Ring) : (modRing s r f).store = s.store := rfl
@[simp] theorem modRing_cage (s : State) (r : RingId) (f : Ring → Ring) : (modRing s r f).cage = s.cage := rfl
@[simp] theorem modRing_flash (s : State) (r : RingId) (f : Ring → Ring) : (modRing s r f).flash = s.flash := rfl
@[simp] theorem modRing_haul (s : State) (r : RingId) (f : Ring → Ring) : (modRing s r f).haul = s.haul := rfl
@[simp] theorem modRing_banks (s : State) (r : RingId) (f : Ring → Ring) : (modRing s r f).banks = s.banks := rfl
@[simp] theorem modRing_adit (s : State) (r : RingId) (f : Ring → Ring) : (modRing s r f).adit = s.adit := rfl
@[simp] theorem modRing_power (s : State) (r : RingId) (f : Ring → Ring) : (modRing s r f).power = s.power := rfl
@[simp] theorem modRing_watch (s : State) (r : RingId) (f : Ring → Ring) : (modRing s r f).watch = s.watch := rfl
@[simp] theorem modRing_sec (s : State) (r : RingId) (f : Ring → Ring) : (modRing s r f).sec = s.sec := rfl
@[simp] theorem modRing_cmds (s : State) (r : RingId) (f : Ring → Ring) : (modRing s r f).cmds = s.cmds := rfl
@[simp] theorem modRing_host (s : State) (r : RingId) (f : Ring → Ring) : (modRing s r f).host = s.host := rfl
@[simp] theorem modRing_out (s : State) (r : RingId) (f : Ring → Ring) : (modRing s r f).out = s.out := rfl
@[simp] theorem modRing_freeCtr (s : State) (r : RingId) (f : Ring → Ring) : (modRing s r f).freeCtr = s.freeCtr := rfl
@[simp] theorem modRing_pending (s : State) (r : RingId) (f : Ring → Ring) : (modRing s r f).pending = s.pending := rfl
@[simp] theorem modGang_hf (s : State) (c : Nat) (f : GangState → GangState) : (modGang s c f).hf = s.hf := rfl
@[simp] theorem modGang_boot (s : State) (c : Nat) (f : GangState → GangState) : (modGang s c f).boot = s.boot := rfl
@[simp] theorem modGang_claims (s : State) (c : Nat) (f : GangState → GangState) : (modGang s c f).claims = s.claims := rfl
@[simp] theorem modGang_hl (s : State) (c : Nat) (f : GangState → GangState) : (modGang s c f).hl = s.hl := rfl
@[simp] theorem modGang_fm (s : State) (c : Nat) (f : GangState → GangState) : (modGang s c f).fm = s.fm := rfl
@[simp] theorem modGang_slots (s : State) (c : Nat) (f : GangState → GangState) : (modGang s c f).slots = s.slots := rfl
@[simp] theorem modGang_drift (s : State) (c : Nat) (f : GangState → GangState) : (modGang s c f).drift = s.drift := rfl
@[simp] theorem modGang_eng (s : State) (c : Nat) (f : GangState → GangState) : (modGang s c f).eng = s.eng := rfl
@[simp] theorem modGang_face (s : State) (c : Nat) (f : GangState → GangState) : (modGang s c f).face = s.face := rfl
@[simp] theorem modGang_store (s : State) (c : Nat) (f : GangState → GangState) : (modGang s c f).store = s.store := rfl
@[simp] theorem modGang_cage (s : State) (c : Nat) (f : GangState → GangState) : (modGang s c f).cage = s.cage := rfl
@[simp] theorem modGang_flash (s : State) (c : Nat) (f : GangState → GangState) : (modGang s c f).flash = s.flash := rfl
@[simp] theorem modGang_haul (s : State) (c : Nat) (f : GangState → GangState) : (modGang s c f).haul = s.haul := rfl
@[simp] theorem modGang_banks (s : State) (c : Nat) (f : GangState → GangState) : (modGang s c f).banks = s.banks := rfl
@[simp] theorem modGang_power (s : State) (c : Nat) (f : GangState → GangState) : (modGang s c f).power = s.power := rfl
@[simp] theorem modGang_watch (s : State) (c : Nat) (f : GangState → GangState) : (modGang s c f).watch = s.watch := rfl
@[simp] theorem modGang_sec (s : State) (c : Nat) (f : GangState → GangState) : (modGang s c f).sec = s.sec := rfl
@[simp] theorem modGang_cmds (s : State) (c : Nat) (f : GangState → GangState) : (modGang s c f).cmds = s.cmds := rfl
@[simp] theorem modGang_host (s : State) (c : Nat) (f : GangState → GangState) : (modGang s c f).host = s.host := rfl
@[simp] theorem modGang_out (s : State) (c : Nat) (f : GangState → GangState) : (modGang s c f).out = s.out := rfl
@[simp] theorem modGang_freeCtr (s : State) (c : Nat) (f : GangState → GangState) : (modGang s c f).freeCtr = s.freeCtr := rfl
@[simp] theorem modGang_pending (s : State) (c : Nat) (f : GangState → GangState) : (modGang s c f).pending = s.pending := rfl
@[simp] theorem modLink_hf (s : State) (l : Nat) (f : AditLink → AditLink) : (modLink s l f).hf = s.hf := rfl
@[simp] theorem modLink_boot (s : State) (l : Nat) (f : AditLink → AditLink) : (modLink s l f).boot = s.boot := rfl
@[simp] theorem modLink_claims (s : State) (l : Nat) (f : AditLink → AditLink) : (modLink s l f).claims = s.claims := rfl
@[simp] theorem modLink_hl (s : State) (l : Nat) (f : AditLink → AditLink) : (modLink s l f).hl = s.hl := rfl
@[simp] theorem modLink_fm (s : State) (l : Nat) (f : AditLink → AditLink) : (modLink s l f).fm = s.fm := rfl
@[simp] theorem modLink_slots (s : State) (l : Nat) (f : AditLink → AditLink) : (modLink s l f).slots = s.slots := rfl
@[simp] theorem modLink_drift (s : State) (l : Nat) (f : AditLink → AditLink) : (modLink s l f).drift = s.drift := rfl
@[simp] theorem modLink_eng (s : State) (l : Nat) (f : AditLink → AditLink) : (modLink s l f).eng = s.eng := rfl
@[simp] theorem modLink_face (s : State) (l : Nat) (f : AditLink → AditLink) : (modLink s l f).face = s.face := rfl
@[simp] theorem modLink_store (s : State) (l : Nat) (f : AditLink → AditLink) : (modLink s l f).store = s.store := rfl
@[simp] theorem modLink_cage (s : State) (l : Nat) (f : AditLink → AditLink) : (modLink s l f).cage = s.cage := rfl
@[simp] theorem modLink_flash (s : State) (l : Nat) (f : AditLink → AditLink) : (modLink s l f).flash = s.flash := rfl
@[simp] theorem modLink_haul (s : State) (l : Nat) (f : AditLink → AditLink) : (modLink s l f).haul = s.haul := rfl
@[simp] theorem modLink_banks (s : State) (l : Nat) (f : AditLink → AditLink) : (modLink s l f).banks = s.banks := rfl
@[simp] theorem modLink_power (s : State) (l : Nat) (f : AditLink → AditLink) : (modLink s l f).power = s.power := rfl
@[simp] theorem modLink_watch (s : State) (l : Nat) (f : AditLink → AditLink) : (modLink s l f).watch = s.watch := rfl
@[simp] theorem modLink_sec (s : State) (l : Nat) (f : AditLink → AditLink) : (modLink s l f).sec = s.sec := rfl
@[simp] theorem modLink_cmds (s : State) (l : Nat) (f : AditLink → AditLink) : (modLink s l f).cmds = s.cmds := rfl
@[simp] theorem modLink_host (s : State) (l : Nat) (f : AditLink → AditLink) : (modLink s l f).host = s.host := rfl
@[simp] theorem modLink_out (s : State) (l : Nat) (f : AditLink → AditLink) : (modLink s l f).out = s.out := rfl
@[simp] theorem modLink_freeCtr (s : State) (l : Nat) (f : AditLink → AditLink) : (modLink s l f).freeCtr = s.freeCtr := rfl
@[simp] theorem modLink_pending (s : State) (l : Nat) (f : AditLink → AditLink) : (modLink s l f).pending = s.pending := rfl
@[simp] theorem dropPages_hf (s : State) (p : PageKey → Bool) : (dropPages s p).hf = s.hf := rfl
@[simp] theorem dropPages_boot (s : State) (p : PageKey → Bool) : (dropPages s p).boot = s.boot := rfl
@[simp] theorem dropPages_claims (s : State) (p : PageKey → Bool) : (dropPages s p).claims = s.claims := rfl
@[simp] theorem dropPages_hl (s : State) (p : PageKey → Bool) : (dropPages s p).hl = s.hl := rfl
@[simp] theorem dropPages_fm (s : State) (p : PageKey → Bool) : (dropPages s p).fm = s.fm := rfl
@[simp] theorem dropPages_slots (s : State) (p : PageKey → Bool) : (dropPages s p).slots = s.slots := rfl
@[simp] theorem dropPages_drift (s : State) (p : PageKey → Bool) : (dropPages s p).drift = s.drift := rfl
@[simp] theorem dropPages_eng (s : State) (p : PageKey → Bool) : (dropPages s p).eng = s.eng := rfl
@[simp] theorem dropPages_face (s : State) (p : PageKey → Bool) : (dropPages s p).face = s.face := rfl
@[simp] theorem dropPages_store (s : State) (p : PageKey → Bool) : (dropPages s p).store = s.store := rfl
@[simp] theorem dropPages_flash (s : State) (p : PageKey → Bool) : (dropPages s p).flash = s.flash := rfl
@[simp] theorem dropPages_haul (s : State) (p : PageKey → Bool) : (dropPages s p).haul = s.haul := rfl
@[simp] theorem dropPages_banks (s : State) (p : PageKey → Bool) : (dropPages s p).banks = s.banks := rfl
@[simp] theorem dropPages_adit (s : State) (p : PageKey → Bool) : (dropPages s p).adit = s.adit := rfl
@[simp] theorem dropPages_power (s : State) (p : PageKey → Bool) : (dropPages s p).power = s.power := rfl
@[simp] theorem dropPages_watch (s : State) (p : PageKey → Bool) : (dropPages s p).watch = s.watch := rfl
@[simp] theorem dropPages_sec (s : State) (p : PageKey → Bool) : (dropPages s p).sec = s.sec := rfl
@[simp] theorem dropPages_cmds (s : State) (p : PageKey → Bool) : (dropPages s p).cmds = s.cmds := rfl
@[simp] theorem dropPages_host (s : State) (p : PageKey → Bool) : (dropPages s p).host = s.host := rfl
@[simp] theorem dropPages_out (s : State) (p : PageKey → Bool) : (dropPages s p).out = s.out := rfl
@[simp] theorem dropPages_freeCtr (s : State) (p : PageKey → Bool) : (dropPages s p).freeCtr = s.freeCtr := rfl
@[simp] theorem dropPages_pending (s : State) (p : PageKey → Bool) : (dropPages s p).pending = s.pending := rfl
@[simp] theorem modPages_hf (s : State) (p : PageKey → Bool) (f : Page → Page) : (modPages s p f).hf = s.hf := rfl
@[simp] theorem modPages_boot (s : State) (p : PageKey → Bool) (f : Page → Page) : (modPages s p f).boot = s.boot := rfl
@[simp] theorem modPages_claims (s : State) (p : PageKey → Bool) (f : Page → Page) : (modPages s p f).claims = s.claims := rfl
@[simp] theorem modPages_hl (s : State) (p : PageKey → Bool) (f : Page → Page) : (modPages s p f).hl = s.hl := rfl
@[simp] theorem modPages_fm (s : State) (p : PageKey → Bool) (f : Page → Page) : (modPages s p f).fm = s.fm := rfl
@[simp] theorem modPages_slots (s : State) (p : PageKey → Bool) (f : Page → Page) : (modPages s p f).slots = s.slots := rfl
@[simp] theorem modPages_drift (s : State) (p : PageKey → Bool) (f : Page → Page) : (modPages s p f).drift = s.drift := rfl
@[simp] theorem modPages_eng (s : State) (p : PageKey → Bool) (f : Page → Page) : (modPages s p f).eng = s.eng := rfl
@[simp] theorem modPages_face (s : State) (p : PageKey → Bool) (f : Page → Page) : (modPages s p f).face = s.face := rfl
@[simp] theorem modPages_store (s : State) (p : PageKey → Bool) (f : Page → Page) : (modPages s p f).store = s.store := rfl
@[simp] theorem modPages_flash (s : State) (p : PageKey → Bool) (f : Page → Page) : (modPages s p f).flash = s.flash := rfl
@[simp] theorem modPages_haul (s : State) (p : PageKey → Bool) (f : Page → Page) : (modPages s p f).haul = s.haul := rfl
@[simp] theorem modPages_banks (s : State) (p : PageKey → Bool) (f : Page → Page) : (modPages s p f).banks = s.banks := rfl
@[simp] theorem modPages_adit (s : State) (p : PageKey → Bool) (f : Page → Page) : (modPages s p f).adit = s.adit := rfl
@[simp] theorem modPages_power (s : State) (p : PageKey → Bool) (f : Page → Page) : (modPages s p f).power = s.power := rfl
@[simp] theorem modPages_watch (s : State) (p : PageKey → Bool) (f : Page → Page) : (modPages s p f).watch = s.watch := rfl
@[simp] theorem modPages_sec (s : State) (p : PageKey → Bool) (f : Page → Page) : (modPages s p f).sec = s.sec := rfl
@[simp] theorem modPages_cmds (s : State) (p : PageKey → Bool) (f : Page → Page) : (modPages s p f).cmds = s.cmds := rfl
@[simp] theorem modPages_host (s : State) (p : PageKey → Bool) (f : Page → Page) : (modPages s p f).host = s.host := rfl
@[simp] theorem modPages_out (s : State) (p : PageKey → Bool) (f : Page → Page) : (modPages s p f).out = s.out := rfl
@[simp] theorem modPages_freeCtr (s : State) (p : PageKey → Bool) (f : Page → Page) : (modPages s p f).freeCtr = s.freeCtr := rfl
@[simp] theorem modPages_pending (s : State) (p : PageKey → Bool) (f : Page → Page) : (modPages s p f).pending = s.pending := rfl
@[simp] theorem setRingCode_hf (s : State) (c : Nat) : (setRingCode s c).hf = s.hf := rfl
@[simp] theorem setRingCode_boot (s : State) (c : Nat) : (setRingCode s c).boot = s.boot := rfl
@[simp] theorem setRingCode_claims (s : State) (c : Nat) : (setRingCode s c).claims = s.claims := rfl
@[simp] theorem setRingCode_fm (s : State) (c : Nat) : (setRingCode s c).fm = s.fm := rfl
@[simp] theorem setRingCode_slots (s : State) (c : Nat) : (setRingCode s c).slots = s.slots := rfl
@[simp] theorem setRingCode_drift (s : State) (c : Nat) : (setRingCode s c).drift = s.drift := rfl
@[simp] theorem setRingCode_eng (s : State) (c : Nat) : (setRingCode s c).eng = s.eng := rfl
@[simp] theorem setRingCode_face (s : State) (c : Nat) : (setRingCode s c).face = s.face := rfl
@[simp] theorem setRingCode_store (s : State) (c : Nat) : (setRingCode s c).store = s.store := rfl
@[simp] theorem setRingCode_cage (s : State) (c : Nat) : (setRingCode s c).cage = s.cage := rfl
@[simp] theorem setRingCode_flash (s : State) (c : Nat) : (setRingCode s c).flash = s.flash := rfl
@[simp] theorem setRingCode_haul (s : State) (c : Nat) : (setRingCode s c).haul = s.haul := rfl
@[simp] theorem setRingCode_banks (s : State) (c : Nat) : (setRingCode s c).banks = s.banks := rfl
@[simp] theorem setRingCode_adit (s : State) (c : Nat) : (setRingCode s c).adit = s.adit := rfl
@[simp] theorem setRingCode_power (s : State) (c : Nat) : (setRingCode s c).power = s.power := rfl
@[simp] theorem setRingCode_watch (s : State) (c : Nat) : (setRingCode s c).watch = s.watch := rfl
@[simp] theorem setRingCode_sec (s : State) (c : Nat) : (setRingCode s c).sec = s.sec := rfl
@[simp] theorem setRingCode_cmds (s : State) (c : Nat) : (setRingCode s c).cmds = s.cmds := rfl
@[simp] theorem setRingCode_host (s : State) (c : Nat) : (setRingCode s c).host = s.host := rfl
@[simp] theorem setRingCode_out (s : State) (c : Nat) : (setRingCode s c).out = s.out := rfl
@[simp] theorem setRingCode_freeCtr (s : State) (c : Nat) : (setRingCode s c).freeCtr = s.freeCtr := rfl
@[simp] theorem setRingCode_pending (s : State) (c : Nat) : (setRingCode s c).pending = s.pending := rfl
@[simp] theorem modVc_hf (s : State) (vc : Nat) (f : Credits → Credits) : (modVc s vc f).hf = s.hf := rfl
@[simp] theorem modVc_boot (s : State) (vc : Nat) (f : Credits → Credits) : (modVc s vc f).boot = s.boot := rfl
@[simp] theorem modVc_claims (s : State) (vc : Nat) (f : Credits → Credits) : (modVc s vc f).claims = s.claims := rfl
@[simp] theorem modVc_fm (s : State) (vc : Nat) (f : Credits → Credits) : (modVc s vc f).fm = s.fm := rfl
@[simp] theorem modVc_slots (s : State) (vc : Nat) (f : Credits → Credits) : (modVc s vc f).slots = s.slots := rfl
@[simp] theorem modVc_drift (s : State) (vc : Nat) (f : Credits → Credits) : (modVc s vc f).drift = s.drift := rfl
@[simp] theorem modVc_eng (s : State) (vc : Nat) (f : Credits → Credits) : (modVc s vc f).eng = s.eng := rfl
@[simp] theorem modVc_face (s : State) (vc : Nat) (f : Credits → Credits) : (modVc s vc f).face = s.face := rfl
@[simp] theorem modVc_store (s : State) (vc : Nat) (f : Credits → Credits) : (modVc s vc f).store = s.store := rfl
@[simp] theorem modVc_cage (s : State) (vc : Nat) (f : Credits → Credits) : (modVc s vc f).cage = s.cage := rfl
@[simp] theorem modVc_flash (s : State) (vc : Nat) (f : Credits → Credits) : (modVc s vc f).flash = s.flash := rfl
@[simp] theorem modVc_haul (s : State) (vc : Nat) (f : Credits → Credits) : (modVc s vc f).haul = s.haul := rfl
@[simp] theorem modVc_banks (s : State) (vc : Nat) (f : Credits → Credits) : (modVc s vc f).banks = s.banks := rfl
@[simp] theorem modVc_adit (s : State) (vc : Nat) (f : Credits → Credits) : (modVc s vc f).adit = s.adit := rfl
@[simp] theorem modVc_power (s : State) (vc : Nat) (f : Credits → Credits) : (modVc s vc f).power = s.power := rfl
@[simp] theorem modVc_watch (s : State) (vc : Nat) (f : Credits → Credits) : (modVc s vc f).watch = s.watch := rfl
@[simp] theorem modVc_sec (s : State) (vc : Nat) (f : Credits → Credits) : (modVc s vc f).sec = s.sec := rfl
@[simp] theorem modVc_cmds (s : State) (vc : Nat) (f : Credits → Credits) : (modVc s vc f).cmds = s.cmds := rfl
@[simp] theorem modVc_host (s : State) (vc : Nat) (f : Credits → Credits) : (modVc s vc f).host = s.host := rfl
@[simp] theorem modVc_out (s : State) (vc : Nat) (f : Credits → Credits) : (modVc s vc f).out = s.out := rfl
@[simp] theorem modVc_freeCtr (s : State) (vc : Nat) (f : Credits → Credits) : (modVc s vc f).freeCtr = s.freeCtr := rfl
@[simp] theorem modVc_pending (s : State) (vc : Nat) (f : Credits → Credits) : (modVc s vc f).pending = s.pending := rfl
@[simp] theorem hlUse_hf (s : State) (vc c : Nat) : (hlUse s vc c).hf = s.hf := rfl
@[simp] theorem hlUse_boot (s : State) (vc c : Nat) : (hlUse s vc c).boot = s.boot := rfl
@[simp] theorem hlUse_claims (s : State) (vc c : Nat) : (hlUse s vc c).claims = s.claims := rfl
@[simp] theorem hlUse_fm (s : State) (vc c : Nat) : (hlUse s vc c).fm = s.fm := rfl
@[simp] theorem hlUse_slots (s : State) (vc c : Nat) : (hlUse s vc c).slots = s.slots := rfl
@[simp] theorem hlUse_drift (s : State) (vc c : Nat) : (hlUse s vc c).drift = s.drift := rfl
@[simp] theorem hlUse_eng (s : State) (vc c : Nat) : (hlUse s vc c).eng = s.eng := rfl
@[simp] theorem hlUse_face (s : State) (vc c : Nat) : (hlUse s vc c).face = s.face := rfl
@[simp] theorem hlUse_store (s : State) (vc c : Nat) : (hlUse s vc c).store = s.store := rfl
@[simp] theorem hlUse_cage (s : State) (vc c : Nat) : (hlUse s vc c).cage = s.cage := rfl
@[simp] theorem hlUse_flash (s : State) (vc c : Nat) : (hlUse s vc c).flash = s.flash := rfl
@[simp] theorem hlUse_haul (s : State) (vc c : Nat) : (hlUse s vc c).haul = s.haul := rfl
@[simp] theorem hlUse_banks (s : State) (vc c : Nat) : (hlUse s vc c).banks = s.banks := rfl
@[simp] theorem hlUse_adit (s : State) (vc c : Nat) : (hlUse s vc c).adit = s.adit := rfl
@[simp] theorem hlUse_power (s : State) (vc c : Nat) : (hlUse s vc c).power = s.power := rfl
@[simp] theorem hlUse_watch (s : State) (vc c : Nat) : (hlUse s vc c).watch = s.watch := rfl
@[simp] theorem hlUse_sec (s : State) (vc c : Nat) : (hlUse s vc c).sec = s.sec := rfl
@[simp] theorem hlUse_cmds (s : State) (vc c : Nat) : (hlUse s vc c).cmds = s.cmds := rfl
@[simp] theorem hlUse_host (s : State) (vc c : Nat) : (hlUse s vc c).host = s.host := rfl
@[simp] theorem hlUse_out (s : State) (vc c : Nat) : (hlUse s vc c).out = s.out := rfl
@[simp] theorem hlUse_freeCtr (s : State) (vc c : Nat) : (hlUse s vc c).freeCtr = s.freeCtr := rfl
@[simp] theorem hlUse_pending (s : State) (vc c : Nat) : (hlUse s vc c).pending = s.pending := rfl
@[simp] theorem hlGot_hf (s : State) (vc n : Nat) : (hlGot s vc n).hf = s.hf := rfl
@[simp] theorem hlGot_boot (s : State) (vc n : Nat) : (hlGot s vc n).boot = s.boot := rfl
@[simp] theorem hlGot_claims (s : State) (vc n : Nat) : (hlGot s vc n).claims = s.claims := rfl
@[simp] theorem hlGot_fm (s : State) (vc n : Nat) : (hlGot s vc n).fm = s.fm := rfl
@[simp] theorem hlGot_slots (s : State) (vc n : Nat) : (hlGot s vc n).slots = s.slots := rfl
@[simp] theorem hlGot_drift (s : State) (vc n : Nat) : (hlGot s vc n).drift = s.drift := rfl
@[simp] theorem hlGot_eng (s : State) (vc n : Nat) : (hlGot s vc n).eng = s.eng := rfl
@[simp] theorem hlGot_face (s : State) (vc n : Nat) : (hlGot s vc n).face = s.face := rfl
@[simp] theorem hlGot_store (s : State) (vc n : Nat) : (hlGot s vc n).store = s.store := rfl
@[simp] theorem hlGot_cage (s : State) (vc n : Nat) : (hlGot s vc n).cage = s.cage := rfl
@[simp] theorem hlGot_flash (s : State) (vc n : Nat) : (hlGot s vc n).flash = s.flash := rfl
@[simp] theorem hlGot_haul (s : State) (vc n : Nat) : (hlGot s vc n).haul = s.haul := rfl
@[simp] theorem hlGot_banks (s : State) (vc n : Nat) : (hlGot s vc n).banks = s.banks := rfl
@[simp] theorem hlGot_adit (s : State) (vc n : Nat) : (hlGot s vc n).adit = s.adit := rfl
@[simp] theorem hlGot_power (s : State) (vc n : Nat) : (hlGot s vc n).power = s.power := rfl
@[simp] theorem hlGot_watch (s : State) (vc n : Nat) : (hlGot s vc n).watch = s.watch := rfl
@[simp] theorem hlGot_sec (s : State) (vc n : Nat) : (hlGot s vc n).sec = s.sec := rfl
@[simp] theorem hlGot_cmds (s : State) (vc n : Nat) : (hlGot s vc n).cmds = s.cmds := rfl
@[simp] theorem hlGot_host (s : State) (vc n : Nat) : (hlGot s vc n).host = s.host := rfl
@[simp] theorem hlGot_out (s : State) (vc n : Nat) : (hlGot s vc n).out = s.out := rfl
@[simp] theorem hlGot_freeCtr (s : State) (vc n : Nat) : (hlGot s vc n).freeCtr = s.freeCtr := rfl
@[simp] theorem hlGot_pending (s : State) (vc n : Nat) : (hlGot s vc n).pending = s.pending := rfl
@[simp] theorem takeTurn_hf (s : State) (c r : Nat) : (takeTurn s c r).hf = s.hf := rfl
@[simp] theorem takeTurn_boot (s : State) (c r : Nat) : (takeTurn s c r).boot = s.boot := rfl
@[simp] theorem takeTurn_claims (s : State) (c r : Nat) : (takeTurn s c r).claims = s.claims := rfl
@[simp] theorem takeTurn_hl (s : State) (c r : Nat) : (takeTurn s c r).hl = s.hl := rfl
@[simp] theorem takeTurn_slots (s : State) (c r : Nat) : (takeTurn s c r).slots = s.slots := rfl
@[simp] theorem takeTurn_drift (s : State) (c r : Nat) : (takeTurn s c r).drift = s.drift := rfl
@[simp] theorem takeTurn_eng (s : State) (c r : Nat) : (takeTurn s c r).eng = s.eng := rfl
@[simp] theorem takeTurn_face (s : State) (c r : Nat) : (takeTurn s c r).face = s.face := rfl
@[simp] theorem takeTurn_store (s : State) (c r : Nat) : (takeTurn s c r).store = s.store := rfl
@[simp] theorem takeTurn_cage (s : State) (c r : Nat) : (takeTurn s c r).cage = s.cage := rfl
@[simp] theorem takeTurn_flash (s : State) (c r : Nat) : (takeTurn s c r).flash = s.flash := rfl
@[simp] theorem takeTurn_haul (s : State) (c r : Nat) : (takeTurn s c r).haul = s.haul := rfl
@[simp] theorem takeTurn_banks (s : State) (c r : Nat) : (takeTurn s c r).banks = s.banks := rfl
@[simp] theorem takeTurn_adit (s : State) (c r : Nat) : (takeTurn s c r).adit = s.adit := rfl
@[simp] theorem takeTurn_power (s : State) (c r : Nat) : (takeTurn s c r).power = s.power := rfl
@[simp] theorem takeTurn_watch (s : State) (c r : Nat) : (takeTurn s c r).watch = s.watch := rfl
@[simp] theorem takeTurn_sec (s : State) (c r : Nat) : (takeTurn s c r).sec = s.sec := rfl
@[simp] theorem takeTurn_cmds (s : State) (c r : Nat) : (takeTurn s c r).cmds = s.cmds := rfl
@[simp] theorem takeTurn_host (s : State) (c r : Nat) : (takeTurn s c r).host = s.host := rfl
@[simp] theorem takeTurn_out (s : State) (c r : Nat) : (takeTurn s c r).out = s.out := rfl
@[simp] theorem takeTurn_freeCtr (s : State) (c r : Nat) : (takeTurn s c r).freeCtr = s.freeCtr := rfl
@[simp] theorem takeTurn_pending (s : State) (c r : Nat) : (takeTurn s c r).pending = s.pending := rfl
@[simp] theorem modReq_hf (s : State) (n : Nat) (f : Req → Req) : (modReq s n f).hf = s.hf := by
  unfold modReq; split <;> rfl
@[simp] theorem modReq_boot (s : State) (n : Nat) (f : Req → Req) : (modReq s n f).boot = s.boot := by
  unfold modReq; split <;> rfl
@[simp] theorem modReq_claims (s : State) (n : Nat) (f : Req → Req) : (modReq s n f).claims = s.claims := by
  unfold modReq; split <;> rfl
@[simp] theorem modReq_hl (s : State) (n : Nat) (f : Req → Req) : (modReq s n f).hl = s.hl := by
  unfold modReq; split <;> rfl
@[simp] theorem modReq_fm (s : State) (n : Nat) (f : Req → Req) : (modReq s n f).fm = s.fm := by
  unfold modReq; split <;> rfl
@[simp] theorem modReq_drift (s : State) (n : Nat) (f : Req → Req) : (modReq s n f).drift = s.drift := by
  unfold modReq; split <;> rfl
@[simp] theorem modReq_eng (s : State) (n : Nat) (f : Req → Req) : (modReq s n f).eng = s.eng := by
  unfold modReq; split <;> rfl
@[simp] theorem modReq_face (s : State) (n : Nat) (f : Req → Req) : (modReq s n f).face = s.face := by
  unfold modReq; split <;> rfl
@[simp] theorem modReq_store (s : State) (n : Nat) (f : Req → Req) : (modReq s n f).store = s.store := by
  unfold modReq; split <;> rfl
@[simp] theorem modReq_cage (s : State) (n : Nat) (f : Req → Req) : (modReq s n f).cage = s.cage := by
  unfold modReq; split <;> rfl
@[simp] theorem modReq_flash (s : State) (n : Nat) (f : Req → Req) : (modReq s n f).flash = s.flash := by
  unfold modReq; split <;> rfl
@[simp] theorem modReq_haul (s : State) (n : Nat) (f : Req → Req) : (modReq s n f).haul = s.haul := by
  unfold modReq; split <;> rfl
@[simp] theorem modReq_banks (s : State) (n : Nat) (f : Req → Req) : (modReq s n f).banks = s.banks := by
  unfold modReq; split <;> rfl
@[simp] theorem modReq_adit (s : State) (n : Nat) (f : Req → Req) : (modReq s n f).adit = s.adit := by
  unfold modReq; split <;> rfl
@[simp] theorem modReq_power (s : State) (n : Nat) (f : Req → Req) : (modReq s n f).power = s.power := by
  unfold modReq; split <;> rfl
@[simp] theorem modReq_watch (s : State) (n : Nat) (f : Req → Req) : (modReq s n f).watch = s.watch := by
  unfold modReq; split <;> rfl
@[simp] theorem modReq_sec (s : State) (n : Nat) (f : Req → Req) : (modReq s n f).sec = s.sec := by
  unfold modReq; split <;> rfl
@[simp] theorem modReq_cmds (s : State) (n : Nat) (f : Req → Req) : (modReq s n f).cmds = s.cmds := by
  unfold modReq; split <;> rfl
@[simp] theorem modReq_host (s : State) (n : Nat) (f : Req → Req) : (modReq s n f).host = s.host := by
  unfold modReq; split <;> rfl
@[simp] theorem modReq_out (s : State) (n : Nat) (f : Req → Req) : (modReq s n f).out = s.out := by
  unfold modReq; split <;> rfl
@[simp] theorem modReq_freeCtr (s : State) (n : Nat) (f : Req → Req) : (modReq s n f).freeCtr = s.freeCtr := by
  unfold modReq; split <;> rfl
@[simp] theorem modReq_pending (s : State) (n : Nat) (f : Req → Req) : (modReq s n f).pending = s.pending := by
  unfold modReq; split <;> rfl
@[simp] theorem takeFree_hf (s : State) : (takeFree s).2.hf = s.hf := rfl
@[simp] theorem takeFree_boot (s : State) : (takeFree s).2.boot = s.boot := rfl
@[simp] theorem takeFree_claims (s : State) : (takeFree s).2.claims = s.claims := rfl
@[simp] theorem takeFree_hl (s : State) : (takeFree s).2.hl = s.hl := rfl
@[simp] theorem takeFree_fm (s : State) : (takeFree s).2.fm = s.fm := rfl
@[simp] theorem takeFree_slots (s : State) : (takeFree s).2.slots = s.slots := rfl
@[simp] theorem takeFree_drift (s : State) : (takeFree s).2.drift = s.drift := rfl
@[simp] theorem takeFree_eng (s : State) : (takeFree s).2.eng = s.eng := rfl
@[simp] theorem takeFree_face (s : State) : (takeFree s).2.face = s.face := rfl
@[simp] theorem takeFree_store (s : State) : (takeFree s).2.store = s.store := rfl
@[simp] theorem takeFree_cage (s : State) : (takeFree s).2.cage = s.cage := rfl
@[simp] theorem takeFree_flash (s : State) : (takeFree s).2.flash = s.flash := rfl
@[simp] theorem takeFree_haul (s : State) : (takeFree s).2.haul = s.haul := rfl
@[simp] theorem takeFree_banks (s : State) : (takeFree s).2.banks = s.banks := rfl
@[simp] theorem takeFree_adit (s : State) : (takeFree s).2.adit = s.adit := rfl
@[simp] theorem takeFree_power (s : State) : (takeFree s).2.power = s.power := rfl
@[simp] theorem takeFree_watch (s : State) : (takeFree s).2.watch = s.watch := rfl
@[simp] theorem takeFree_sec (s : State) : (takeFree s).2.sec = s.sec := rfl
@[simp] theorem takeFree_cmds (s : State) : (takeFree s).2.cmds = s.cmds := rfl
@[simp] theorem takeFree_host (s : State) : (takeFree s).2.host = s.host := rfl
@[simp] theorem takeFree_out (s : State) : (takeFree s).2.out = s.out := rfl
@[simp] theorem takeFree_pending (s : State) : (takeFree s).2.pending = s.pending := rfl

theorem setSlot_frame (s : State) (n : Nat) (v : Slot) : setSlot s n v = { s with slots := (setSlot s n v).slots } := rfl

/-- A slot reads as it was last set, an unlisted slot as FREE with generation 0. -/
theorem slotOf_setSlot_self (s : State) (n : Nat) (v : Slot) : slotOf (setSlot s n v) n = v := by
  unfold slotOf setSlot kgetD
  split
  · rename_i h
    obtain ⟨g, o⟩ := v
    simp at h
    obtain ⟨h1, h2⟩ := h
    subst h1 h2
    simp
  · simp

theorem slotOf_setSlot_ne (s : State) {n j : Nat} (v : Slot) (h : j ≠ n) : slotOf (setSlot s n v) j = slotOf s j := by
  unfold slotOf setSlot kgetD
  split <;> simp only [kget_kdel_ne _ h, kget_kset_ne _ _ h]

theorem modReq_of {s : State} {n : Nat} {r : Req} (f : Req → Req) (h : reqOf s n = some r) :
    modReq s n f = setSlot s n { slotOf s n with occ := some (f r) } := by
  unfold modReq; simp [h]

@[simp] theorem reqOf_setSlot_self (s : State) (n : Nat) (v : Slot) : reqOf (setSlot s n v) n = v.occ := by
  simp [reqOf, slotOf_setSlot_self]

theorem reqOf_modReq {s : State} {n : Nat} {r : Req} (f : Req → Req) (h : reqOf s n = some r) :
    reqOf (modReq s n f) n = some (f r) := by
  rw [modReq_of f h]; simp

theorem modReq_frame (s : State) (n : Nat) (f : Req → Req) : modReq s n f = { s with slots := (modReq s n f).slots } := by
  unfold modReq; split <;> rfl

theorem setSlot_setSlot (s : State) (n : Nat) (v w : Slot) (hv : v.occ.isSome) :
    setSlot (setSlot s n v) n w = setSlot s n w := by
  have hv' : ¬ v.occ = none := by intro h; simp [h] at hv
  have hd : ∀ m : AMap Slot, kdel (kset m n v) n = kdel m n := by
    intro m
    induction m with
    | nil => simp [kset, kdel]
    | cons p r ih =>
      obtain ⟨k', v'⟩ := p
      by_cases h : k' = n <;> simp [kset, kdel, h, ih]
  unfold setSlot
  simp [hv', hd]

end Sys2Proof.Machine
end

