-- ==== Sys2Proof/Laws/Ops.lean ====
section
/-! SUPPORT. What each shared operation can do, said once: a descriptor line that is accepted goes to its row's body. -/

namespace Sys2Proof.Machine

theorem takeLine_opcode {s : State} {id : RingId} {p : Bool} {l : List Byte} {o : Origin} {s1 : State}
    (h : takeLine s id p l = some (o, s1)) : o.opcode = byteAt l 0 := by
  unfold takeLine at h
  split at h
  · cases h
  · simp only at h
    split at h
    · cases h
    · split at h
      · split at h <;> simp at h; rw [← h.1]
      · split at h <;> simp at h; rw [← h.1]

theorem takeLine_linkUp {s : State} {id : RingId} {p : Bool} {l : List Byte} {o : Origin} {s1 : State}
    (h : takeLine s id p l = some (o, s1)) : linkUp s1 = linkUp s := by
  unfold takeLine at h
  split at h
  · cases h
  · simp only at h
    split at h
    · cases h
    · split at h
      · split at h <;> simp at h; rw [← h.2]; rfl
      · split at h <;> simp at h; rw [← h.2]; rfl

theorem claimHead_of {s : State} {d : Desc} {op : Nat} {o : Origin} {s1 : State} {codes : Nat → Bool} {ends : Bool}
    {body : State → Origin → List Byte → State} (h : LineTaken s d op o s1) (hc : codes op = true)
    (h0 : op ≠ 0) (h1 : op < 128) (he : (claimOf s d.claim).st ≠ 3 ∨ ends = true) :
    claimHead s d codes ends body = body s1 o d.line := by
  obtain ⟨ha, hr, hl, hn, hp, hb, hv, hq, ht⟩ := h
  have hop := takeLine_opcode ht
  rw [hb] at hop
  unfold claimHead
  have hst : ((claimOf s d.claim).st == 3 && !ends) = false := by
    rcases he with he | he <;> simp [he]
  have hge : ¬ (op ≥ 128) := by omega
  simp [ha, hr, hl, hn, hp, hb, hv, hq, hc, ht, hop, h0, hst]
  rintro h; omega

theorem claimDesc_taken {s : State} {d : Desc} {op : Nat} {o : Origin} {s1 : State} {codes : Nat → Bool} {ends : Bool}
    {res : List Byte → Bool} {body : State → Origin → List Byte → State} (h : LineTaken s d op o s1) (hc : codes op = true)
    (h0 : op ≠ 0) (h1 : op < 128) (he : (claimOf s d.claim).st ≠ 3 ∨ ends = true) (hz' : commonZero d.line = true)
    (hz : res d.line = true) (ht : tenantOk s1 d.claim o.tenant = true) :
    claimDesc s d codes res ends body = body s1 o d.line := by
  unfold claimDesc
  rw [claimHead_of h hc h0 h1 he]
  simp [hz, hz', ht]

theorem claimDesc_of {s : State} {d : Desc} {op : Nat} {o : Origin} {s1 : State} {codes : Nat → Bool} {ends : Bool} {res : List Byte → Bool}
    {body : State → Origin → List Byte → State} (h : LineAccepted s d op o s1) (hc : codes op = true)
    (h0 : op ≠ 0) (h1 : op < 128) (hz : res d.line = true) :
    claimDesc s d codes res ends body = body s1 o d.line := by
  obtain ⟨h, hs, hz', ht⟩ := h
  exact claimDesc_taken h hc h0 h1 (by simp [hs]) hz' hz ht

theorem plainCommand_of {s : State} {d : Desc} {op : Nat} {o : Origin} {s1 : State} {res : List Byte → Bool}
    {body : State → Origin → List Byte → State} (h : LineAccepted s d op o s1) (hq : o.req = 0xFFFFFFFF)
    (h0 : op ≠ 0) (h1 : op < 128) (hz : res d.line = true) :
    plainCommand s d op res body = body s1 o d.line := by
  unfold plainCommand
  rw [claimDesc_of h (by simp) h0 h1 hz]
  simp [hq]

theorem mgmtDesc_of {s : State} {m : MDesc} {op : Nat} {o : Origin} {s1 : State} {codes : Nat → Bool} {res : List Byte → Bool}
    {body : State → Origin → List Byte → State} (h : MgmtAccepted s m op o s1) (hc : codes op = true) (h1 : 128 ≤ op) (hz : res m.line = true) :
    mgmtDesc s m codes res body = body s1 o m.line := by
  obtain ⟨ha, hn, hp, hb, hv, ht, hz', hq, hten⟩ := h
  have hop := takeLine_opcode ht
  rw [hb] at hop
  have hge : ¬ (op < 128) := by omega
  unfold mgmtDesc
  simp [ha, hn, hp, hb, hv, hc, ht, hop, hz', hq, hten, hz, hge]

/-! ### A completion record changes its ring, companion memory, the refusal counters and Tally alone -/

@[simp] theorem tallyRecord_hf (s : State) (r : CplRec) : (tallyRecord s r).hf = s.hf := rfl
@[simp] theorem tallyRecord_boot (s : State) (r : CplRec) : (tallyRecord s r).boot = s.boot := rfl
@[simp] theorem tallyRecord_claims (s : State) (r : CplRec) : (tallyRecord s r).claims = s.claims := rfl
@[simp] theorem tallyRecord_hl (s : State) (r : CplRec) : (tallyRecord s r).hl = s.hl := rfl
@[simp] theorem tallyRecord_fm (s : State) (r : CplRec) : (tallyRecord s r).fm = s.fm := rfl
@[simp] theorem tallyRecord_slots (s : State) (r : CplRec) : (tallyRecord s r).slots = s.slots := rfl
@[simp] theorem tallyRecord_drift (s : State) (r : CplRec) : (tallyRecord s r).drift = s.drift := rfl
@[simp] theorem tallyRecord_eng (s : State) (r : CplRec) : (tallyRecord s r).eng = s.eng := rfl
@[simp] theorem tallyRecord_face (s : State) (r : CplRec) : (tallyRecord s r).face = s.face := rfl
@[simp] theorem tallyRecord_store (s : State) (r : CplRec) : (tallyRecord s r).store = s.store := rfl
@[simp] theorem tallyRecord_cage (s : State) (r : CplRec) : (tallyRecord s r).cage = s.cage := rfl
@[simp] theorem tallyRecord_flash (s : State) (r : CplRec) : (tallyRecord s r).flash = s.flash := rfl
@[simp] theorem tallyRecord_haul (s : State) (r : CplRec) : (tallyRecord s r).haul = s.haul := rfl
@[simp] theorem tallyRecord_banks (s : State) (r : CplRec) : (tallyRecord s r).banks = s.banks := rfl
@[simp] theorem tallyRecord_adit (s : State) (r : CplRec) : (tallyRecord s r).adit = s.adit := rfl
@[simp] theorem tallyRecord_power (s : State) (r : CplRec) : (tallyRecord s r).power = s.power := rfl
@[simp] theorem tallyRecord_sec (s : State) (r : CplRec) : (tallyRecord s r).sec = s.sec := rfl
@[simp] theorem tallyRecord_cmds (s : State) (r : CplRec) : (tallyRecord s r).cmds = s.cmds := rfl
@[simp] theorem tallyRecord_host (s : State) (r : CplRec) : (tallyRecord s r).host = s.host := rfl
@[simp] theorem tallyRecord_out (s : State) (r : CplRec) : (tallyRecord s r).out = s.out := rfl
@[simp] theorem tallyRecord_freeCtr (s : State) (r : CplRec) : (tallyRecord s r).freeCtr = s.freeCtr := rfl
@[simp] theorem tallyRecord_pending (s : State) (r : CplRec) : (tallyRecord s r).pending = s.pending := rfl
@[simp] theorem tallyRecord_arms (s : State) (r : CplRec) : (tallyRecord s r).watch.arms = s.watch.arms := rfl
@[simp] theorem countRefusal_hf (s : State) (n : Nat) : (countRefusal s n).hf = s.hf := by
  unfold countRefusal; repeat' split
  all_goals rfl
@[simp] theorem countRefusal_boot (s : State) (n : Nat) : (countRefusal s n).boot = s.boot := by
  unfold countRefusal; repeat' split
  all_goals rfl
@[simp] theorem countRefusal_claims (s : State) (n : Nat) : (countRefusal s n).claims = s.claims := by
  unfold countRefusal; repeat' split
  all_goals rfl
@[simp] theorem countRefusal_hl (s : State) (n : Nat) : (countRefusal s n).hl = s.hl := by
  unfold countRefusal; repeat' split
  all_goals rfl
@[simp] theorem countRefusal_slots (s : State) (n : Nat) : (countRefusal s n).slots = s.slots := by
  unfold countRefusal; repeat' split
  all_goals rfl
@[simp] theorem countRefusal_drift (s : State) (n : Nat) : (countRefusal s n).drift = s.drift := by
  unfold countRefusal; repeat' split
  all_goals rfl
@[simp] theorem countRefusal_eng (s : State) (n : Nat) : (countRefusal s n).eng = s.eng := by
  unfold countRefusal; repeat' split
  all_goals rfl
@[simp] theorem countRefusal_face (s : State) (n : Nat) : (countRefusal s n).face = s.face := by
  unfold countRefusal; repeat' split
  all_goals rfl
@[simp] theorem countRefusal_store (s : State) (n : Nat) : (countRefusal s n).store = s.store := by
  unfold countRefusal; repeat' split
  all_goals rfl
@[simp] theorem countRefusal_cage (s : State) (n : Nat) : (countRefusal s n).cage = s.cage := by
  unfold countRefusal; repeat' split
  all_goals rfl
@[simp] theorem countRefusal_flash (s : State) (n : Nat) : (countRefusal s n).flash = s.flash := by
  unfold countRefusal; repeat' split
  all_goals rfl
@[simp] theorem countRefusal_haul (s : State) (n : Nat) : (countRefusal s n).haul = s.haul := by
  unfold countRefusal; repeat' split
  all_goals rfl
@[simp] theorem countRefusal_banks (s : State) (n : Nat) : (countRefusal s n).banks = s.banks := by
  unfold countRefusal; repeat' split
  all_goals rfl
@[simp] theorem countRefusal_adit (s : State) (n : Nat) : (countRefusal s n).adit = s.adit := by
  unfold countRefusal; repeat' split
  all_goals rfl
@[simp] theorem countRefusal_power (s : State) (n : Nat) : (countRefusal s n).power = s.power := by
  unfold countRefusal; repeat' split
  all_goals rfl
@[simp] theorem countRefusal_watch (s : State) (n : Nat) : (countRefusal s n).watch = s.watch := by
  unfold countRefusal; repeat' split
  all_goals rfl
@[simp] theorem countRefusal_sec (s : State) (n : Nat) : (countRefusal s n).sec = s.sec := by
  unfold countRefusal; repeat' split
  all_goals rfl
@[simp] theorem countRefusal_cmds (s : State) (n : Nat) : (countRefusal s n).cmds = s.cmds := by
  unfold countRefusal; repeat' split
  all_goals rfl
@[simp] theorem countRefusal_host (s : State) (n : Nat) : (countRefusal s n).host = s.host := by
  unfold countRefusal; repeat' split
  all_goals rfl
@[simp] theorem countRefusal_out (s : State) (n : Nat) : (countRefusal s n).out = s.out := by
  unfold countRefusal; repeat' split
  all_goals rfl
@[simp] theorem countRefusal_freeCtr (s : State) (n : Nat) : (countRefusal s n).freeCtr = s.freeCtr := by
  unfold countRefusal; repeat' split
  all_goals rfl
@[simp] theorem countRefusal_pending (s : State) (n : Nat) : (countRefusal s n).pending = s.pending := by
  unfold countRefusal; repeat' split
  all_goals rfl
@[simp] theorem putRecord_hf (s : State) (r : CplRec) : (putRecord s r).hf = s.hf := by
  unfold putRecord; split
  · rfl
  · simp only []; split <;> simp
@[simp] theorem putRecord_boot (s : State) (r : CplRec) : (putRecord s r).boot = s.boot := by
  unfold putRecord; split
  · rfl
  · simp only []; split <;> simp
@[simp] theorem putRecord_claims (s : State) (r : CplRec) : (putRecord s r).claims = s.claims := by
  unfold putRecord; split
  · rfl
  · simp only []; split <;> simp
@[simp] theorem putRecord_slots (s : State) (r : CplRec) : (putRecord s r).slots = s.slots := by
  unfold putRecord; split
  · rfl
  · simp only []; split <;> simp
@[simp] theorem putRecord_drift (s : State) (r : CplRec) : (putRecord s r).drift = s.drift := by
  unfold putRecord; split
  · rfl
  · simp only []; split <;> simp
@[simp] theorem putRecord_eng (s : State) (r : CplRec) : (putRecord s r).eng = s.eng := by
  unfold putRecord; split
  · rfl
  · simp only []; split <;> simp
@[simp] theorem putRecord_face (s : State) (r : CplRec) : (putRecord s r).face = s.face := by
  unfold putRecord; split
  · rfl
  · simp only []; split <;> simp
@[simp] theorem putRecord_store (s : State) (r : CplRec) : (putRecord s r).store = s.store := by
  unfold putRecord; split
  · rfl
  · simp only []; split <;> simp
@[simp] theorem putRecord_cage (s : State) (r : CplRec) : (putRecord s r).cage = s.cage := by
  unfold putRecord; split
  · rfl
  · simp only []; split <;> simp
@[simp] theorem putRecord_flash (s : State) (r : CplRec) : (putRecord s r).flash = s.flash := by
  unfold putRecord; split
  · rfl
  · simp only []; split <;> simp
@[simp] theorem putRecord_haul (s : State) (r : CplRec) : (putRecord s r).haul = s.haul := by
  unfold putRecord; split
  · rfl
  · simp only []; split <;> simp
@[simp] theorem putRecord_banks (s : State) (r : CplRec) : (putRecord s r).banks = s.banks := by
  unfold putRecord; split
  · rfl
  · simp only []; split <;> simp
@[simp] theorem putRecord_adit (s : State) (r : CplRec) : (putRecord s r).adit = s.adit := by
  unfold putRecord; split
  · rfl
  · simp only []; split <;> simp
@[simp] theorem putRecord_power (s : State) (r : CplRec) : (putRecord s r).power = s.power := by
  unfold putRecord; split
  · rfl
  · simp only []; split <;> simp
@[simp] theorem putRecord_sec (s : State) (r : CplRec) : (putRecord s r).sec = s.sec := by
  unfold putRecord; split
  · rfl
  · simp only []; split <;> simp
@[simp] theorem putRecord_cmds (s : State) (r : CplRec) : (putRecord s r).cmds = s.cmds := by
  unfold putRecord; split
  · rfl
  · simp only []; split <;> simp
@[simp] theorem putRecord_out (s : State) (r : CplRec) : (putRecord s r).out = s.out := by
  unfold putRecord; split
  · rfl
  · simp only []; split <;> simp
@[simp] theorem putRecord_freeCtr (s : State) (r : CplRec) : (putRecord s r).freeCtr = s.freeCtr := by
  unfold putRecord; split
  · rfl
  · simp only []; split <;> simp
@[simp] theorem putRecord_pending (s : State) (r : CplRec) : (putRecord s r).pending = s.pending := by
  unfold putRecord; split
  · rfl
  · simp only []; split <;> simp
@[simp] theorem putRecord_arms (s : State) (r : CplRec) : (putRecord s r).watch.arms = s.watch.arms := by
  unfold putRecord; split
  · rfl
  · simp only []; split <;> simp

end Sys2Proof.Machine
end

