-- ==== Sys2Proof/Certificates/Slice0/Obligations.lean ====
section
/-! DEFINITION. The statements of this row. Each `Rows.` definition is a part of the obligation of its group; equations are
over the operations of the model, whose docstrings cite the rules and the log entries they rest on. -/

open Sys2Proof Sys2Proof.Machine

/-- A step runs the command at the front of the queue on the state with the queue's rest, and answers what it answers; on an
empty queue the block idles (the model's choice, log 18). -/
def Obligations.StepRunsTheFrontCommand : Prop :=
  (∀ (c : Instr) (rest : List Instr) (s : State),
    step { s with pending := c :: rest } = exec c { s with pending := rest })
  ∧ ∀ s : State, s.pending = [] → step s = .next s

/-- Every command runs to a next state in every state, and so does every step: no command of the table faults or is refused. -/
def Obligations.EveryStepAnswersANextState : Prop :=
  (∀ (i : Instr) (s : State), ∃ t, exec i s = .next t) ∧ ∀ s : State, StepSafe s

/-- What reset leaves: every claim ABSENT, every slot FREE with generation 0, no ring listed, no companion memory written,
no message sent, and the values of the Reset columns that are not 0: CG_DEADLINE (5,000 and 500), AD_PLAN (0xFF, 0xFF),
AD_GANG_CTL.LOSS_US (10,000), LP_CTL.SAMPLE_LOG2 (4), HL_VERSION.LOCAL_SET (1); the W1C registers read 0. -/
def Obligations.ResetLeavesTheStatedValues : Prop :=
  let z := State.reset
  (∀ c, (claimOf z c).st = 0) ∧ (∀ n, slotOf z n = { gen := 0, occ := none }) ∧ z.hl.rings = [] ∧ z.host = [] ∧ z.out = []
  ∧ z.pending = []
  ∧ (∀ c < 4, readReg z (0x800060 + 8 * c) = 5000 * 65536 + 500
    ∧ readReg z (0x2008020 + 8 * c) % 65536 = 10000
    ∧ readReg z (0xB40000 + 8 * c) = 8)
  ∧ readReg z 0x2000020 = 0xFFFF ∧ readReg z 0x100010 % 256 = 1
  ∧ readReg z 0x100040 = 0 ∧ readReg z 0x800090 = 0 ∧ readReg z 0x238 = 0 ∧ readReg z 0x2000030 = 0

/-- R70. PHASE is 1 in the entries of pass 0, 0 in those of pass 1, and alternates from pass to pass; a completion record
carries it in bit 0 of byte 1; the descriptor line that a ring's reader looks at, with a credit of its channel at hand, is new, and taken,
exactly where its PHASE is that of the pass the reader expects. -/
def Obligations.PhaseAlternatesByPass : Prop :=
  (∀ cap n, n < cap → phaseAt cap n = 1)
  ∧ (∀ cap n, 0 < cap → phaseAt cap (n + cap) = 1 - phaseAt cap n)
  ∧ (∀ (r : CplRec) (cap n : Nat), byteAt (cplBytes r (phaseAt cap n)) 1 = phaseAt cap n)
  ∧ (∀ (s : State) (id : RingId) (g : Ring) (line : List Byte), kget s.hl.rings id = some g → g.st = 1 → g.fetched = [] →
    1 ≤ cplFree s id.claim g.cplRing → hlCan s (ringVc id.claim) id.claim = true →
    ((takeLine s id false line).isSome = true ↔ byteAt line 2 % 2 = phaseAt (g.cap false) g.n.toNat))

/-- A completion record (R64, R74, R78): where its ring is listed, Hoistlink is UP, its channel has a credit for the claim and no
earlier record of the ring waits (`recordGoes`), its 64 bytes are written at the place of
record W of the ring with the PHASE of that place, no other byte of companion memory changes, W goes up by one, V down by
one, and no other ring changes; otherwise the record waits behind the others and companion memory is as it was. -/
def Obligations.RecordsAreWrittenInTheirRing : Prop :=
  ∀ (s : State) (r : CplRec) (g : Ring), hostWf s.host = true → kget s.hl.rings ⟨r.o.claim, true, r.o.cpl⟩ = some g →
    (recordGoes s r = true →
      let a := g.base + 64 * (g.n.toNat % g.cap true)
      let b := cplBytes r (phaseAt (g.cap true) g.n.toNat)
      let t := putRecord s r
      (∀ i, i < 64 → hostRead t.host ((a + i) % 2 ^ 64) = b.getD i 0)
      ∧ (∀ x, (∀ i, i < 64 → x ≠ (a + i) % 2 ^ 64) → hostRead t.host x = hostRead s.host x)
      ∧ kget t.hl.rings ⟨r.o.claim, true, r.o.cpl⟩ = some { g with n := g.n + 1, v := g.v - 1 }
      ∧ (∀ k, k ≠ ⟨r.o.claim, true, r.o.cpl⟩ → kget t.hl.rings k = kget s.hl.rings k)
      ∧ t.out = s.out ∧ t.slots = s.slots ∧ t.claims = s.claims ∧ t.cage = s.cage ∧ t.flash = s.flash ∧ t.sec = s.sec)
    ∧ (recordGoes s r = false → (putRecord s r).host = s.host ∧ (putRecord s r).hl.rings = s.hl.rings
      ∧ (putRecord s r).hl.stalled = s.hl.stalled ++ [r])

/-- Taking a line (R72 to R74) that the watch has not taken before: SUB_CONSUMED in the ring's RCB is one more, no other byte
of companion memory changes, one entry of its completion ring is reserved, and the origin of its record is read from the line. -/
def Obligations.LinesAreTakenInRingOrder : Prop :=
  ∀ (s : State) (id : RingId) (line : List Byte) (o : Origin) (t : State) (g : Ring), hostWf s.host = true →
    kget s.hl.rings id = some g → id.cpl = false → g.fetched = [] → takeLine s id false line = some (o, t) →
    o = { claim := id.claim, ring := id.idx, index := g.n.toNat, opcode := byteAt line 0, req := fld line 4 4
          cookie := fld line 12 4, tenant := fld line 8 2, cpl := g.cplRing }
    ∧ (∀ i, i < 4 → hostRead t.host ((g.rcb + 64 + i) % 2 ^ 64) = (leBytes 4 (g.n + 1).toNat).getD i 0)
    ∧ (∀ x, (∀ i, i < 4 → x ≠ (g.rcb + 64 + i) % 2 ^ 64) → hostRead t.host x = hostRead s.host x)
    ∧ kget t.hl.rings id = some { g with n := g.n + 1 }
    ∧ cplFree t id.claim g.cplRing + 1 = cplFree s id.claim g.cplRing
    ∧ t = { s with host := t.host, hl := { s.hl with rings := t.hl.rings, vc := t.hl.vc } }

/-- The invariant that every step keeps holds of the block at reset. -/
def Obligations.ResetMeetsTheInvariant : Prop :=
  BlockInv State.reset

/-- Every step, of any command in any state with the invariant, leaves a state with the invariant: companion memory in its canonical
form, claims, Hoistlink, Adit links and key slots in legal states, the log within 4,096 entries, the lifetime counters within 64 bits. -/
def Obligations.EveryStepKeepsTheInvariant : Prop :=
  ∀ s t : State, BlockInv s → step s = .next t → BlockInv t

/-- No step, of any command, undoes what R408, R449 and R451 make permanent: a programmed key keeps its bytes, a revoked slot stays
as it is, the lifetime counters never go down, a retired unit stays retired; and a step takes exactly the command at the
front of the queue: the rest waits as it was. -/
def Obligations.EveryStepKeepsTheFuses : Prop :=
  ∀ s t : State, BlockInv s → step s = .next t → FusesKept s t ∧ t.pending = s.pending.drop 1

/-- RING_ENABLE (R68, R69, R85). ACTION ENABLE of HL_RING_CMD on a ring whose RCB passes every check makes the ring
ENABLED with BASE, LINES and CPL_RING of the RCB and every count 0, and HL_RING_CMD_STATUS 0; where a check of the RCB fails only
HL_RING_CMD_STATUS changes, to the code of the first that fails; CLAIM or RING out of range gives RANGE (7). The write
is answered. -/
def Rows.RingEnableChecksTheRcb : Prop :=
  ∀ (value : W64) (rcb : List Byte) (s : State), reach s = true → bits value.toNat 15 14 = 1 →
    let s1 := hlGot s 2 1
    (∀ id, ringCmdTarget value = some id → ringEnableCode s1 id rcb = 0 →
      let s2 := hlGot s1 (ringVc id.claim) 1
      exec (.ringEnable value rcb) s = .next (answerMgmt { s2 with hl := { s2.hl with
        ringCmdStatus := 0
        rings := kset s2.hl.rings id
          { st := 1, base := fld rcb 0 8, lines := fld rcb 8 4, cplRing := fld rcb 14 2, rcb := rcbAddr s2 id
            n := 0, head := 0, v := 0, fetched := [] } } } 0x100128 0 0))
    ∧ (∀ id, ringCmdTarget value = some id → ringEnableCode s1 id rcb ≠ 0 →
      exec (.ringEnable value rcb) s = .next (answerMgmt (setRingCode
        (if ringEnableCode s1 id rcb ≤ 4 then hlGot s1 (ringVc id.claim) 1 else s1) (ringEnableCode s1 id rcb)) 0x100128 0 0))
    ∧ (ringCmdTarget value = none →
      exec (.ringEnable value rcb) s = .next (answerMgmt (setRingCode s1 7) 0x100128 0 0))

/-- WATCH_LINE_INVALIDATE (R71, R72). While the block runs with Hoistlink UP, the ring ENABLED, a credit to read with, and the
re-read line of 128 bytes: the invalidation is answered and two messages are received. A line watched whose PHASE is new (or
that was read poisoned) is taken by the watch, V of its completion ring goes up by one, where the ring's claim takes
descriptors and an entry is free, and a line after it that is in hand follows it; it stays where not. The line after the one
watched is kept until that one is taken. A line whose PHASE is not new sets bit 4 (SPURIOUS_INV) of HL_ERR_STATUS. Nothing else
changes. -/
def Rows.WatchTakesANewLineOrMarksItSpurious : Prop :=
  ∀ (ring : RingSel) (after poison : Bool) (line : List Byte) (s : State) (g : Ring),
    kget s.hl.rings (ringIdOf ring false) = some g → admits s = true → g.st = 1 → line.length = 128 →
    hlCan s (ringVc (ringIdOf ring false).claim) (ringIdOf ring false).claim = true →
    let id := ringIdOf ring false
    let pos := g.n.toNat + g.fetched.length + if after then 1 else 0
    let s0 := emit (hlGot s (ringVc id.claim) 2) (.snoop (BitVec.ofNat 64 (g.base + 128 * (pos % g.lines))) true)
    let fresh := poison = true ∨ byteAt line 2 % 2 = phaseAt (g.cap false) pos
    (fresh → after = false → ringTakes s id = true → 1 ≤ cplFree s id.claim g.cplRing →
      exec (.watchLineInvalidate ⟨ring, after⟩ poison line) s = .next (watchTakes s0 id g (poison, line)))
    ∧ (fresh → after = false → ¬ (ringTakes s id = true ∧ 1 ≤ cplFree s id.claim g.cplRing) →
      exec (.watchLineInvalidate ⟨ring, after⟩ poison line) s = .next s0)
    ∧ (fresh → after = true → exec (.watchLineInvalidate ⟨ring, after⟩ poison line) s =
        .next (modRing s0 id (fun g => { g with ahead := some (poison, line) })))
    ∧ (¬ fresh → after = false → exec (.watchLineInvalidate ⟨ring, after⟩ poison line) s =
        .next { s0 with hl := { s0.hl with err := s0.hl.err ||| 0x10 } })

/-- SNOOP_RESPONSE, CPL_HEAD_ADVANCE (R66, R67, R74). A snoop is answered, with whether the line is held in shared state, and
changes nothing else, as long as RESET_N is high and Hoistlink is UP; the new CPL_HEAD of a completion ring is read into that
ring, of which the channel counts one message received, and nothing else changes. -/
def Rows.SnoopsAreAnsweredAndHeadsAreRead : Prop :=
  (∀ (addr : W64) (s : State), s.boot.resetN = true → linkUp s = true →
    exec (.snoopResponse addr) s =
      .next { s with out := s.out ++ [.snoop addr ((sharedLines s).contains (addr.toNat / 128 * 128))] })
  ∧ (∀ (ring : RingSel) (head : W32) (s : State) (g : Ring), reach s = true →
    hlCan s (ringVc (ringIdOf ring true).claim) (ringIdOf ring true).claim = true →
    kget s.hl.rings (ringIdOf ring true) = some g →
    exec (.cplHeadAdvance ring head) s =
      .next (modRing (hlGot s (ringVc (ringIdOf ring true).claim) 1) (ringIdOf ring true) (fun g => { g with head := head })))

/-- RING_DISABLE, RING_DRAIN_COMPLETE (R69, R85, R87). DISABLE of an ENABLED ring leaves it DRAINING, without the line after the
one watched, or DISABLED (not listed) where nothing of it is under way; a DRAINING ring with nothing left becomes DISABLED. Nothing
else changes but HL_RING_CMD_STATUS, which reads 0 after a DISABLE, and the write's answer. -/
def Rows.RingsDrainBeforeTheyAreDisabled : Prop :=
  (∀ (value : W64) (s : State) (id : RingId) (g : Ring), reach s = true → bits value.toNat 15 14 = 2 →
    ringCmdTarget value = some id → ringInRange s id = true → kget s.hl.rings id = some g → g.st = 1 →
    let s1 := hlGot s 2 1
    exec (.ringDisable value) s = .next (answerMgmt { s1 with hl := { s1.hl with
      ringCmdStatus := 0
      rings := if drained id g then kdel s.hl.rings id else kset s.hl.rings id { g with st := 2, ahead := none } } } 0x100128 0 0))
  ∧ (∀ (ring : RingSel) (cpl : Bool) (s : State) (g : Ring), alive s = true →
    kget s.hl.rings (ringIdOf ring cpl) = some g → g.st = 2 → drained (ringIdOf ring cpl) g = true →
    exec (.ringDrainComplete ring cpl) s = .next { s with hl := { s.hl with
      rings := kdel s.hl.rings (ringIdOf ring cpl) } })

/-- Rings: enabling, the tail watch, snoops, heads and draining. -/
def Obligations.RingsAreEnabledWatchedAndDrained : Prop :=
  Rows.RingEnableChecksTheRcb ∧ Rows.WatchTakesANewLineOrMarksItSpurious ∧ Rows.SnoopsAreAnsweredAndHeadsAreRead ∧ Rows.RingsDrainBeforeTheyAreDisabled

/-- STREAM_HEAD_ADVANCE (R64, R82, R83) for a request with a token stream and no TEXT record held: HEAD takes the value read, one
message received on the data channel; where the END record is due, the ring has room and the data channel a credit, the END record
is written to the ring, it is no longer due, and the stream's shaper returns. Nothing else changes. -/
def Rows.StreamHeadLetsADueEndRecordOut : Prop :=
  ∀ (slot : BitVec 16) (head : W32) (s : State) (r : Req),
    reach s = true → reqOf s slot.toNat = some r → r.hasStream = true → r.stream.held = [] →
    let n := slot.toNat
    let r1 := { r with stream := { r.stream with head := head } }
    let s1 := setSlot (hlGot s 1 1) n { slotOf s n with occ := some r1 }
    let s2 := modReq (writeStream s1 n r1 2 0 r.out.tokensOut []) n (fun r => { r with stream := { r.stream with endSt := 2 } })
    (¬ (r.stream.endSt = 1 ∧ streamGoes s1 r1 = true) → exec (.streamHeadAdvance slot head) s = .next s1)
    ∧ (r.stream.endSt = 1 → streamGoes s1 r1 = true → exec (.streamHeadAdvance slot head) s = .next
        { s2 with haul := { s2.haul with streams := kdel s2.haul.streams n } })

/-- RETIRE_RELEASE (R97) of a committed request that has not released, none of whose commands still executes in an engine. In
general: what it holds is released, its stream is gone on with, and waits that the freed pages end are gone on with (R22, R55). One
without prefix, adapter and stream, written out up to those waits: it is marked released and holds no reservation and no staging,
its private KV pages and what peers sent for it go, and nothing else changes. One whose command still executes waits. -/
def Rows.RetireReleasesWhatARequestHolds : Prop :=
  ∀ (slot : BitVec 16) (s : State) (r : Req), alive s = true → reqOf s slot.toNat = some r → r.commit.isSome = true →
    r.released = false →
    let n := slot.toNat
    (inEngines s n = false → exec (.retireRelease slot) s = .next (settlePages (pumpStream (modReq (releaseReq s n r) n
      (fun r => { r with stream := { r.stream with endSt := if r.hasStream then 1 else 0 } })) n)))
    ∧ (inEngines s n = true → exec (.retireRelease slot) s = .next s)
    ∧ (inEngines s n = false → r.bind.pfx = none → r.bind.adapter = none → r.hasStream = false →
      ∃ t, exec (.retireRelease slot) s = .next (settlePages t)
        ∧ reqOf t n = some { r with
            released := true, steps := r.steps.map (fun x => { x with staging := none, bytes := 0 })
            gen := { r.gen with granted := false, resv := 0 }, stream := { r.stream with endSt := 0 } }
        ∧ (∀ j, j ≠ n → slotOf t j = slotOf s j)
        ∧ t = { s with
            slots := t.slots
            cage := { s.cage with pages := s.cage.pages.filter (fun p => !ofObj r.claim 1 n p.1) }
            adit := { s.adit with fetched := s.adit.fetched.filter (fun x => x.1.1 != n) } })

/-- COMPLETION_RECORD_WRITE (R84, R96) of a request that has committed, released and ended its stream, with no records
behind its own and no Watch arm left: its one record is put in its ring (or waits for a credit), and its slot is FREE with the
generation one up. -/
def Rows.CompletionFreesTheSlotWithANewGeneration : Prop :=
  ∀ (slot : BitVec 16) (s : State) (r : Req) (st : Nat), reach s = true →
    reqOf s slot.toNat = some r → r.commit = some st → r.released = true → (r.hasStream = true → r.stream.endSt = 2) →
    r.tail = [] → (∀ a ∈ s.watch.arms, a.slot ≠ slot.toNat) →
    exec (.completionRecordWrite slot) s = .next (setSlot (putRecord s (reqRecord r st)) slot.toNat
      { gen := (slotOf s slot.toNat).gen + 1, occ := none })

/-- A committed request releases, ends its stream and frees its slot. -/
def Obligations.RequestsEndStreamReleaseAndFree : Prop :=
  Rows.StreamHeadLetsADueEndRecordOut ∧ Rows.RetireReleasesWhatARequestHolds ∧ Rows.CompletionFreesTheSlotWithANewGeneration

/-- ABORT (R106). Of a request that is RUNNING in the tenant's name: it commits with ABORTED, the ABORT's own
record follows behind the request's, and no record is written yet; of one committed already the record with
NOT_FOUND_RETIRED (0x0D) follows behind it; of a handle that names none, NOT_FOUND_RETIRED is written at once. Slots, rings and
companion memory are as said, and the other slots are unchanged. -/
def Rows.AbortCommitsARunningRequest : Prop :=
  ∀ (d : Desc) (s : State) (o : Origin) (s1 : State), LineTaken s d 2 o s1 → commonZero d.line = true →
    zeroAt d.line 16 112 = true → tenantOk s1 d.claim o.tenant = true → o.req ≠ 0xFFFFFFFF →
    (∀ n r, targetOf s1 o.claim o.req = some (n, r) → r.tenant = o.tenant → r.commit = none →
      ∃ t, exec (.abort d) s = .next t
        ∧ reqOf t n = some { r with commit := some 2, tail := r.tail ++ [{ o := o, status := 0 }] }
        ∧ (∀ j, j ≠ n → slotOf t j = slotOf s1 j) ∧ (slotOf t n).gen = (slotOf s1 n).gen
        ∧ t.hl = s1.hl ∧ t.host = s1.host ∧ t.claims = s1.claims ∧ t.face = s1.face ∧ t.out = s1.out)
    ∧ (∀ n r, targetOf s1 o.claim o.req = some (n, r) → r.tenant = o.tenant → r.commit.isSome = true →
      exec (.abort d) s = .next (setSlot s1 n { slotOf s1 n with occ := some { r with
        tail := r.tail ++ [{ o := o, status := 0x0D }] } }))
    ∧ (targetOf s1 o.claim o.req = none → exec (.abort d) s = .next (done s1 o 0x0D 0))

/-- WATCH_ARM (R444) of a RUNNING request of the tenant, with a name of the claim's section that is of the
request's recipe, STEP in the range of its point, at least 64 bytes and fewer than 64 arms of the claim and 4 of that
tensor: the arm is added and nothing else changes. -/
def Rows.WatchArmIsAdded : Prop :=
  ∀ (d : Desc) (s : State) (o : Origin) (s1 : State) (n : Nat) (r : Req) (ws : List WatchName) (w : WatchName),
    LineAccepted s d 0x0F o s1 → zeroAt d.line 22 2 = true → zeroAt d.line 36 92 = true → o.req ≠ 0xFFFFFFFF →
    targetOf s1 o.claim o.req = some (n, r) → r.tenant = o.tenant → r.commit = none →
    ((cfgOf s1 o.claim).bind (·.watch)).map (·.sec) = some ws → ws[fld d.line 16 2]? = some w →
    some w.recipe = r.bind.recipeNo → watchStepOk s1 r w (fld d.line 18 4) = true → 64 ≤ fld d.line 32 4 →
    (s1.watch.arms.filter (fun a => a.claim == o.claim)).length < 64 →
    (s1.watch.arms.filter (armOf s1 n)).length < 4 →
    exec (.watchArm d) s = .next { s1 with watch := { s1.watch with arms := s1.watch.arms ++ [
      { claim := o.claim, slot := n, o := o, name := fld d.line 16 2, wname := w, step := fld d.line 18 4
        addr := fld d.line 24 8, bytes := fld d.line 32 4, fired := none }] } }

/-- RESERVED_OPCODE and RESERVED_MGMT_OPCODE (R77, R88, R479): an opcode of the wrong kind for its ring completes with
BAD_DESCRIPTOR and reason 0x02; a reserved opcode from 0x14 to 0x7F of a claim ring passes the checks of every opcode of a claim
ring, reasons 0x10 and 0x11, and the model gives it reason 0x16 (FIELD, log 21) after them. -/
def Rows.ReservedOpcodesAreRefused : Prop :=
  (∀ (d : Desc) (s : State) (o : Origin) (s1 : State) (op : Nat), LineTaken s d op o s1 → (claimOf s d.claim).st = 2 →
    (0x14 ≤ op → op < 0x80 → exec (.reservedOpcode d) s = .next (bad s1 o
      (if commonZero d.line = false then 0x10 else if tenantOk s1 d.claim o.tenant = false then 0x11 else 0x16)))
    ∧ (op = 0 ∨ 0x80 ≤ op → exec (.reservedOpcode d) s = .next (bad s1 o 0x02)))
  ∧ (∀ (m : MDesc) (s : State) (o : Origin) (s1 : State), admits s = true → m.line.length = 128 → m.poison = false →
    byteAt m.line 0 < 0x80 → byteAt m.line 1 = 1 → takeLine s ⟨4, false, 0⟩ false m.line = some (o, s1) →
    exec (.reservedMgmtOpcode m) s = .next (bad s1 o 0x02))

/-- ABORT, WATCH_ARM and opcodes of no command. -/
def Obligations.RequestsAreNamedByTheirHandle : Prop :=
  Rows.AbortCommitsARunningRequest ∧ Rows.WatchArmIsAdded ∧ Rows.ReservedOpcodesAreRefused

/-- RUN_RECIPE (R99 to R101) that passes the checks of step 4 without a prefix, of a recipe whose generator takes no
adapter, with the policer's tokens at hand: the request is admitted in its slot, RUNNING, bound to the recipe with its
PARAM words, the templates, the grammar, the pit and its epoch, and its first steps are issued; no completion record
is written by the admission itself. -/
def Rows.RunRecipeAdmitsARequest : Prop :=
  ∀ (d : Desc) (s : State) (o : Origin) (s1 s2 : State) (g : ClaimCfg) (q : RecipeSec),
    LineAccepted s d 1 o s1 → runRecipeZero d.line = true → slotRefusal s1 o = none →
    cfgOf s1 o.claim = some g → secOf g.recipes (byteAt d.line 28) = some q → runFields s1 o.claim q d.line = none →
    fld d.line 32 8 = 0xFFFFFFFFFFFFFFFF → (∀ m, q.genModel.bind (modelOf s1 o.claim) = some m → m.adapterMaxRank = 0) →
    debitPolicer s1 o.claim o.tenant q.policeCost = some s2 →
    let steps := takeParams (paramWords d.line) q.steps
    exec (.runRecipe d) s = .next (admitReq s2
      { claim := o.claim, tenant := o.tenant, opcode := 1, origin := o, desc := runDesc q d.line, steps := []
        bind := { recipeNo := some (byteAt d.line 28), recipe := some { q with steps := steps }
                  templates := boundTemplates s1 o.claim q steps, grammar := q.grammar.bind (secOf g.grammars)
                  grammarVer := (q.grammar.getD 0, ((q.grammar.bind (fun x => kget g.grammars x)).map (·.ver)).getD 0)
                  adapter := none, pfx := none, pfxLen := 0, pit := q.pit
                  epoch := (q.pit.map (fun p => (pitOf s1 o.claim p).live.p)).getD 0 } } (o.req % 65536))

/-- Step 4 of R99, in its order: a RUN_RECIPE of a slot outside the claim is refused with SLOT_RANGE (0x12), one of a slot that is
occupied with NO_SLOT (0x04), one of a wrong generation with reason 0x13 (GENERATION). -/
def Rows.RunRecipeIsRefusedByStatus : Prop :=
  ∀ (d : Desc) (s : State) (o : Origin) (s1 : State), LineAccepted s d 1 o s1 → runRecipeZero d.line = true →
    (slotIn s1 o.claim (o.req % 65536) = false → exec (.runRecipe d) s = .next (done s1 o 0x0C 0x12))
    ∧ (slotIn s1 o.claim (o.req % 65536) = true → (slotOf s1 (o.req % 65536)).occ.isSome = true →
      exec (.runRecipe d) s = .next (done s1 o 0x04 0))
    ∧ (slotIn s1 o.claim (o.req % 65536) = true → (slotOf s1 (o.req % 65536)).occ = none →
      (slotOf s1 (o.req % 65536)).gen.toNat ≠ o.req / 65536 → exec (.runRecipe d) s = .next (done s1 o 0x0C 0x13))

/-- RUN_RECIPE is admitted into its slot or refused by its status. -/
def Obligations.RecipesAreAdmittedOrRefused : Prop :=
  Rows.RunRecipeAdmitsARequest ∧ Rows.RunRecipeIsRefusedByStatus

/-- SEARCH_ONLY, FLAT_SCAN (R91, R148) of a free slot, with a pit of the claim, K from 1 to 1,024 and LABEL none, where
every query value is finite: the request is admitted with the query, its pit and the pit's epoch, and its search step
is issued. -/
def Obligations.SearchRequestsAreAdmitted : Prop :=
  ∀ (d : Desc) (query : List Byte) (s : State) (o : Origin) (s1 : State) (p : PitSec),
    slotRefusal s1 o = none → pitSecOf s1 o.claim (fld d.line 16 2) = some p →
    0 < fld d.line 18 2 → fld d.line 18 2 ≤ 1024 → fld d.line 32 4 = 0xFFFFFFFF → (queryValues p.dim query).2 = false →
    let r (op : Nat) : Req :=
      { claim := o.claim, tenant := o.tenant, opcode := op, origin := o
        desc := { label := none, resultAddr := fld d.line 40 8, resultBytes := fld d.line 48 4
                  filterBudget := fld d.line 36 4, k := fld d.line 18 2, beam := fld d.line 20 2 }
        bind := { pit := some (fld d.line 16 2), epoch := (pitOf s1 o.claim (fld d.line 16 2)).live.p }
        steps := [{ vec := (queryValues p.dim query).1 }, {}] }
    (LineAccepted s d 0x10 o s1 → zeroAt d.line 22 2 = true → zeroAt d.line 52 76 = true →
      exec (.searchOnly d query) s = .next (admitReq s1 (r 0x10) (o.req % 65536)))
    ∧ (LineAccepted s d 0x11 o s1 → zeroAt d.line 20 4 = true → zeroAt d.line 52 76 = true →
      exec (.flatScan d query) s = .next (admitReq s1 (r 0x11) (o.req % 65536)))

/-- PREFIX_CREATE (R219, R221) on a generator model that takes no adapter, with tokens of the model's vocabulary and room
for the prefix: the prefix is registered with one reference, the command waits for its prefill, and its pages are
created. -/
def Rows.PrefixCreateRegistersAPrefix : Prop :=
  ∀ (d : Desc) (tokens : List Byte) (s : State) (o : Origin) (s1 : State) (m : ModelSec),
    LineAccepted s d 3 o s1 → o.req = 0xFFFFFFFF → zeroAt d.line 29 1 = true → zeroAt d.line 36 92 = true →
    fld d.line 30 2 = 0xFFFF → modelOf s1 o.claim (byteAt d.line 28) = some m → m.kind = 0 → m.adapterMaxRank = 0 →
    let ts := prefixTokens none (fld d.line 24 4) tokens
    let h := (Config.prefixBase + s1.face.nextPrefix) % (2 ^ 64 - 1)
    let ks := prefixPages s1 o.claim (byteAt d.line 28) h ts.length
    ts ≠ [] → ts.length ≤ 1048576 → (∀ t ∈ ts, t < vocabSize s1 o.claim m.vocab) →
    (s1.face.prefixes.filter (fun p => p.2.claim == o.claim)).length < 512 * ownOf s1 o.claim (·.slotBlocks) →
    s1.face.prefixes.length < 32768 → ks.length ≤ prefixRoom s1 o.claim →
    exec (.prefixCreate d tokens) s = .next (ks.foldl (fun s k => createPage s k (.command o))
      { s1 with
        face := { s1.face with
          nextPrefix := s1.face.nextPrefix + 1
          prefixes := kset s1.face.prefixes h
            { claim := o.claim, tenant := o.tenant, model := byteAt d.line 28, len := ts.length, adapter := none
              refs := 1, released := false } }
        cmds := s1.cmds ++ [{ o := o, body := .prefixCreate (byteAt d.line 28) none ts h, begun := true, needs := []
                              count := 0, total := 0 }] })

/-- PREFIX_PREFILL_DONE and PREFIX_RELEASE (R219, R223, R225). When the generator and its draft model are READY, every page of
theirs, of the adapter version, of the tokens' embeddings and of the prefix is RESIDENT and the rows of KV are given: those pages
are used, the embeddings looked up, the KV of every token written, the prefix's pages unpinned, and the PREFIX_CREATE completes with
the handle in OPCODE_RESULT, its reference to the adapter version returned; where one of the models is BAD it ends with
DIGEST_BAD (0x06). A release of a prefix of the tenant marks it released, drops one reference (at 0 its pages go) and completes; of
any other handle it is refused with reason 0x15. -/
def Rows.PrefixesAreBuiltAndReleased : Prop :=
  (∀ (handle : W64) (kv : List KvRow) (s : State) (x : Cmd) (m : Nat) (ad : Option Nat) (ts : List Nat) (h : Nat), alive s = true →
    s.cmds.find? (·.creates handle.toNat) = some x → x.body = .prefixCreate m ad ts h →
    let c := x.o.claim
    let own := prefixPages s c m h ts.length
    let looks := prefixLooks s c m ts
    let uses := prefixUses s c m ad ts
    ((∀ g ∈ prefixModels s c m, kgetD s.face.models (c, g.1) 0 = 2) → (∀ k ∈ uses, isQuarantined s k = false) →
      looksReady s c looks = true → prefixGiven s c m ts.length kv = true → (∀ k ∈ uses, isResident s k = true) →
      (∀ k ∈ own, isResident s k = true) →
      let s2 := lookUps (uses.foldl touch (commandPages s x.o uses).1) c none looks
      let s3 := buildPrefix (writePrefix s2 c m h ts.length kv) c m h ts.length
      let s4 := { unpinPages s3 byCommand own with cmds := s3.cmds.filter (fun y => y != x) }
      exec (.prefixPrefillDone ⟨handle, kv⟩) s = .next (doneWith (match ad with
        | none => s4
        | some a => unrefAdapter s4 a) x.o (leBytes 8 h)))
    ∧ ((∃ g ∈ prefixModels s c m, kgetD s.face.models (c, g.1) 0 = 3) →
      exec (.prefixPrefillDone ⟨handle, kv⟩) s = .next (endCreate s x 0x06)))
  ∧ (∀ (d : Desc) (s : State) (o : Origin) (s1 : State), LineAccepted s d 4 o s1 → o.req = 0xFFFFFFFF →
    zeroAt d.line 24 104 = true →
    let h := fld d.line 16 8
    ((prefixOf s1 o.claim o.tenant h).isSome = true → exec (.prefixRelease d) s =
      .next (settlePages (done (unrefPrefix { s1 with face := { s1.face with
        prefixes := kmod s1.face.prefixes h (fun p => { p with released := true }) } } h) o 0 0)))
    ∧ (prefixOf s1 o.claim o.tenant h = none → exec (.prefixRelease d) s = .next (bad s1 o 0x15)))

/-- Prefixes are created, built and released. -/
def Obligations.PrefixesAreCreatedBuiltAndReleased : Prop :=
  Rows.PrefixCreateRegistersAPrefix ∧ Rows.PrefixesAreBuiltAndReleased

/-- ADAPTER_PUBLISH (R253 to R255) of an image whose header keeps R253, with a rank the model takes, a free version slot
of the claim and room in the ADAPTER pool: the version is put in the lowest free slot with one reference and its header, not
current, and each of its pages is created for the command, to be loaded from the address given. -/
def Rows.AdapterPublishQueuesTheImage : Prop :=
  ∀ (d : Desc) (header : List Byte) (s : State) (o : Origin) (s1 : State) (m : ModelSec) (i : Nat),
    LineAccepted s d 5 o s1 → o.req = 0xFFFFFFFF → zeroAt d.line 34 94 = true →
    modelOf s1 o.claim (byteAt d.line 32) = some m → m.kind = 0 → byteAt d.line 33 ≠ 0 →
    byteAt d.line 33 ≤ m.adapterMaxRank → adapterHeaderOk m (byteAt d.line 33) (fld d.line 24 8) header = true →
    let first := ownOf s1 o.claim (·.adapterFirst)
    let n := (fld d.line 24 8 - 128 + 65535) / 65536
    let a := kgetD s1.face.adapters (first + i) {}
    let v : AdapterVer :=
      { claim := o.claim, tenant := o.tenant, model := byteAt d.line 32, rank := byteAt d.line 33
        source := fld d.line 16 8, bytes := fld d.line 24 8, header := padTo 64 header, current := false, refs := 1 }
    let s2 := { s1 with face := { s1.face with adapters := kset s1.face.adapters (first + i) { a with ver := some v } } }
    (List.range (ownOf s1 o.claim (·.adapterCount))).find? (fun i => (kgetD s1.face.adapters (first + i) {}).ver.isNone)
      = some i →
    n ≤ poolPages s1 o.claim 3 - fencedFrames s1 o.claim 3 →
    exec (.adapterPublish d header) s = .next ((List.range n).foldl (fun s j =>
        createPage s ⟨o.claim, 3, adapterHandle s2 (first + i), j⟩ (.command o) (v.source + 128 + 65536 * j))
      { s2 with cmds := s2.cmds ++ [{ o := o, body := .adapterPublish (first + i), begun := true, needs := []
                                      count := 0, total := 0 }] })

/-- ADAPTER_LOAD_DONE and ADAPTER_WITHDRAW (R255, R256). When every page of a version is RESIDENT and the data channel carries the
image, its bytes are put into the pages, which the command no longer pins, it becomes the tenant's current one, the one before
loses that reference, and the ADAPTER_PUBLISH completes with its handle. MODE 0 of a
withdrawal stops new uses alone; MODE 1 also commits every request bound to the version with ADAPTER_WITHDRAWN
(0x08), and every PREFIX_CREATE that uses it, and the record counts them. -/
def Rows.AdapterVersionsBecomeCurrentAndAreWithdrawn : Prop :=
  (∀ (handle : W32) (image : List Byte) (s : State) (x : Cmd) (v : AdapterVer),
    let h := handle.toNat
    s.cmds.find? (·.publishes s h) = some x →
    adapterOf s h = some v → dataUp s v.claim = true → image.length = v.bytes →
    (∀ j < objectPages s v.claim 3 h, isResident s ⟨v.claim, 3, h, j⟩ = true) →
    let ks := (List.range (objectPages s v.claim 3 h)).map (fun j => (⟨v.claim, 3, h, j⟩ : PageKey))
    let s0 := (List.range ks.length).foldl (fun s j => modPage s ⟨v.claim, 3, h, j⟩ (fun p => { p with
      data := slice image (128 + 65536 * j) 65536, loaded := true })) (hlGot s 1 (granules v.bytes))
    let s1 := match currentAdapter s0 v.claim v.tenant with
      | none => unpinPages s0 byCommand ks
      | some old => notCurrent (unpinPages s0 byCommand ks) old
    exec (.adapterLoadDone ⟨handle, image⟩) s = .next (doneWith
      (modAdapter { s1 with cmds := s1.cmds.filter (fun y => y != x) } h (fun v => { v with current := true }))
      x.o (leBytes 4 h)))
  ∧ (∀ (d : Desc) (s : State) (o : Origin) (s1 : State) (v : AdapterVer), LineAccepted s d 6 o s1 →
    o.req = 0xFFFFFFFF → zeroAt d.line 21 107 = true →
    let h := fld d.line 16 4
    adapterOf s1 h = some v → v.claim = o.claim → v.tenant = o.tenant →
    s1.cmds.any (·.publishes s1 h) = false →
    let s2 := if v.current then notCurrent s1 h else s1
    (byteAt d.line 20 = 0 → exec (.adapterWithdraw d) s = .next (doneWith s2 o (countResult 0)))
    ∧ (byteAt d.line 20 = 1 → exec (.adapterWithdraw d) s =
        .next (doneWith ((createsOf s1 h).foldl (fun s x => endCreate s x 0x08)
          ((usersOf s1 h).foldl (fun s n => commitReq s n 0x08 0) s2)) o
          (countResult ((usersOf s1 h).length + (createsOf s1 h).length)))))

/-- Adapter versions are published, become current and are withdrawn. -/
def Obligations.AdaptersArePublishedAndWithdrawn : Prop :=
  Rows.AdapterPublishQueuesTheImage ∧ Rows.AdapterVersionsBecomeCurrentAndAreWithdrawn

/-- PIT_INSERT, PIT_DELETE, PIT_PUBLISH (R167, R168, R172, R178, R179) on a pit of the claim, with COUNT from 1 to 65,536:
the command joins those waiting and completes later; with none waiting, no unit of the pit fenced and, for the two that read
their items, the data channel open to the claim it begins at once: the items read are done in list order. -/
def Rows.PitCommandsAreTakenAndBegin : Prop :=
  ∀ (d : Desc) (items : List Byte) (s : State) (o : Origin) (s1 : State), o.req = 0xFFFFFFFF →
    (pitSecOf s1 o.claim (fld d.line 16 2)).isSome = true →
    let pit := fld d.line 16 2
    let addr := fld d.line 24 8
    let n := fld d.line 32 4
    let x (b : CmdBody) (k : Nat) : Cmd := { o := o, body := b, begun := false, needs := [], count := 0, total := k }
    (LineAccepted s d 7 o s1 → zeroAt d.line 18 6 = true → zeroAt d.line 36 92 = true → 0 < n → n ≤ 65536 →
      exec (.pitInsert d items) s = .next (addCmd s1 o (.pitInsert pit addr items) n)
      ∧ (s1.cmds = [] → dataUp s1 o.claim = true → cmdFence { s1 with cmds := [x (.pitInsert pit addr items) n] } (x (.pitInsert pit addr items) n) = none →
        exec (.pitInsert d items) s = .next (settleCmds 3
          (beginPitItems { s1 with cmds := [x (.pitInsert pit addr items) n] } (x (.pitInsert pit addr items) n) pit addr true items))))
    ∧ (LineAccepted s d 8 o s1 → zeroAt d.line 18 6 = true → zeroAt d.line 36 92 = true → 0 < n → n ≤ 65536 →
      exec (.pitDelete d items) s = .next (addCmd s1 o (.pitDelete pit addr items) n)
      ∧ (s1.cmds = [] → dataUp s1 o.claim = true → cmdFence { s1 with cmds := [x (.pitDelete pit addr items) n] } (x (.pitDelete pit addr items) n) = none →
        exec (.pitDelete d items) s = .next (settleCmds 3
          (beginPitItems { s1 with cmds := [x (.pitDelete pit addr items) n] } (x (.pitDelete pit addr items) n) pit addr false items))))
    ∧ (LineAccepted s d 9 o s1 → zeroAt d.line 18 110 = true →
      exec (.pitPublish d) s = .next (addCmd s1 o (.pitPublish pit) 0)
      ∧ (s1.cmds = [] → cmdFence { s1 with cmds := [x (.pitPublish pit) 0] } (x (.pitPublish pit) 0) = none →
        exec (.pitPublish d) s = .next (settleCmds 3
          (beginPublish { s1 with cmds := [x (.pitPublish pit) 0] } (x (.pitPublish pit) 0) pit))))

/-- EPOCH_RECORD_DURABLE (R179): when the upper-area pages of a begun PIT_PUBLISH are durable, P of the pit goes up by one
in one step, live, durable and in every change on its way, the publish completes with the new P, and a sweep starts where
one is due. -/
def Rows.EpochRecordAdvancesP : Prop :=
  ∀ (claim pit : Nat) (s : State) (x : Cmd), alive s = true →
    s.cmds.find? (fun x => x.begun && x.needs.isEmpty && x.o.claim == claim && x.body == .pitPublish pit) = some x →
    let p := (pitOf s claim pit).live.p + 1
    let s1 := modPit s claim pit (fun t => setEpoch t p)
    exec (.epochRecordDurable claim pit) s =
        .next (runCmds (startSweep (doneWith (dropCmd s1 x.o) x.o (leBytes 8 p)) claim pit))
      ∧ (pitOf s1 claim pit).live.p = p ∧ (pitOf s1 claim pit).dur.p = p

/-- Pit commands wait, begin in order, and a publish advances P. -/
def Obligations.PitCommandsBeginAndPublish : Prop :=
  Rows.PitCommandsAreTakenAndBegin ∧ Rows.EpochRecordAdvancesP

/-- LEDGER_ROW_WRITE, LEDGER_SWAP (R202, R204): on a ledger of the claim (and, for row writes, one that is not a SCATTER
ledger, with COUNT from 1 to 65,536) the command joins those waiting; with none waiting, no unit fenced and the data channel
open to the claim it begins at once. -/
def Rows.LedgerCommandsAreTakenAndBegin : Prop :=
  ∀ (d : Desc) (bytes : List Byte) (s : State) (o : Origin) (s1 : State) (sec : LedgerSec), o.req = 0xFFFFFFFF →
    ledgerSecOf s1 o.claim (byteAt d.line 16) = some sec →
    let l := byteAt d.line 16
    let w : Cmd := { o := o, body := .ledgerWrite l (fld d.line 24 8) bytes, begun := false, needs := [], count := 0
                     total := fld d.line 32 4 }
    let x : Cmd := { o := o, body := .ledgerSwap l bytes, begun := false, needs := [], count := 0, total := fld d.line 32 8 }
    (LineAccepted s d 0x0A o s1 → zeroAt d.line 17 7 = true → zeroAt d.line 36 92 = true → sec.scatter = false →
      0 < fld d.line 32 4 → fld d.line 32 4 ≤ 65536 →
      exec (.ledgerRowWrite d bytes) s = .next (addCmd s1 o w.body w.total)
      ∧ (s1.cmds = [] → dataUp s1 o.claim = true → cmdFence { s1 with cmds := [w] } w = none →
        exec (.ledgerRowWrite d bytes) s = .next (settleCmds 3 (beginRows { s1 with cmds := [w] } w l (fld d.line 24 8) bytes))))
    ∧ (LineAccepted s d 0x0B o s1 → zeroAt d.line 17 7 = true → zeroAt d.line 40 88 = true →
      exec (.ledgerSwap d bytes) s = .next (addCmd s1 o x.body x.total)
      ∧ (s1.cmds = [] → dataUp s1 o.claim = true → cmdFence { s1 with cmds := [x] } x = none →
        exec (.ledgerSwap d bytes) s = .next (settleCmds 3 (beginSwap { s1 with cmds := [x] } x l bytes))))

/-- LEDGER_SWAP_FLIP (R189, R204): with look-ups PAUSED (STATE 4), the batches started complete and the inactive area written, the
table read becomes the ledger's contents, live and durable, in the other area, with an AREA record in the journal of the die of its
lowest Seam; its Lode pages and row cache entries go, its bins return to
their placement, STATE is IDLE (1), the LEDGER_SWAP completes, and batches that waited go on. -/
def Rows.SwapFlipMakesTheNewTableActive : Prop :=
  ∀ (claim ledger : Nat) (s : State) (x : Cmd) (table : List Byte), alive s = true →
    s.cmds.find? (·.swaps claim ledger) = some x → x.body = .ledgerSwap ledger table →
    (ledgerOf s claim ledger).st = 4 → ledgerQuiet s claim ledger = true →
    let d := tableOf (1 - (ledgerOf s claim ledger).live.active) table
    let s1 := modGather (dropPages s (ofObj claim 5 ledger)) claim (fun g => { g with
      cache := g.cache.filter (fun e => e.ledger != ledger) })
    let die := ((ledgerSecOf s claim ledger).map (fun x => ((bitList 64 x.seamMask).headD 0) / 16)).getD 0
    let s2 := modLedger (journalRec s1 die) claim ledger (fun t => { t with live := d, dur := d, snaps := [], st := 1, bins := [], moves := [] })
    exec (.ledgerSwapFlip claim ledger) s =
        .next (runCmds (pumpPorts (done (dropCmd (pinResident s2 claim ledger) x.o) x.o 0 0)))
      ∧ (ledgerOf s2 claim ledger).live = d ∧ (ledgerOf s2 claim ledger).st = 1

/-- Ledger commands wait, begin in order, and a swap flips the table read. -/
def Obligations.LedgerCommandsBeginAndSwap : Prop :=
  Rows.LedgerCommandsAreTakenAndBegin ∧ Rows.SwapFlipMakesTheNewTableActive

/-- CAGE_PIN, CAGE_EVICT, CAGE_LOAD (R324 to R327). MODE 0 of a pin whose pages are none QUARANTINED and leave an eighth
of the pool unpinned, the pages that earlier pins have still to take counted too (the model's reading, log 127): each page is needed in the Lode tier, a RESIDENT one takes its command pin and a new stamp, and the command
waits for the rest; MODE 1 drops one command pin of each pinned page and completes with their count. An eviction of pages
neither PROMOTING nor pinned demotes those that can leave; a load with SOURCE 0 needs its pages, stamps those that are RESIDENT, and waits for the rest. -/
def Obligations.CageCommandsActOnTheNamedPages : Prop :=
  ∀ (d : Desc) (s : State) (o : Origin) (s1 : State) (ks : List PageKey), o.req = 0xFFFFFFFF →
    namedPages s1 o.claim o.tenant (fld d.line 16 8) (fld d.line 24 4) = some ks →
    let kind := byteAt d.line 23
    let pinned := dedup (((poolOf s1 o.claim kind).filter (fun q => decide (0 < q.2.cmd))).map (·.1) ++ pinsDue s1 o.claim kind)
    let total := pinned.length + (ks.filter (fun k => !pinned.contains k)).length
    (LineAccepted s d 0x0C o s1 → cagePinZero d.line = true →
      (byteAt d.line 28 = 0 → (∀ k ∈ ks, isQuarantined s1 k = false) →
        8 * total ≤ 7 * poolPages s1 o.claim kind →
        exec (.cagePin d) s = .next (waitCage (ks.foldl (fun s k =>
          if isResident (needPage s k (.command o)) k
          then touch (modPage (needPage s k (.command o)) k (fun p => { p with cmd := p.cmd + 1 })) k
          else needPage s k (.command o)) s1) o (.cagePin ks)))
      ∧ (byteAt d.line 28 = 1 →
        let on := ks.filter (isCmdPinned s1)
        exec (.cagePin d) s = .next (doneWith (on.foldl (fun s k => modPage s k (fun p => { p with cmd := p.cmd - 1 })) s1) o
          (countResult on.length))))
    ∧ (LineAccepted s d 0x0E o s1 → zeroAt d.line 28 4 = true → zeroAt d.line 40 88 = true → fld d.line 32 8 = 0 →
      (∀ k ∈ ks, isQuarantined s1 k = false) →
      exec (.cageLoad d) s = .next (waitCage (ks.foldl (fun s k =>
        if isResident (needPage s k (.command o)) k then touch (needPage s k (.command o)) k
        else needPage s k (.command o)) s1) o (.cageLoad ks)))
    ∧ (LineAccepted s d 0x0D o s1 → zeroAt d.line 28 100 = true →
      (∀ k ∈ ks, isBusy s1 k = false) →
      let out := ks.filter (canLeave s1)
      exec (.cageEvict d) s = .next (settlePools (waitCage (out.foldl leavePage s1) o (.cageEvict out))))

/-- GATHER_BATCH, SCATTER_BATCH (R194 to R198, R204, R205) of a running claim on a port it holds and that is in service, for a
ledger it holds, of a request that runs in the claim or of none, with at most 65,536 entries. Where nothing waits at the port to go
and the ledger is not PAUSED, the batch starts: a gather's rows are looked up, and the adds of a scatter on a ledger that takes them
go, in order, until one stalls at a full window; the batch is kept at its port until it has all gone and its rows are there, and is
delivered then. Otherwise it waits at its port, not started. All pairs of a scatter on a ledger that takes none are dropped, with
SCATTER_DROPPED. -/
def Rows.BatchesLookUpAndAddRows : Prop :=
  ∀ (claim ledger port : Nat) (slot : Option (BitVec 16)) (s : State), alive s = true → claimRuns s claim = true →
    portOk s claim port = true → (ledgerSecOf s claim ledger).isSome = true →
    (∀ n, slot = some n → ∃ r, running s n.toNat = some r ∧ r.claim = claim) →
    let free := ∀ x ∈ s.store.batches, ¬ (x.claim = claim ∧ x.port = port ∧ x.unsent = true)
    let g (rows : List Nat) : PortBatch :=
      { claim := claim, ledger := ledger, port := port, slot := slot.map (·.toNat), rows := rows, pairs := [] }
    let b (pairs : List (Nat × List Byte)) : PortBatch := { claim := claim, ledger := ledger, port := port, rows := [], pairs := pairs }
    (free → ledgerOpen s claim ledger = true →
      (∀ rows : List Nat, rows.length ≤ 65536 →
        let r := lookupAll s (g rows) rows
        exec (.gatherBatch claim ledger port ⟨slot, rows⟩) s =
          .next (keepBatch r.2.2 { g rows with started := true, rows := r.2.1, got := r.1 }))
      ∧ (∀ pairs : List (Nat × List Byte), pairs ≠ [] → pairs.length ≤ 65536 → scatters s claim ledger = true →
        let r := scatterAll s (b pairs) pairs
        exec (.scatterBatch claim ledger port pairs) s = .next (keepBatch r.2 { b pairs with started := true, pairs := r.1 })))
    ∧ (¬ free ∨ ledgerOpen s claim ledger = false →
      (∀ rows : List Nat, rows.length ≤ 65536 →
        exec (.gatherBatch claim ledger port ⟨slot, rows⟩) s = .next (keepBatch s (g rows)))
      ∧ (∀ pairs : List (Nat × List Byte), pairs ≠ [] → pairs.length ≤ 65536 → scatters s claim ledger = true →
        exec (.scatterBatch claim ledger port pairs) s = .next (keepBatch s (b pairs))))
    ∧ (∀ pairs : List (Nat × List Byte), pairs ≠ [] → pairs.length ≤ 65536 → scatters s claim ledger = false →
      exec (.scatterBatch claim ledger port pairs) s = .next (lgErr s 2))

/-- COALESCER_ENTRY_LEAVE, SKETCH_HALVING (R194 to R199). The one entry of a row whose page is RESIDENT leaves its window: the adds
combined in it are applied in order, its Lode ran a gather or scatter last, its page is used, the look-ups attached have the row,
which is offered to the row cache and may be pinned there, an old frame that waited for the fetch is free, and ports that stalled go
on. After 4,194,304 look-ups of a claim every sketch counter is halved, and pins of rows below half their threshold, or no longer
reachable, end. -/
def Rows.WindowEntriesLeaveAndSketchesHalve : Prop :=
  (∀ (unit claim ledger row : Nat) (s : State) (e : CoalEnt), alive s = true →
    (s.store.windows.getD unit []).filter (·.isFor claim ledger row) = [e] → isResident s (rowKey s claim ledger row) = true →
    let s1 := { s with store := { s.store with windows := lmod s.store.windows unit (fun w =>
      w.filter (fun e => !e.isFor claim ledger row)) } }
    let s2 := touch (e.adds.foldl (fun s a => scatterPair s claim ledger row a) (rowRan s1 claim ledger row)) (rowKey s claim ledger row)
    let s3 := serveAttached s2 claim ledger row (rowBytes (ledgerOf s2 claim ledger).live row)
    exec (.coalescerEntryLeave unit claim ledger row) s = .next (pumpPorts (leaveOld
      (if 0 < e.attached then pinHot (cacheRow s3 claim ledger row) claim ledger row else s3) claim ledger row)))
  ∧ (∀ (claim : Nat) (s : State), alive s = true → 4194304 ≤ (gatherOf s claim).lookups →
    let s1 := modGather s claim (fun g => { g with
      lookups := g.lookups - 4194304
      sketch := (g.sketch.map (fun x => (x.1, x.2 / 2))).filter (fun x => x.2 != 0) })
    let keep := fun (e : CacheEnt) =>
      decide ((((ledgerSecOf s claim e.ledger).map (·.hotThreshold)).getD 0 + 1) / 2
        ≤ sketchCount (gatherOf s1 claim) e.ledger e.row)
      && entryIs (ledgerOf s claim e.ledger).live e.ledger e.row e
    exec (.sketchHalving claim) s = .next (modGather s1 claim (fun g => { g with
      cache := g.cache.map (fun e => { e with pinned := e.pinned && keep e }) })))

/-- BIN_LOAD_WINDOW_END, BIN_MIGRATE_DONE (R200, R201). After 4,194,304 fetches of a claim each of its ledgers reports and
restarts its counts and plans its moves, and the window's fetches go down by that number. The first bin on the move is mapped to its
new Lode and counted, and its resident pages take frames there, where that Lode is in service with as many free ones of the pool, or
no page is to move; until then it waits. -/
def Rows.BinsAreCountedAndMigrate : Prop :=
  (∀ (claim : Nat) (s : State), alive s = true → 4194304 ≤ (gatherOf s claim).fetches →
    exec (.binLoadWindowEnd claim) s = .next (modGather
      (((s.store.ledgers.filter (fun x => x.1.1 == claim)).map (·.1.2)).foldl (fun s l => endLoadWindow s claim l) s)
      claim (fun g => { g with fetches := g.fetches - 4194304 })))
  ∧ (∀ (claim ledger b lode : Nat) (rest : List (Nat × Nat)) (s : State), alive s = true →
    (ledgerOf s claim ledger).moves = (b, lode) :: rest →
    let ks := binPages s claim ledger b lode
    let room := unitOk s 1 lode = true ∧ heldOn s claim 5 lode + ks.length ≤ poolShare s claim 5 lode ∧ ks.length ≤ freeFrames s claim 5
    (ks = [] ∨ room → exec (.binMigrateDone claim ledger) s = .next (settlePages (ks.foldl (fun s k => moveBinPage s claim ledger lode k)
        (modLedger s claim ledger (fun t => { t with
          bins := kset t.bins b lode, moves := rest, binsMoved := satAdd 32 t.binsMoved 1 })))))
    ∧ (ks ≠ [] → ¬ room → exec (.binMigrateDone claim ledger) s = .next s))

/-- Gathering, scattering, the coalescer, the sketch and the bins. -/
def Obligations.LedgersAreGatheredAndBinned : Prop :=
  Rows.BatchesLookUpAndAddRows ∧ Rows.WindowEntriesLeaveAndSketchesHalve ∧ Rows.BinsAreCountedAndMigrate

/-- SWEEP_RECORD_REPAIR, SWEEP_FREE (R181, R183). The next record of a sweep is repaired, its reads counted, and leaves the list, and
the sweep turns to FREEING (2) with the last; then its deleted nodes are freed and it ends. -/
def Rows.SweepsRepairThenFree : Prop :=
  (∀ (claim pit channel slot : Nat) (s : State) (w : Sweep) (sec : PitSec) (rest : List (Nat × Nat)), alive s = true →
    (pitOf s claim pit).sweep = some w → pitSecOf s claim pit = some sec → w.left = (channel, slot) :: rest → w.st = 1 →
    let r := repairRec sec (lostPages s sec.seamMask) w.dead channel slot (pitOf s claim pit).live
    let s1 := (changePit (modPit (countUnreads s r.unread) claim pit (fun t => countReads t r.reads)) claim pit r.data r.pages).2
    exec (.sweepRecordRepair claim pit channel slot) s = .next (modPit s1 claim pit (fun t => { t with
      sweep := some { w with left := rest, chan := (rest.head?.map (·.1)).getD channel
                             st := if rest.isEmpty then 2 else 1 } })))
  ∧ (∀ (claim pit : Nat) (s : State) (w : Sweep) (sec : PitSec), alive s = true →
    (pitOf s claim pit).sweep = some w → pitSecOf s claim pit = some sec → w.left = [] →
    let f := freeSwept sec w.dead (pitOf s claim pit).live
    exec (.sweepFree claim pit) s =
      .next (modPit (changePit s claim pit f.1 f.2).2 claim pit (fun t => { t with sweep := none })))

/-- HOT_NODE_WINDOW_END (R183, R185). At the end of a channel's window of 16,777,216 reads the nodes of the table that were read most
in the window are replicated and replicas of an overloaded channel migrate, the pages of new replicas are written, the table's counts
are halved, and the channel's reads and those of its nodes restart. -/
def Rows.HotWindowsReplicateAndMigrate : Prop :=
  ∀ (claim pit channel : Nat) (s : State) (sec : PitSec), alive s = true → pitSecOf s claim pit = some sec →
    sec.seamMask.testBit channel = true → 16777216 ≤ kgetD (pitOf s claim pit).reads channel 0 →
    let t := pitOf s claim pit
    let reads := fun (c : Nat) => kgetD t.reads c 0
    let mine := fun (h : (Nat × Nat) × Nat) => h.1.1 % 64 == channel
    let table := (sortBy (fun (a b : (Nat × Nat) × Nat) => decide (b.2 < a.2)) (t.hot.filter mine)).take 4096
    let seen := sortBy (fun (a b : (Nat × Nat) × Nat) => decide (b.2 < a.2)) (table.map (fun h => (h.1, kgetD t.window h.1 0)))
    let m := migrateHot sec (fun k => kgetD t.window k 0) reads channel (replicateHot sec seen reads channel t.live)
    let fresh := m.1.reps.filter (fun r => kget t.live.reps r.1 != some r.2)
    let pages := fresh.map (fun r => (r.1.1, repLpn sec r.1.1 r.1.2)) ++ fresh.map (fun r => (r.2.chan, nodeLpn sec r.2.chan r.2.slot))
    exec (.hotNodeWindowEnd claim pit channel) s = .next (modPit (changePit s claim pit m.1 pages).2 claim pit (fun t' => { t' with
      window := t.window.filter (fun h => !mine h)
      hot := (t.hot.filter (fun h => !mine h)) ++ (table.map (fun h => (h.1, h.2 / 2))).filter (fun h => h.2 != 0)
      reads := kset t.reads channel 0, migrated := satAdd 32 t.migrated m.2 }))

/-- Sweeps repair then free; hot nodes are replicated and migrate. -/
def Obligations.PitsAreSweptAndHotNodesMoved : Prop :=
  Rows.SweepsRepairThenFree ∧ Rows.HotWindowsReplicateAndMigrate

/-- FRAME_ALLOCATE (R305, R311, R314) of a pool that is not over its PAGES. The first allocation waiting on the pool takes a
frame where its placement finds one free; otherwise, with none on its way out, the pool's victim leaves the Lode tier for
it. -/
def Rows.FramesAreAllocatedInOrder : Prop :=
  ∀ (claim kind : Nat) (s : State) (k : PageKey) (p : Page), alive s = true →
    heldFrames s claim kind ≤ poolPages s claim kind - fencedFrames s claim kind →
    s.cage.allocs.find? (fun k => k.claim == claim && k.kind == kind) = some k → pageOf s k = some p →
    let drop := fun (s : State) => { s with cage := { s.cage with allocs := s.cage.allocs.filter (· != k) } }
    (∀ l, placeFor s k = some l →
      exec (.frameAllocate claim kind) s = .next (settlePages (grantFrame (drop s) k l)))
    ∧ (∀ v, placeFor s k = none → leaving s claim kind = 0 → victimOf s claim kind = some v → placeFor (demote s v) k = none →
      exec (.frameAllocate claim kind) s = .next (settlePages (demote s v)))
    ∧ (∀ v l, placeFor s k = none → leaving s claim kind = 0 → victimOf s claim kind = some v → placeFor (demote s v) k = some l →
      exec (.frameAllocate claim kind) s = .next (settlePages (grantFrame (drop (demote s v)) k l)))

/-- WRITEBACK_GRANULE_ACK, LOAD_DEADLINE_EXPIRE (R308, R318, R319). The acknowledged granule of a DEMOTING page lies at its place
of the HOST frame in companion memory and is no longer dirty; after the last one the page is LOWER and frees its frame, or RESIDENT where a reference cancelled the drop,
with the pins of the commands that waited for it. A
running request whose wait for a page has a deadline that passed commits with TIER_LATE (0x05), and CG_ERR.LATE and
its count say so. -/
def Rows.WriteBackEndsAndDeadlinesExpire : Prop :=
  (∀ (page : PageKey) (granule : Nat) (s : State) (p : Page), dataUp s page.claim = true → pageOf s page = some p →
    p.st = .demoting → nextGranule p = some granule →
    let s0 := putHost s (hostAddr s page (p.host.getD 0) + 128 * granule) (p.granule granule)
    let p1 := { p with dirty := p.dirty - 2 ^ granule, wbStart := true }
    ((nextGranule p1).isSome = true → exec (.writebackGranuleAck page granule) s = .next (setPage s0 page p1))
    ∧ (nextGranule p1 = none → p1.cancel = false → p1.dirty = 0 → exec (.writebackGranuleAck page granule) s =
        .next (settlePages (setPage s0 page { p1 with st := .lower, frame := none, wbStart := false, again := 0 })))
    ∧ (nextGranule p1 = none → (p1.cancel = true ∨ p1.dirty ≠ 0) → exec (.writebackGranuleAck page granule) s =
        .next (settlePages (setPage s0 page { p1 with
          st := .resident, cancel := false, wbStart := false, again := 0, bind := boundTo s page
          cmd := p.cmd + pinsTaken s page p.waiters, waiters := [] }))))
  ∧ (∀ (slot : BitVec 16) (page : PageKey) (s : State) (p : Page) (dl : Nat), alive s = true → linkUp s = true →
    pageOf s page = some p → Waiter.request slot.toNat dl ∈ p.waiters → dl ≠ 0 → (running s slot.toNat).isSome = true →
    exec (.loadDeadlineExpire slot page) s = .next (commitReq { s with cage := { s.cage with
      late := satAdd 24 s.cage.late 1, err := s.cage.err ||| 2 } } slot.toNat 0x05 0))

/-- Frames are allocated in order; write-backs end and load deadlines expire. -/
def Obligations.FramesAreAllocatedAndWrittenBack : Prop :=
  Rows.FramesAreAllocatedInOrder ∧ Rows.WriteBackEndsAndDeadlinesExpire

/-- PAGE_LOAD_DONE, PAGE_LOAD_UE (R311, R316, R321, R322) of a PROMOTING page read from its lower copy or from a recorded address,
the data channel carrying all but a ledger's. Done: the page is RESIDENT with no failures, holds what a recorded address gave, has
the pins that waited for it, and what waited goes on, a command's wait counting as a use; a KV page gives its HOST frame back and is
dirty in its valid granules; a model's last page has its digest checked. Uncorrectable: the load is
counted, the page frees its frame and is INVALID, or QUARANTINED at the third failure in a row, and every waiter ends
with TIER_UNCORRECTABLE (0x06). -/
def Rows.PageLoadsEndResidentOrInvalid : Prop :=
  ∀ (page : PageKey) (data : List Byte) (s : State) (p : Page), alive s = true → pageOf s page = some p → p.st = .promoting →
    p.copying = false →
    (page.kind = 5 ∨ dataUp s page.claim = true → p.src ≠ .alternate →
      let s1 := setPage (if page.kind = 5 then s else hlGot s 1 (granules 65536)) page { p with
        st := .resident, fails := 0, waiters := [], loaded := true, src := .lower
        bind := boundTo s page, cmd := p.cmd + pinsTaken s page p.waiters, passes := dedup (p.passes ++ waitSlots p.waiters)
        host := if page.kind = 1 then none else p.host
        data := if page.kind = 5 || p.src == .lower then p.data else data.take 65536
        dirty := if page.kind = 1 then p.valid else p.dirty }
      let s2 := if (waitSlots p.waiters).length < p.waiters.length then touch s1 page else s1
      exec (.pageLoadDone ⟨page, data⟩) s = .next (settlePages (if page.kind = 2 then checkModel s2 page.claim page.obj else s2)))
    ∧ (let s1 := faultEvent { s with cage := { s.cage with ueLoads := satAdd 24 s.cage.ueLoads 1, err := s.cage.err ||| 1 } }
        (if page.kind = 1 then 2 else 3) 0
      let s2 := setPage s1 page { p with
        st := .invalid, frame := none, fails := p.fails + 1, waiters := [], copying := false, buf := none, src := .lower }
      (p.fails < 2 → exec (.pageLoadUe page) s = .next (settlePages (endWaiters s2 p.waiters 0x06)))
      ∧ (2 ≤ p.fails → exec (.pageLoadUe page) s = .next (settlePages (endWaiters (quarantine s2 page) p.waiters 0x06))))

/-- LODE_DRAM_UE, PAGE_BUFFER_GRANT (R320, R330, R245). Uncorrectable data in the frame of a RESIDENT page is counted on
its Lode; a private KV page without a clean copy goes and its request commits with TIER_UNCORRECTABLE (0x06), a clean page with a lower copy is INVALID,
and loaded again for the commands that wait for it, which take their pins anew; a dirty shared page without another copy is QUARANTINED,
which ends those commands. The first request waiting for the page buffers of a Lode
gets as many of its 512 as are free for its HOST pages homed there, those of its own whose partials are formed returned first where
there are too few. -/
def Rows.DramErrorsAndPageBuffers : Prop :=
  (∀ (page : PageKey) (s : State) (p : Page) (l f : Nat), alive s = true → pageOf s page = some p → p.frame = some (l, f) →
    p.st = .resident →
    (page.kind = 1 → droppable page p = false → exec (.lodeDramUe page) s = .next (settlePages (commitReq (delPage
      (faultEvent { countLodeUe s l with face := { s.face with err := s.face.err ||| 4 } } 2 0) page) page.obj 0x06 0)))
    ∧ (hasLower page p = true → dirtyOf page p = 0 → exec (.lodeDramUe page) s =
        .next (settlePages (reloadPage (faultEvent (countLodeUe s l) 3 0) page { p with st := .invalid })))
    ∧ (page.kind = 4 ∨ page.kind = 5 → dirtyOf page p ≠ 0 → exec (.lodeDramUe page) s =
        .next (settlePages (losePage (faultEvent (countLodeUe s l) 3 0) page))))
  ∧ (∀ (lode n : Nat) (s : State) (d : LodeState) (rest : List Nat), alive s = true → s.cage.lodes[lode]? = some d →
    d.waiting = n :: rest →
    let want := (s.cage.pages.filter (fun q => q.1.kind == 1 && q.1.obj == n && q.2.st == .lower && !q.2.copying
      && !q.2.copied.contains n && bufferLode s q.1 == lode)).map (·.1)
    let s0 := if 512 < buffersOn s lode + want.length then freeBuffers s n lode else s
    let used := buffersOn s0 lode
    let got := want.take (512 - used)
    let s1 := got.foldl (fun s k => modPage s k (fun p =>
      addWaiter { p with copying := true, buf := some lode } (.request n (deadlineFor s k)))) s0
    used < 512 →
    exec (.pageBufferGrant lode) s = .next { s1 with cage := { s1.cage with lodes := lmod s1.cage.lodes lode (fun d =>
      { d with peak := max d.peak (used + got.length), waiting := if got.length < want.length then n :: rest else rest }) } })

/-- Page loads end RESIDENT or INVALID; uncorrectable Lode data acts by what the page holds. -/
def Obligations.LoadsEndAndDramErrorsAct : Prop :=
  Rows.PageLoadsEndResidentOrInvalid ∧ Rows.DramErrorsAndPageBuffers

/-- PAGE_READ_DONE, READ_REBUILD_DONE (R341, R342, R346, R348) of a mapped page of a Seam in service. The read of its block is counted;
a clean read does no more, a retried one sets RETRY (bit 0 of SM_ERR) and counts a corrected event, an undecodable one
puts the page under rebuild, and so does any read of a page on a retired die. The reads of a rebuild are counted on the blocks they
read. A rebuilt page is counted, sets REBUILT (bit 1) and is written again as a group of one page;
one that cannot be rebuilt is counted LOST (bit 2) and its map entry is LOST (2). -/
def Rows.NandReadsDecodeRetryOrRebuild : Prop :=
  (∀ (seam lpn : Nat) (s : State) (e : MapEnt), seamOk s seam = true → kget (seamOf s seam).map lpn = some e → e.st = 1 →
    let s1 := countBlockRead s seam e.place
    let rebuild := fun (s : State) => modSeam s seam (fun v => { v with rebuilds := dedup (v.rebuilds ++ [lpn]) })
    (dieLost s seam e.place = false →
      exec (.pageReadDone seam lpn .clean) s = .next (collect s1 seam)
      ∧ exec (.pageReadDone seam lpn .retried) s = .next (collect (faultEvent (smErr s1 seam 1) 1 0) seam)
      ∧ exec (.pageReadDone seam lpn .undecodable) s = .next (collect (rebuild (smErr s1 seam 1)) seam))
    ∧ (dieLost s seam e.place = true → ∀ r, exec (.pageReadDone seam lpn r) s = .next (collect (rebuild s) seam)))
  ∧ (∀ (seam lpn : Nat) (s : State) (e : MapEnt), seamOk s seam = true → (seamOf s seam).rebuilds.contains lpn = true →
    kget (seamOf s seam).map lpn = some e →
    let s1 := modSeam (countRebuild s seam e.place) seam (fun v => { v with rebuilds := v.rebuilds.filter (· != lpn) })
    exec (.readRebuildDone seam lpn true) s = .next (issueGroup (faultEvent (smErr
        (modDie s1 (seam / 16) (fun d => { d with rebuilt := satAdd 24 d.rebuilt 1 })) seam 2) 1 0) seam [lpn] none).2
    ∧ exec (.readRebuildDone seam lpn false) s = .next (modSeam
        (smErr (modDie s1 (seam / 16) (fun d => { d with lost := satAdd 24 d.lost 1 })) seam 4)
        seam (fun v => { v with map := kmod v.map lpn (fun e => { e with st := 2 }) })))

/-- PAGE_PROGRAM_DONE, STRIPE_FILL, PROGRAM_FAIL (R338, R339, R346, R347). A queued page that may be programmed is marked
programmed and counted, and durable groups are noted. The open stripe of a die group, when it holds pages, is filled with FILLER pages. A failed program sets PROGRAM_FAIL (bit 3 of SM_ERR), closes its superblock, queues the
pages of its group and of its stripe anew and retires the block. -/
def Rows.ProgramsCompleteFillOrFail : Prop :=
  (∀ (seam seq : Nat) (s : State) (q : QPage), dieFinishes s seam = true → kget (seamOf s seam).queue seq = some q →
    q.done = false → mayProgram s seam q = true →
    exec (.pageProgramDone seam seq) s = .next (afterSeam (modDie
      (modSeam s seam (fun v => { v with queue := kset v.queue seq { q with done := true } }))
      (seam / 16) (fun d => { d with spanPages := d.spanPages + 1 })) seam)
    ∧ (let v := seamOf s seam
       let gi := q.place.die / 8
       let s1 := modSeam (faultEvent (smErr s seam 8) 1 0) seam (fun v => { v with dgs := lmod v.dgs gi (fun g => { g with
         sbs := kmod g.sbs q.place.block (fun b => { b with st := 2, stripe := max b.stripe (q.place.page + 1), fill := 0 }) }) })
       exec (.programFail seam seq) s = .next (afterSeam (retireBlock (requeue s1 seam (failedPages v seq q)) seam gi q.place.die q.place.block) seam)))
  ∧ (∀ (seam group b : Nat) (s : State) (x : Sb), dieRuns s seam = true →
    openSb ((seamOf s seam).dgs.getD group {}) = some b →
    kgetD ((seamOf s seam).dgs.getD group {}).sbs b ⟨1, 0, 0, [], false⟩ = x → 0 < x.fill →
    exec (.stripeFill seam group) s = .next (afterSeam (fillStripe 8 s seam group b x.stripe) seam))

/-- ERASE_DONE, ERASE_FAIL, COLLECTION_COPY_DURABLE (R344, R347) of a superblock under collection with nothing valid
left. Erased, when no block of it is still to be replaced, it leaves the superblocks in use, the erase count of each of its blocks goes up
by one, no victim is left, and an ERASE record is journalled; a block that does not erase sets ERASE_FAIL (bit 4 of SM_ERR) and is
retired. A durable copy whose page still
maps to its source becomes the page's place. -/
def Rows.CollectionErasesAndMovesPages : Prop :=
  (∀ (seam group sb die : Nat) (s : State), dieRuns s seam = true →
    ((seamOf s seam).dgs.getD group {}).victim = some sb → emptied (seamOf s seam) group sb = true →
    (retiring s seam group sb = false → exec (.eraseDone seam group sb) s = .next (afterSeam (journalRec (modSeam s seam (fun v => { v with
      dgs := lmod v.dgs group (fun g => { g with
        sbs := kdel g.sbs sb, victim := none
        erases := kset g.erases sb (kgetD g.erases sb 0 + 1)
        blocks := g.blocks.map (fun x => if x.1.1 = sb then (x.1, x.2 + 1) else x) }) })) (seam / 16)) seam))
    ∧ (die / 8 = group → exec (.eraseFail seam group sb die) s =
        .next (retireBlock (faultEvent (smErr s seam 16) 1 0) seam group die sb)))
  ∧ (∀ (seam lpn : Nat) (s : State) (c : GPage × FlashPlace) (e : MapEnt), dieRuns s seam = true →
    (seamOf s seam).copies.find? (fun c => c.1.lpn == lpn) = some c → kget (seamOf s seam).map lpn = some e → e.place = c.2 →
    let s1 := modSeam s seam (fun v => { v with copies := v.copies.filter (fun x => x != c) })
    kget (seamOf s1 seam).map lpn = some e →
    exec (.collectionCopyDurable seam lpn) s = .next (collect (journalRec
      (modSeam s1 seam (fun v => { v with map := kset v.map lpn ⟨1, c.1.place, c.1.seq⟩ })) (seam / 16)) seam))

/-- NAND reads, programs, erases, fills and collection copies. -/
def Obligations.NandOperationsComplete : Prop :=
  Rows.NandReadsDecodeRetryOrRebuild ∧ Rows.ProgramsCompleteFillOrFail ∧ Rows.CollectionErasesAndMovesPages

/-- DIE_FAILURE (R348): the die of a Seam is retired whole, the Seam is DEGRADED (bit 5 of SM_ERR) and its pages are
relocated; where the group no longer holds them, or has lost a second die, the Seam is fenced with cause 8. A die retired
already stays as it is. -/
def Obligations.DieFailureDegradesTheSeam : Prop :=
  ∀ (seam die : Nat) (s : State), dieRuns s seam = true → die / 8 < dieGroups →
    let g := (seamOf s seam).dgs.getD (die / 8) {}
    let s1 := modSeam (smErr s seam 0x20) seam (fun v => { v with
      dgs := lmod v.dgs (die / 8) (fun g => { g with dead := g.dead ||| 2 ^ (die % 8) }) })
    (g.dead = 0 → groupHolds (seamOf s1 seam) (die / 8) = true →
      exec (.dieFailure seam die) s = .next (collect s1 seam))
    ∧ (g.dead.testBit (die % 8) = false → (g.dead ≠ 0 ∨ groupHolds (seamOf s1 seam) (die / 8) = false) →
      exec (.dieFailure seam die) s = .next (fenceUnit (collect s1 seam) ⟨3, seam⟩ 8))
    ∧ (g.dead.testBit (die % 8) = true → exec (.dieFailure seam die) s = .next s)

/-- JOURNAL_STRIPE_PROGRAM, CHECKPOINT_START, CHECKPOINT_DONE (R349, R350) of a die that runs. A programmed stripe takes up
to 7 pages of 16 KiB from the buffer, counts itself, takes 8 SEQs and brings the events of its synchronous records about: a
checkpoint of the Seam named begins, with the span restarted, or the one under way is over. The next Seam to be checkpointed, or the
first where checkpoints have come due, gets a CKPT_START record; when its map is written, in pages that took their SEQs, a
CKPT_END record. -/
def Obligations.JournalAndCheckpointsGoOn : Prop :=
  ∀ (die : Nat) (s : State), alive s = true → die < 4 → (dieOf s die).st = 2 →
    (0 < (dieOf s die).journal →
      let s1 := modDie s die (fun d => { d with
        journal := d.journal - 7 * 16384, spanStripes := d.spanStripes + 1, spanPages := d.spanPages + 8, seq := d.seq + 8 })
      exec (.journalStripeProgram die) s = .next (modDie (journalDone s1 die) die (fun d => { d with syncs := [] }))
      ∧ ((∃ i, (dieOf s die).syncs = [.ckptStart i]) → die < s.flash.dies.length →
        let d := dieOf (modDie (journalDone s1 die) die (fun d => { d with syncs := [] })) die
        (dieOf s die).syncs = (d.ckpt.map SyncRec.ckptStart).toList ∧ d.spanPages = 0 ∧ d.spanStripes = 0)
      ∧ ((dieOf s die).syncs = [.ckptEnd] → die < s.flash.dies.length →
        (dieOf (modDie (journalDone s1 die) die (fun d => { d with syncs := [] })) die).ckpt = none))
    ∧ (∀ i rest, (dieOf s die).todo = i :: rest ∨ ((dieOf s die).todo = [] ∧ ckptDue (dieOf s die) = true ∧ i :: rest = List.range 16) →
      (dieOf s die).ckpt = none → ckptWaits (dieOf s die) = false →
      exec (.checkpointStart die) s = .next (journalSync (modDie s die (fun d => { d with todo := rest })) die (.ckptStart i)))
    ∧ ((dieOf s die).ckpt.isSome = true → ckptWaits (dieOf s die) = false →
      exec (.checkpointDone die) s = .next (journalSync (modDie s die (fun d => { d with
        seq := d.seq + Config.ckptPages, spanPages := d.spanPages + Config.ckptPages, star := max d.star d.water })) die .ckptEnd))

/-- SEAM_RECOVERY (R352 to R354): a RECOVERING die recovers its 16 Seams, by TAIL_CLOSE (RECOVERY 1) or in full
(2, with HOLDUP_FAIL, bit 6 of SM_ERR), runs, takes groups again with its tail open and the highest watermark its programmed pages carry, and a checkpoint of each Seam
is due; claims that waited for it start. -/
def Obligations.RecoveryBringsADieUp : Prop :=
  ∀ (die : Nat) (s : State), alive s = true → die < 4 → (dieOf s die).st = 1 →
    let s1 := { s with flash := { s.flash with
      seams := s.flash.seams.map (fun x => if x.1 / 16 = die then (x.1, recoverSeam x.2) else x) } }
    exec (.seamRecovery die) s = .next (goStarts ((List.range 16).foldl (fun s i => collect s (16 * die + i)) (modDie s1 die (fun d => { d with
      st := 2, recovery := if d.tailClosed then 1 else 2, progress := 100, admits := true, ckpt := none, todo := List.range 16
      spanPages := 0, spanStripes := 0, journal := 0, syncs := [], water := d.star
      err := if d.tailClosed then d.err else d.err ||| 0x40, tailClosed := false }))))

/-- FENCE, UNFENCE (R421, R425, R472, R474) of a unit of this module. A unit in service is fenced with cause 1 (HOST) and
the requests it ended are in OPCODE_RESULT; a fenced one completes with 0; one in an UNFENCE's test waits for it. UNFENCE
of a FENCED unit whose cause is not DEGRADED powers it and puts it in TESTING (3); of one that is not fenced it is refused
with 0x22, and of a degraded one with 0x23. -/
def Obligations.UnitsAreFencedAndUnfenced : Prop :=
  ∀ (m : MDesc) (s : State) (o : Origin) (s1 : State) (u : UnitId), namedUnit (fld m.line 16 4) = some u →
    unitZero m.line = true →
    (MgmtAccepted s m 0x83 o s1 →
      (kget s1.hf.unfences u = none → fenceSt s1 u ≠ 2 →
        let s2 := fenceUnit s1 u 1
        exec (.fence m) s = .next (doneWith s2 o (leBytes 4 (((kget s2.hf.fences u).map (·.ended)).getD 0))))
      ∧ (kget s1.hf.unfences u = none → fenceSt s1 u = 2 → exec (.fence m) s = .next (doneWith s1 o [0, 0, 0, 0]))
      ∧ ((kget s1.hf.unfences u).isSome = true → exec (.fence m) s =
          .next { s1 with hf := { s1.hf with fenceWaits := s1.hf.fenceWaits ++ [(u, o)] } }))
    ∧ (MgmtAccepted s m 0x84 o s1 →
      (fenceSt s1 u = 2 → ((kget s1.hf.fences u).map (·.cause)).getD 0 ≠ 8 →
        let s2 := setFenceSt { s1 with hf := { s1.hf with unfences := kset s1.hf.unfences u o } } u 3
        exec (.unfence m) s = .next (match wholeDomain u with
          | some d => switchDomain s2 (d, true)
          | none => s2))
      ∧ (fenceSt s1 u ≠ 2 → exec (.unfence m) s = .next (bad s1 o 0x22))
      ∧ (fenceSt s1 u = 2 → ((kget s1.hf.fences u).map (·.cause)).getD 0 = 8 → exec (.unfence m) s = .next (bad s1 o 0x23)))

/-- UNIT_FAULT, GATE_HANG_TIMEOUT, MODULE_FATAL_ERROR (R416, R421, R424, R430) while the block runs. A unit that reports
parity (2, other than an array), SRAM, self-test or degradation is fenced with that cause; an array that misses the floor
(4) is retired, another unit gives way to its claim's spare or is fenced, and a fenced one stays so; a hung unit is fenced with cause 6; a module-fatal cause from 1 to 8 is latched. -/
def Rows.FaultsFenceRetireOrLatch : Prop :=
  ∀ (u : UnitId) (s : State), alive s = true →
    (u.idx < unitCount u.cls →
      (∀ cause ∈ [3, 5, 8], exec (.unitFault u cause) s = .next (fenceUnit s u cause))
      ∧ (u.cls ≠ 0 → exec (.unitFault u 2) s = .next (fenceUnit s u 2))
      ∧ (u.cls = 0 → fenceSt s u ≠ 2 → exec (.unitFault u 4) s = .next (retire s u))
      ∧ (u.cls ≠ 0 → fenceSt s u ≠ 2 → exec (.unitFault u 4) s = .next (replaceUnit s u))
      ∧ (fenceSt s u = 2 → exec (.unitFault u 4) s = .next s)
      ∧ exec (.gateHangTimeout u) s = .next (fenceUnit s u 6))
    ∧ (∀ cause v, 1 ≤ cause → cause ≤ 8 → exec (.moduleFatalError cause v) s = .next (moduleFatal s cause v)
      ∧ (moduleFatal s cause v).boot.fatalCause = cause)

/-- HUB_SRAM_UE (R110, R261, R418): the errors that the SRAM has corrected since are counted, and the error acts by what the SRAM
holds; an SRAM with spare lines left uses one, and with none left the unit that owns the line is fenced with cause 3. A staging buffer's request commits with UNIT_FENCED (9), and the tensors of it that wait for their dump are poisoned. -/
def Rows.SramErrorsUseSpareLines : Prop :=
  ∀ (u : SramUse) (corrected : Nat) (s : State), alive s = true →
    let s1 := sramEffect (correctedErrors s u corrected) u
    (sramOwner s u = none → exec (.hubSramUe ⟨u, corrected⟩) s = .next s1)
    ∧ (∀ x k n, sramOwner s u = some (x, k, n) → kgetD s1.hf.sramUsed k 0 < n → exec (.hubSramUe ⟨u, corrected⟩) s =
        .next { s1 with hf := { s1.hf with sramUsed := kset s1.hf.sramUsed k (kgetD s1.hf.sramUsed k 0 + 1) } })
    ∧ (∀ x k n, sramOwner s u = some (x, k, n) → n ≤ kgetD s1.hf.sramUsed k 0 → exec (.hubSramUe ⟨u, corrected⟩) s = .next (fenceUnit s1 x 3))
    ∧ (∀ g slot, u = .staging g slot → corrected = 0 → (running s slot.toNat).isSome = true →
        s1 = commitReq (faultEvent (poisonDumps s slot.toNat) 2 (unitDetail ⟨0xF, g⟩ 3)) slot.toNat 9 (unitDetail ⟨0xF, g⟩ 3))

/-- COMPANION_READ_POISON (R480) while the block reaches the companion: POISON_RX (bit 5 of HL_ERR_STATUS) is set; the
running request whose read it was commits with status 6; a waiting command ends with the items it has finished. -/
def Rows.PoisonedReadsEndTheirReader : Prop :=
  ∀ (s : State), alive s = true → linkUp s = true →
    let s0 := faultEvent { s with hl := { s.hl with err := s.hl.err ||| 0x20 } } 2 0
    (∀ slot : BitVec 16, (running s slot.toNat).isSome = true →
      exec (.companionReadPoison (.request slot)) s = .next (commitReq s0 slot.toNat 6 0))
    ∧ (∀ g i x, s.cmds.find? (fun x => x.o.claim == (ringIdOf g false).claim && x.o.ring == (ringIdOf g false).idx
        && x.o.index == i.toNat) = some x →
      exec (.companionReadPoison (.command g i)) s = .next (runCmds (endPoisoned s0 x)))

/-- Unit faults, hub SRAM errors, module-fatal errors and poisoned reads. -/
def Obligations.FaultsActByTheirClass : Prop :=
  Rows.FaultsFenceRetireOrLatch ∧ Rows.SramErrorsUseSpareLines ∧ Rows.PoisonedReadsEndTheirReader

/-- IMAGE_LOAD, IMAGE_ADJUST (R44, R46, R50, R56): with no load under way, an image whose header passes step 2 of R44 is
being read (LOAD_STATE 1); one whose header fails is refused with the code of the first check that fails; a second
IMAGE_LOAD meanwhile completes with BUSY_RETRY (0x0E), as does an IMAGE_ADJUST while one of its claim is under way; one of an ENDING
claim is refused with STATE (R108). -/
def Rows.ImagesAreTakenOneAtATime : Prop :=
  (∀ (m : MDesc) (header : List Byte) (s : State) (o : Origin) (s1 : State), MgmtAccepted s m 0x80 o s1 →
    zeroAt m.line 32 96 = true →
    let h := padTo 64 header
    let j := newJob o true h (fld m.line 24 8)
    let s2 := setJob { hlGot s1 2 (granules (min (fld m.line 24 8) 64)) with hf := { s1.hf with loadState := 1 } } 4 (some j)
    (s1.hf.load = none → (∀ code, step2 s1 none h (fld m.line 24 8) ≠ .error code) →
      exec (.imageLoad m header) s = .next s2)
    ∧ (∀ code, s1.hf.load = none → step2 s1 none h (fld m.line 24 8) = .error code →
      exec (.imageLoad m header) s = .next (refuseJob s2 4 j code))
    ∧ (s1.hf.load.isSome = true → exec (.imageLoad m header) s = .next (done s1 o 0x0E 0)))
  ∧ (∀ (d : Desc) (header : List Byte) (s : State) (o : Origin) (s1 : State), LineTaken s d 0x12 o s1 →
    commonZero d.line = true → tenantOk s1 d.claim o.tenant = true → zeroAt d.line 32 96 = true → o.req = 0xFFFFFFFF →
    let h := padTo 64 header
    let j := newJob o false h (fld d.line 24 8)
    ((claimOf s1 o.claim).st = 3 → exec (.imageAdjust d header) s = .next (refuseJob s1 o.claim j cdState))
    ∧ ((claimOf s1 o.claim).st ≠ 3 → (claimOf s1 o.claim).adjust.isSome = true →
      exec (.imageAdjust d header) s = .next (done s1 o 0x0E 0))
    ∧ ((claimOf s1 o.claim).st ≠ 3 → (claimOf s1 o.claim).adjust = none → (∀ code, step2 s1 (some o.claim) h (fld d.line 24 8) ≠ .error code) →
      exec (.imageAdjust d header) s = .next (setJob s1 o.claim (some j)))
    ∧ (∀ code, (claimOf s1 o.claim).st ≠ 3 → (claimOf s1 o.claim).adjust = none → step2 s1 (some o.claim) h (fld d.line 24 8) = .error code →
      exec (.imageAdjust d header) s = .next (refuseJob s1 o.claim j code)))

/-- IMAGE_VERIFY_DONE, IMAGE_APPLY_DONE (R44 steps 3 to 7, R453) with the image as read in full over the management channel. D1 is
the SHA-512 of all but its last 132 bytes, and LOAD_STATE becomes VERIFYING (2); a signature that verifies under a PROGRAMMED key
slot passes the load on to its second pass (LOAD_STATE 3), and one that does not refuses it with SIGNATURE, or with KEY where a
REVOKED slot verifies it. The second pass commits an image whose bytes give the same digest and header and whose sections keep every
rule, those of its base first where it is a DELTA; an image that changed is refused with CHANGED. -/
def Rows.ImagesAreVerifiedThenCommitted : Prop :=
  ∀ (job : Nat) (image : List Byte) (s : State) (j : LoadJob), reach s = true → hlCan s 2 5 = true → job ≤ 4 →
    jobOf s job = some j →
    let s1 := hlGot s 2 (granules image.length)
    (j.phase = 1 → image.length = j.len →
      let j1 := { j with phase := 4, d1 := sha512 (image.take (j.len - 132)), sig := image.drop (j.len - 132) }
      let read := setJob (setLoadState s1 job 2) job (some j1)
      exec (.imageVerifyDone job ⟨image, false⟩) s = .next read
      ∧ exec (.imageVerifyDone job ⟨image, true⟩) s = .next (checkSignature read job))
    ∧ (j.phase = 4 →
      (∀ i, verifySlot s 1 j.d1 j.sig = some i → exec (.imageVerifyDone job ⟨image, true⟩) s =
        .next (setJob (setLoadState s job 3) job (some { j with phase := 2, keySlot := i })))
      ∧ (verifySlot s 1 j.d1 j.sig = none → exec (.imageVerifyDone job ⟨image, true⟩) s =
          .next (refuseJob s job j (if (verifySlot s 2 j.d1 j.sig).isSome then cdKey else cdSignature))))
    ∧ (j.phase = 2 → image.length = j.len →
      let base : Chk Unit := if j.kind = 2 then
        baseRules s1 (if job = 4 then none else some job) j.claim j.imageId (fld j.header 32 2) else .ok ()
      (∀ es cfg, base.bind (fun _ => shadowCfg s1 j image) = .ok (es, cfg) →
        (sha512 (image.take (j.len - 132)) = j.d1 → image.take 64 = j.header →
          exec (.imageApplyDone job image) s = .next (goStarts (commitJob s1 job j es cfg)))
        ∧ (sha512 (image.take (j.len - 132)) ≠ j.d1 ∨ image.take 64 ≠ j.header →
          exec (.imageApplyDone job image) s = .next (refuseJob s1 job j cdChanged)))
      ∧ (∀ code, base.bind (fun _ => shadowCfg s1 j image) = .error code →
        exec (.imageApplyDone job image) s = .next (refuseJob s1 job j code)))

/-- An image is taken, verified and committed, or refused with the first check it fails. -/
def Obligations.ImagesAreTakenVerifiedAndCommitted : Prop :=
  Rows.ImagesAreTakenOneAtATime ∧ Rows.ImagesAreVerifiedThenCommitted

/-- CLAIM_START (R47, R357, R473, R474) of a claim 0 to 3 with none under way: while an image load holds it back it waits;
otherwise a LOADED claim starts: its units are powered in ascending order, its links train and its incarnation advances;
a claim that is not LOADED is refused with 0x20. A RUNNING claim is ENDING (3) from CLAIM_END on, with a leaving notice on
its links; of another claim that is not ENDING it is refused with 0x20, and of an ENDING one completes with 0x0E. -/
def Rows.ClaimsStartAndEnd : Prop :=
  ∀ (m : MDesc) (s : State) (o : Origin) (s1 : State), claimFieldZero m.line = true → byteAt m.line 16 ≤ 3 →
    let c := byteAt m.line 16
    (MgmtAccepted s m 0x81 o s1 → (claimOf s1 c).starting = none →
      (loadHolds s1 c = true → exec (.claimStart m) s = .next (modClaim s1 c (fun x => { x with starting := some ⟨o, 0⟩ })))
      ∧ (loadHolds s1 c = false → exec (.claimStart m) s = .next (goStarts (beginStart s1 c o)))
      ∧ ((claimOf s1 c).st ≠ 1 → beginStart s1 c o = bad s1 o 0x20))
    ∧ (MgmtAccepted s m 0x82 o s1 →
      ((claimOf s1 c).st = 2 → exec (.claimEnd m) s =
        .next (sendLeaving (modClaim s1 c (fun x => { x with st := 3, ending := some o })) c))
      ∧ ((claimOf s1 c).st = 3 → exec (.claimEnd m) s = .next (done s1 o 0x0E 0))
      ∧ ((claimOf s1 c).st < 2 → exec (.claimEnd m) s = .next (bad s1 o 0x20)))

/-- CLAIM_END_DRAINED (R195, R358): when no request, command, adjustment, Watch arm, batch or self-test of an ENDING claim is left,
its SCATTER ledgers are written back; once that is durable its objects are released, and with no deferred self-test it returns to
LOADED and its CLAIM_END completes. -/
def Rows.DrainedClaimsReturnToLoaded : Prop :=
  ∀ (claim : Nat) (s : State), alive s = true → claim < 4 → (claimOf s claim).st = 3 →
    (∀ r ∈ requests s, r.2.claim ≠ claim) → (∀ x ∈ s.cmds, x.o.claim ≠ claim) → (claimOf s claim).adjust = none →
    (∀ a ∈ s.watch.arms, a.claim ≠ claim) → gathersLeft s claim = false → testsLeft s claim = false →
    let s0 := writeBack s claim
    (ledgersSettled s0 claim = false → exec (.claimEndDrained claim) s = .next s0)
    ∧ (ledgersSettled s0 claim = true → (releaseClaim s0 claim).power.deferred = [] →
      exec (.claimEndDrained claim) s = .next (finishEnd (releaseClaim s0 claim) claim))

/-- Claims start, end and drain. -/
def Obligations.ClaimsStartEndAndDrain : Prop :=
  Rows.ClaimsStartAndEnd ∧ Rows.DrainedClaimsReturnToLoaded

/-- R456. The store keeps the most recent 4,096 entries: a new entry is put behind the others, with the oldest dropped where
the store is full; M covers it and all before it; FIRST_SEQ is the SEQ of the oldest entry kept, and every entry stands at its
SEQ; ATTEST with MODE 2 writes the entries from FROM_SEQ, or from FIRST_SEQ where FROM_SEQ is below it, in order, as many as fit. -/
def Rows.LogKeepsTheMostRecentEntries : Prop :=
  (∀ (s : State) (typ claim a0 a1 : Nat) (digest : List Byte),
    let t := extendLog s typ claim a0 a1 digest
    let e := leBytes 8 s.sec.logCount ++ leBytes 1 typ ++ leBytes 1 claim ++ leBytes 6 0 ++ leBytes 8 a0 ++ leBytes 8 a1
      ++ padTo 64 digest
    t.sec.m = sha512 (s.sec.m ++ e) ∧ t.sec.logCount = s.sec.logCount + 1
    ∧ (s.sec.log.length < 4096 → t.sec.log = s.sec.log ++ [e])
    ∧ (s.sec.log.length = 4096 → t.sec.log = s.sec.log.drop 1 ++ [e])
    ∧ (s.sec.log.length ≤ 4096 → s.sec.log.length ≤ s.sec.logCount → s.sec.logCount < 2 ^ 64 →
      (∀ k x, s.sec.log[k]? = some x → fld x 0 8 = firstSeq s + k) →
      t.sec.log.length ≤ 4096 ∧ t.sec.log.length ≤ t.sec.logCount
      ∧ ∀ k x, t.sec.log[k]? = some x → fld x 0 8 = firstSeq t + k))
  ∧ (∀ (s : State) (fromSeq size : Nat),
    (fromSeq ≤ firstSeq s → logBytes s fromSeq size = (s.sec.log.take (size / 96)).flatten)
    ∧ ∀ k, fromSeq = firstSeq s + k → logBytes s fromSeq size = ((s.sec.log.drop k).take (size / 96)).flatten)

/-- REPLAN, COUNTER_FREEZE, ATTEST (R406, R437, R456 to R458, R472). REPLAN waits for a pass that begins after it.
COUNTER_FREEZE puts every live counter into the snapshot bank and completes with the new TL_SNAP.SEQ. ATTEST writes the signed
report (MODE 0), the certificate chain (1) or the readable log entries from FROM_SEQ (2) to the address given, and
completes with their length; with less room than needed it is refused with 0x16. -/
def Rows.ReplanFreezeAndAttest : Prop :=
  ∀ (m : MDesc) (s : State) (o : Origin) (s1 : State),
    (MgmtAccepted s m 0x85 o s1 → zeroAt m.line 16 112 = true → exec (.replan m) s =
      .next { s1 with power := { s1.power with replans := s1.power.replans ++ [o] } })
    ∧ (MgmtAccepted s m 0x87 o s1 → zeroAt m.line 16 112 = true →
      let s2 := passAll s1
      exec (.counterFreeze m) s = .next (doneWith
        { s2 with watch := { s2.watch with snap := s2.watch.live, snapSeq := s1.watch.snapSeq + 1 } } o
        (leBytes 8 (s1.watch.snapSeq + 1).toNat)))
    ∧ (MgmtAccepted s m 0x86 o s1 → attestZero m.line = true →
      let size := fld m.line 20 4
      let write (out : List Byte) := doneWith (putHost s1 (fld m.line 24 8) out) o (leBytes 4 out.length)
      (byteAt m.line 16 = 0 → (report s1 (slice m.line 48 32)).length ≤ size →
        exec (.attest m) s = .next (write (report s1 (slice m.line 48 32))))
      ∧ (byteAt m.line 16 = 1 → chainBytes.length ≤ size → exec (.attest m) s = .next (write chainBytes))
      ∧ (byteAt m.line 16 = 2 → 96 ≤ size → exec (.attest m) s = .next (write (logBytes s1 (fld m.line 32 8) size)))
      ∧ (byteAt m.line 16 = 2 → size < 96 → exec (.attest m) s = .next (bad s1 o 0x16)))

/-- The attestation log keeps the most recent 4,096 entries, and ATTEST MODE 2 writes them in order; REPLAN and COUNTER_FREEZE. -/
def Obligations.TheLogKeepsTheMostRecentEntries : Prop :=
  Rows.LogKeepsTheMostRecentEntries ∧ Rows.ReplanFreezeAndAttest

/-- KEY_PROGRAM, KEY_REVOKE (R451, R452) with no claim above ABSENT and no load under way. An EMPTY slot takes the staged
key where it is a point of P-521 and is PROGRAMMED (1), with a log entry of type 5; a PROGRAMMED slot that is not the
last is REVOKED (2) and keeps its key, with a log entry of type 6; the last PROGRAMMED slot is not revoked (status 5). With
a claim above ABSENT nothing changes but the status, which is 1. -/
def Rows.KeysAreProgrammedAndRevoked : Prop :=
  ∀ (value : W64) (s : State), mgmtUp s = true →
    let n := bits value.toNat 2 0
    let key := stagedKey s
    (bits value.toNat 5 4 = 1 → keysLocked s = false → (s.sec.keys.getD n {}).st = 0 →
      ecOn (beNat (slice key 0 66)) (beNat (slice key 66 66)) = true →
      exec (.keyProgram value) s = .next (extendLog (keyStatus (setKey s n ⟨1, key⟩) 0) 5 0xF n 0 (sha512 key)))
    ∧ (bits value.toNat 5 4 = 1 → keysLocked s = false → (s.sec.keys.getD n {}).st ≠ 0 →
      exec (.keyProgram value) s = .next (keyStatus s 2))
    ∧ (bits value.toNat 5 4 = 2 → keysLocked s = false → (s.sec.keys.getD n {}).st = 1 →
      (s.sec.keys.filter (fun k => k.st == 1)).length ≠ 1 →
      exec (.keyRevoke value) s = .next (extendLog
        (keyStatus (setKey s n { s.sec.keys.getD n {} with st := 2 }) 0) 6 0xF n 0 []))
    ∧ (bits value.toNat 5 4 = 2 → keysLocked s = false → (s.sec.keys.getD n {}).st = 1 →
      (s.sec.keys.filter (fun k => k.st == 1)).length = 1 → exec (.keyRevoke value) s = .next (keyStatus s 5))
    ∧ (keysLocked s = true →
      (bits value.toNat 5 4 = 1 → exec (.keyProgram value) s = .next (keyStatus s 1))
      ∧ (bits value.toNat 5 4 = 2 → exec (.keyRevoke value) s = .next (keyStatus s 1)))

/-- DEBUG_READ, LODE_READ (R460, R461). A read of 1 to 32 granules within a Lode is logged (type 8) with the digest of
what it copied, counted, and its 4,096-byte buffer is readable (state 2); granules are free values, and a poisoned one
is copied as zeros. One of a Lode or granules that do not exist only sets state 3 (RANGE). -/
def Rows.DebugReadsAreLogged : Prop :=
  ∀ (value : W64) (s : State), mgmtUp s = true →
    let count := bits value.toNat 13 8
    let first := bits value.toNat 63 34
    let lode := bits value.toNat 3 0
    exec (.debugRead value) s = .next (debugRead value s)
    ∧ (tapOn s = true → exec (.lodeRead value) s = .next (debugRead value
        { s with sec := { s.sec with tap := { s.sec.tap with instr := 7 } } }))
    ∧ (0 < count → count ≤ 32 → lode < 12 → first + count ≤ lodeGranules →
      (debugRead value s).sec.dbgState = 2
      ∧ (debugRead value s).sec.dbgReads = satAdd 32 s.sec.dbgReads 1
      ∧ (debugRead value s).sec.dbgBuf.length = 4096
      ∧ (debugRead value s).sec.logCount = s.sec.logCount + 1
      ∧ (debugRead value s).sec.keys = s.sec.keys)
    ∧ (0 < count → count ≤ 32 → (12 ≤ lode ∨ lodeGranules < first + count) →
      debugRead value s = { s with sec := { s.sec with dbgState := 3 } })

/-- Image keys are programmed and revoked; debug reads are logged (granules are free values, log 5). -/
def Obligations.KeysAndDebugReads : Prop :=
  Rows.KeysAreProgrammedAndRevoked ∧ Rows.DebugReadsAreLogged

/-- The TAP (R459): JTAG_ATTACH leaves Test-Logic-Reset, counts the attach and logs it (type 7); TEST_LOGIC_RESET returns
there with IDCODE in the instruction register; BYPASS shifts one bit and IDCODE the 32 bits of the identification;
SAMPLE/PRELOAD is loaded; EXTEST, CLAMP and HIGHZ are loaded while no claim is RUNNING or ENDING, and BYPASS is in their
place while one is. -/
def Obligations.TapInstructionsAreLoaded : Prop :=
  ∀ (s : State),
    let load (n : Nat) : State := { s with sec := { s.sec with tap := { s.sec.tap with instr := n } } }
    (∀ opcode, s.boot.resetN = true → s.boot.stage = 3 → s.sec.tap.attached = false →
      exec (.jtagAttach opcode) s = .next (extendLog { s with sec := { s.sec with
        attaches := satAdd 64 s.sec.attaches 1, tap := { s.sec.tap with attached := true } } } 7 0xF opcode.toNat
        (satAdd 64 s.sec.attaches 1) []))
    ∧ exec .testLogicReset s = .next { s with sec := { s.sec with tap := { attached := false, instr := 0 } } }
    ∧ (tapOn s = true →
      exec .bypass s = .next { load 1 with out := s.out ++ [.tdo 1 0] }
      ∧ exec .idcode s = .next { load 0 with out := s.out ++ [.tdo 32 (Config.idcode % 2 ^ 32)] }
      ∧ exec .samplePreload s = .next (load 3)
      ∧ ((∀ c < 4, claimRuns s c = false) →
        exec .extest s = .next (load 2) ∧ exec .clamp s = .next (load 4) ∧ exec .highz s = .next (load 5))
      ∧ ((∃ c < 4, claimRuns s c = true) → exec .extest s = exec .bypass s ∧ exec .clamp s = exec .bypass s
        ∧ exec .highz s = exec .bypass s))

/-- REPLAN_PASS (R9, R406, R407, R409): the configured plan takes effect, the readings are taken, the supplies are set by the rules,
the pass is counted, the units that miss the floor are retired or replaced, every REPLAN that waited completes with POWER_W, and a
DELTA that waited for a plan takes effect. -/
def Rows.PassesPlanAndAnswer : Prop :=
  ∀ (r : PlanReading) (s : State), alive s = true →
    let s1 := thermalState (setSupplies (floorFlags (readDomains (takePlan s) r)))
    exec (.replanPass r) s = .next (endEffect (s1.power.replans.foldl (fun s o => doneWith s o (leBytes 2 s.power.powerW))
      (floorMisses { s1 with power := { s1.power with passes := satAdd 32 s1.power.passes 1, replans := [] } } r)) .plan)

/-- The thermal, coolant and pin events (R402, R407, R415, R464, R465, R469) while the block runs: HOT, LIMIT and the module-fatal
shed at 110 °C; the inlet out of and back in 15 to 45 °C; a sensor fault; a leak; a stuck pin. -/
def Rows.ThermalAndPinEvents : Prop :=
  ∀ (s : State), alive s = true →
    (∀ d c, (planInForce s).hotC < c → exec (.junctionHot d c) s = .next { s with power := { s.power with
      st := max 1 s.power.st, err := s.power.err ||| 4, tjMax := c, tjDomain := d } })
    ∧ (∀ d, exec (.thermalLimit d) s = .next { s with power := { s.power with
      st := 2, err := s.power.err ||| 8, limitBad := true, tjMax := max 105 s.power.tjMax, tjDomain := d } })
    ∧ (∀ d, exec (.thermalShed d) s =
      .next (moduleFatal { s with power := { s.power with tjMax := max 110 s.power.tjMax, tjDomain := d } } 7 none))
    ∧ (∀ c, s.power.inlet ≠ 0xFF → (c < 15 ∨ 45 < c) →
      exec (.coolantInletRange c) s = .next { s with power := { s.power with inlet := c, coolantBad := true } })
    ∧ (∀ c, s.power.inlet ≠ 0xFF → 15 ≤ c → c ≤ 45 →
      exec (.coolantInletReturn c) s = .next { s with power := { s.power with inlet := c, coolantBad := false } })
    ∧ exec (.sensorFault true) s = .next { s with power := { s.power with
      err := s.power.err ||| 0x10, sensorBad := true, inlet := 0xFF, coolantBad := false } }
    ∧ exec (.sensorFault false) s = .next { s with power := { s.power with
      err := s.power.err ||| 0x10, sensorBad := true, outlet := 0xFF } }
    ∧ exec .leak s = .next (moduleFatal { s with
      power := { s.power with err := s.power.err ||| 0x20 }, boot := { s.boot with leakN := false } } 8 none)
    ∧ exec (.pinReadbackMismatch true) s = .next { s with boot := { s.boot with
      alertStuck := true, pinErr := s.boot.pinErr ||| 2 } }
    ∧ exec (.pinReadbackMismatch false) s = .next { s with boot := { s.boot with
      pwrOkStuck := true, pinErr := s.boot.pinErr ||| 4 } }

/-- Re-planning passes and the thermal, coolant, leak and pin events. -/
def Obligations.PowerPassesAndThermalEvents : Prop :=
  Rows.PassesPlanAndAnswer ∧ Rows.ThermalAndPinEvents

/-- R126. Of n tokens above LIMIT the first HEAD and the last LIMIT − HEAD are kept, in order, LIMIT in all; of n tokens
within LIMIT all are kept; the worked case of R126 (LIMIT 512, HEAD 64, 2,000 tokens). -/
def Rows.TruncationKeepsHeadAndTail : Prop :=
  (∀ (limit head : Nat) (ts : List Nat), head ≤ limit → limit < ts.length →
    (truncTokens limit head ts).2 = true
    ∧ (truncTokens limit head ts).1.length = limit
    ∧ (∀ i, i < head → (truncTokens limit head ts).1[i]? = ts[i]?)
    ∧ (∀ j, j < limit - head → (truncTokens limit head ts).1[head + j]? = ts[ts.length - (limit - head) + j]?))
  ∧ (∀ (limit head : Nat) (ts : List Nat), ts.length ≤ limit → truncTokens limit head ts = (ts, false))
  ∧ (truncTokens 512 64 (List.range 2000)).1 = List.range 64 ++ (List.range 448).map (· + 1552)

/-- TOKENIZE_STEP (R110 to R116, R418) of an issued step whose input was read whole over the data channel: a line of the
vocabulary's sections that is bad and read ends the request; otherwise the text is encoded, invalid UTF-8 is counted, and tokens
beyond the step's limit are cut with TRUNCATED_INPUT and the Crusher's count; the step completes with the tokens kept. While the
channel is not open to the claim a step that reads input waits. -/
def Rows.TokenizeEncodesTheInput : Prop :=
  ∀ (slot : BitVec 16) (step : Nat) (input : List Byte) (s : State) (r : Req) (t : StepRec) (q : RecipeSec) (v : Nat)
    (sec : VocabSec), issued s slot.toNat step 1 = some (r, t) → r.bind.recipe = some q →
    (if t.role = 1 then q.genVocab else q.encVocab) = some v → vocabOf s r.claim v = some sec →
    input.length = r.desc.inputBytes →
    let n := slot.toNat
    let mg := (cfgOf s r.claim).bind (fun g => secOf g.merges v)
    let cl := (cfgOf s r.claim).bind (fun g => secOf g.classes v)
    let text := tokenize sec mg cl (t.word 1 % 2 == 1) input
    let kept := truncTokens (tokLimit q t) (t.word 3) text.1
    let s1 := countInvalid (hlGot s 1 (granules input.length)) n text.2
    let bad := readsBad s v (tokenizeLines sec mg cl (t.word 1 % 2 == 1) input)
    (dataUp s r.claim = false → input ≠ [] → exec (.tokenizeStep slot step input) s = .next s)
    ∧ (dataUp s r.claim = true ∨ input = [] →
    (bad = true → exec (.tokenizeStep slot step input) s = .next (endBadSram s n r.claim 4))
    ∧ (bad = false → kept.2 = false → exec (.tokenizeStep slot step input) s =
        .next (completeStep s1 n step (fun x => { x with tokens := kept.1 })))
    ∧ (bad = false → kept.2 = true → exec (.tokenizeStep slot step input) s = .next (completeStep
        { flagReq s1 n flTrunc with eng := { s1.eng with crTrunc := satAdd 16 s1.eng.crTrunc 1 } } n step
        (fun x => { x with tokens := kept.1 }))))

/-- A TOKENIZE step encodes its input and keeps the head and the tail of what exceeds LIMIT. -/
def Obligations.TextIsTokenizedAndTruncated : Prop :=
  Rows.TruncationKeepsHeadAndTail ∧ Rows.TokenizeEncodesTheInput

/-- ENCODE_STEP (R235, R301, R302) of an issued step with the final states of its tokens, BF16 values of the model's width (R300 leaves
them open, log 29), and a model that is READY and resident with the tokens' embeddings: the states are pooled and projected through
UNEMBED; of an empty text the vector is zeros; otherwise it is the projected output, normalized where the step says so, and a value
that is not finite is replaced by 0 and sets AR_NUMERIC bit 3 of the step's bank. -/
def Obligations.EncodeProducesTheVector : Prop :=
  ∀ (slot : BitVec 16) (step : Nat) (states : List (List B16)) (order : List Nat) (s : State) (r : Req) (t : StepRec) (mi : Nat)
    (m : ModelSec), issued s slot.toNat step 2 = some (r, t) → r.bind.recipe.bind (fun q => encModelOf q t) = some mi →
    modelOf s r.claim mi = some m →
    let n := slot.toNat
    let toks := encodeTokens r t
    let s1 := (runGate s n r.claim mi m toks).1
    states.length = toks.length → (∀ x ∈ states, x.length = m.dModel) → (runGate s n r.claim mi m toks).2 = true →
    let used := fun (s2 : State) => runModel s2 n r.claim mi m toks
    let finish := fun (s2 : State) (vec : List F32) => completeStep
      (fireArm s2 n step 1 0 0 ((vec.map (fun x => leBytes 4 x.toNat)).flatten) noPos) n step (fun x => { x with vec := vec })
    let out := encodeOut ((t.word 0).testBit 8) (projected s1 r.claim mi m (pooled m states) order)
    let b := (stepUnit s1 r.claim 0 n step).getD 0
    (toks = [] → exec (.encodeStep slot step ⟨states, order⟩) s = .next (finish (used s1) (List.replicate m.outDim 0)))
    ∧ (toks ≠ [] → out.2 = false → exec (.encodeStep slot step ⟨states, order⟩) s = .next (finish (used s1) out.1))
    ∧ (toks ≠ [] → out.2 = true → exec (.encodeStep slot step ⟨states, order⟩) s = .next (finish
        (used { s1 with banks := lmod s1.banks b (fun x => { x with numErr := x.numErr ||| 8 }) }) out.1))

/-- SEARCH_START (R149, R162): the first waiting search of a claim starts when all its strand buffers are free and not
before; it then holds them: one for each strand, or for a FLAT_SCAN one for each channel of the pit. Starting writes no
completion record and no companion memory, and frees no slot. -/
def Rows.SearchesStartWithAllTheirBuffers : Prop :=
  ∀ (claim : Nat) (s : State) (num : Nat) (x : Search) (p : PitSec),
    s.drift.searches.find? (fun q => q.2.claim == claim && !q.2.started) = some (num, x) →
    pitSecOf s claim x.pit = some p →
    let need := if x.flat then popcount 64 p.seamMask else x.nStrands
    (alive s = true → unitOk s 0x11 0 = true → buffersUsed s claim + need ≤ buffersOf s claim →
      exec (.searchStart claim) s = .next (startSearch s num x p))
    ∧ (buffersOf s claim < buffersUsed s claim + need → exec (.searchStart claim) s = .next s)

/-- STRAND_ROUND and STRAND_HANDOFF (R149 to R155): a round of a strand that runs moves its list on, counts what it
read, and a finished strand gives its place to one that waits; a strand that must hand off moves to the target engine,
waiting where 16 run there, and the engine it left admits one that waits. -/
def Rows.StrandsWalkAndHandOff : Prop :=
  (∀ (search strand : Nat) (s : State) (x : Search) (t : Strand) (p : PitSec) (t1 : Strand) (ev : RoundEv),
    kget s.drift.searches search = some x → x.strands[strand]? = some t → pitSecOf s x.claim x.pit = some p →
    alive s = true → x.started = true → t.done = false → t.waiting = false → unitOk s 2 t.engine = true →
    wantsHandoff (askOf s x) t = false → strandRoundOf (pitView s x.claim x.pit p) (askOf s x) t = (t1, ev) →
    let s2 := countRound (modSearch s search (fun x => { x with strands := lmod x.strands strand (fun _ => t1) }))
      x.claim x.pit t.engine ev
    (t1.done = false → exec (.strandRound search strand) s = .next s2)
    ∧ (t1.done = true → exec (.strandRound search strand) s = .next (admitStrand s2 t.engine)))
  ∧ (∀ (search strand : Nat) (s : State) (x : Search) (t : Strand),
    kget s.drift.searches search = some x → x.strands[strand]? = some t → alive s = true → x.started = true →
    t.waiting = false → wantsHandoff (askOf s x) t = true → unitOk s 0x11 0 = true →
    let e := handoffTarget (askOf s x) (engineLoad s) t
    let s1 := modSearch s search (fun x => { x with strands := lmod x.strands strand (fun _ =>
      { t with engine := e, waiting := decide (16 ≤ engineLoad s e) }) })
    exec (.strandHandoff search strand) s = .next (admitStrand { s1 with drift := { s1.drift with
      handoffs := kset s1.drift.handoffs t.engine (satAdd 32 (kgetD s1.drift.handoffs t.engine 0) 1) } } t.engine))

/-- LABEL_SCAN (R156, R162): a channel is read once: a FLAT_SCAN, once it holds a place of the engine, reads every primary record of
it and a label scan its posting list; the channel's list and visits join the search, and the channel is no longer to be read. -/
def Rows.ScansReadEachChannelOnce : Prop :=
  ∀ (search channel : Nat) (s : State) (x : Search) (p : PitSec),
    kget s.drift.searches search = some x → pitSecOf s x.claim x.pit = some p → alive s = true → x.started = true →
    x.scans.contains channel = true → unitOk s 2 channel = true →
    let d := (pitOf s x.claim x.pit).live
    let all := (d.recs.filter (fun r => r.1.1 == channel && r.2.kind == 1)).map (·.1.2)
    let got (slots : List Nat) := scanChannel (pitView s x.claim x.pit p) (askOf s x) slots channel
    let next (g : List ListEnt × RoundEv) := admitStrand (countRound (modSearch s search (fun x => { x with
        scans := x.scans.filter (· != channel), scanOn := x.scanOn.filter (· != channel), scanLists := x.scanLists ++ [g.1]
        scanVisits := x.scanVisits + g.2.scored }))
      x.claim x.pit channel g.2) channel
    (x.kind = 2 → x.scanOn.contains channel = false → exec (.labelScan search channel) s = .next s)
    ∧ (x.kind = 2 → x.scanOn.contains channel = true → exec (.labelScan search channel) s = .next (next (got all)))
    ∧ (x.kind ≠ 2 → exec (.labelScan search channel) s = .next (next (got (kgetD d.posts (channel, x.label.getD 0) []))))

/-- Searches start with their buffers, strands walk and hand off, scans read each channel once. -/
def Obligations.SearchesStartWalkAndScan : Prop :=
  Rows.SearchesStartWithAllTheirBuffers ∧ Rows.StrandsWalkAndHandOff ∧ Rows.ScansReadEachChannelOnce

/-- SEARCH_MERGE (R157 to R159) at home, of a search whose strands, scans and shards are over: the K best entries are the
step's list and the current one, with TIE_AT_CUT, DUPLICATES_MERGED and the flags of the strands noted in the request; the search is gone and
its step is complete. A search that is not over changes nothing. -/
def Rows.FinishedSearchesMerge : Prop :=
  ∀ (search : Nat) (s : State) (x : Search) (n i : Nat) (ents : List ListEnt) (dups ties : Nat),
    kget s.drift.searches search = some x → x.owner = .request n i → mergeLists x.k (searchLists x) = (ents, dups, ties) →
    (searchOver x = false → exec (.searchMerge search) s = .next s)
    ∧ (alive s = true → searchOver x = true → unitOk s 0x11 0 = true →
      let flags := searchFlags x ||| (if ties = 0 then 0 else flTie) ||| (if dups + x.shardDups = 0 then 0 else flDup)
      let l : RList := { k := x.k, ents := ents, flags := flags, epoch := x.epoch, ties := ties
                         dups := dups + x.shardDups, visited := searchVisits x }
      let s1 := { s with drift := { s.drift with searches := kdel s.drift.searches search } }
      let s2 := setCur (noteList s1 n flags ties (dups + x.shardDups) (searchVisits x) (decide (ents.length < x.k))) n l
      exec (.searchMerge search) s = .next (completeStep (fireArm s2 n i 2 0 0 (listBytes l) noPos) n i
        (fun t => { t with list := some l })))

/-- WRITE_RESULT_STEP (R105, R158): the current list, with as many of its entries as RESULT_BYTES holds, is written at
RESULT_ADDR; a request that packs nothing counts the entries written as PASSAGES (log 40); while the data channel is not open to the
claim the step waits. -/
def Rows.ResultsAreWrittenToTheCompanion : Prop :=
  ∀ (slot : BitVec 16) (step : Nat) (s : State) (r : Req) (t : StepRec), issued s slot.toNat step 10 = some (r, t) →
    let n := slot.toNat
    (dataUp s r.claim = false → exec (.writeResultStep slot step) s = .next s)
    ∧ (dataUp s r.claim = true → (planOf r).any (fun t => t.typ == 7) = true → exec (.writeResultStep slot step) s =
      .next (completeStep (putHost s r.desc.resultAddr (resultBytes r)) n step id))
    ∧ (dataUp s r.claim = true → (planOf r).any (fun t => t.typ == 7) = false → exec (.writeResultStep slot step) s =
      .next (completeStep (putHost (modReq s n (fun r => { r with out := { r.out with passages := resultsWritten r } }))
        r.desc.resultAddr (resultBytes r)) n step id))

/-- Searches merge their lists, and results are written to the companion (log 39, log 40). -/
def Obligations.SearchesMergeAndResultsAreWritten : Prop :=
  Rows.FinishedSearchesMerge ∧ Rows.ResultsAreWrittenToTheCompanion

/-- FEATURES_STEP (R205 to R207), once the rows of its entries, and of its policy, are here and resident and their batches do not
stall: the two lists are united, DUPLICATES_MERGED is set where a passage was in both, and the step holds the list, a row for each
entry and the tenant's policy row. -/
def Rows.FeaturesGatherTheRows : Prop :=
  ∀ (slot : BitVec 16) (step : Nat) (s : State) (r : Req) (t : StepRec) (l : Nat) (a : RList),
    issued s slot.toNat step 4 = some (r, t) →
    r.bind.recipe.bind (fun q => featLedger q t) = some l → t.dep0.bind (fun d => (stepSt r d).list) = some a →
    let n := slot.toNat
    let c := r.claim
    let pol := policyLedger t
    let u := uniteLists a (t.dep1.bind (fun d => (stepSt r d).list))
    let mine := myRows s c u.1.ents
    let f := fetchAll s n step 0 l r u.1.ents
    let keys := rowPages f.1 c l mine ++ (match pol with
      | some p => rowPages f.1 c p [r.tenant]
      | none => [])
    let g := gatherPages f.1 n keys
    ledgerOpen s c l = true → rowsReady s c l mine = true → (∀ p, pol = some p → rowsReady s c p [r.tenant] = true) →
    f.2 = true → g.2 = true →
    let rows := gatherRows (unpinPages g.1 n keys) n c l u.1.ents
    let p := gatherPolicy rows.2 n c r.tenant pol
    exec (.featuresStep slot step) s = .next (completeStep
      (fireArm (setCur (noteList p.2 n (if u.2 = 0 then 0 else flDup) 0 u.2 0 false) n u.1) n step 2 0 0 (listBytes u.1) noPos)
      n step (fun x => { x with list := some u.1, feats := rows.1, pol := p.1 }))

/-- ASSAY1_STEP (R208 to R211): every entry is scored by the step's formula over its row, and the best KEEP stay; AS_COUNTS
counts the candidates; a result the spec does not state is a free value (log 17). -/
def Rows.AssayScoresByTheFormula : Prop :=
  ∀ (slot : BitVec 16) (step : Nat) (s : State) (r : Req) (t : StepRec) (q : RecipeSec) (d : Nat) (l : RList)
    (u : StepRec) (fl : Nat) (sec : LedgerSec), issued s slot.toNat step 5 = some (r, t) → r.bind.recipe = some q →
    t.dep0 = some d → (stepSt r d).list = some l → (planOf r)[d]? = some u → featLedger q u = some fl →
    ledgerSecOf s r.claim fl = some sec →
    let n := slot.toNat
    let keep := t.word 0 / 65536
    let es := ((List.range l.ents.length).zip l.ents).map (fun x => { x.2 with
      score := stage1Score (stepSt r d) (sec.formulas.getD (t.word 0 % 16) []) x.2
        (BitVec.ofNat 32 (Config.free (s.freeCtr + x.1))) })
    ∀ out ties, assayCut l keep es = (out, ties) →
    let s1 := noteCut { s with
      freeCtr := s.freeCtr + es.length
      eng := { s.eng with asCandidates := satAdd 32 s.eng.asCandidates es.length } } n keep out ties
    exec (.assay1Step slot step) s = .next (completeStep (fireArm s1 n step 2 0 0 (listBytes out) noPos) n step
      (fun x => { x with list := some out }))

/-- ASSAY2_STEP (R206, R212, R213), once the texts, the rerank model and the embeddings of the pairs' tokens are at hand, with a logit
for each candidate (R300 leaves logits open, log 29): a candidate whose text cannot be read is dropped and counted; each other is
scored logit + BLEND × score, the best KEEP stay, and their hits are added to the HIT_LEDGER where the step names one. -/
def Rows.RerankingReplacesTheScores : Prop :=
  ∀ (slot : BitVec 16) (step : Nat) (logits : List F32) (s : State) (r : Req) (t : StepRec) (mi : Nat) (m : ModelSec) (l : RList)
    (p : Nat) (sec : PitSec), issued s slot.toNat step 6 = some (r, t) →
    r.bind.recipe.bind (·.rerankModel) = some mi → modelOf s r.claim mi = some m →
    t.dep0.bind (fun d => (stepSt r d).list) = some l → reqPit s r = some (p, sec) →
    let n := slot.toNat
    let cands := l.ents.take (candidatesOf t)
    let f := fetchAll s n step 1 p r cands
    let toks := (assayPairs f.1 n r t m p sec cands).flatten
    let g := runGate f.1 n r.claim mi m toks
    logits.length = cands.length → f.2 = true → g.2 = true → (∀ h, hitLedger t = some h → ledgerOpen g.1 r.claim h = true) →
    let good := (cands.zip logits).filter (fun x => (entryText g.1 n r.claim p sec x.1).isSome)
    let dropped := cands.length - good.length
    let keep := t.word 0 / 65536
    let cut := assayCut l keep (good.map (fun x => { x.1 with
      score := fadd x.2 (fmul (BitVec.ofNat 32 (t.word 3)) x.1.score) }))
    let s3 := runModel g.1 n r.claim mi m toks
    let s4 := { s3 with eng := { s3.eng with
      asPairs := satAdd 32 s3.eng.asPairs good.length, asDropped := satAdd 32 s3.eng.asDropped dropped
      asErr := if dropped = 0 then s3.eng.asErr else s3.eng.asErr ||| 2 } }
    let s5 := match hitLedger t with
      | none => s4
      | some h => sendHits s4 n step r h (bits (t.word 2) 23 8) cut.1.ents
    exec (.assay2Step slot step logits) s = .next (completeStep
      (fireArm (noteCut s5 n keep cut.1 cut.2) n step 2 0 0 (listBytes cut.1) noPos)
      n step (fun x => { x with list := some cut.1 }))

/-- Features are gathered, entries scored by formula, candidates re-ranked (log 17, log 29). -/
def Obligations.FeaturesScoresAndRerank : Prop :=
  Rows.FeaturesGatherTheRows ∧ Rows.AssayScoresByTheFormula ∧ Rows.RerankingReplacesTheScores

/-- PACK_STEP (R226 to R229), once the texts of other modules are here: fixed parts that exceed the budget end the request with
LENGTH_LIMIT; otherwise the prompt holds the literals, the question, the passages and the newest history that fits, TRUNCATED_INPUT
is set where history was cut, and the tokens are the step's and the generator's prompt; what was packed, cut and left out is
counted. While the data channel is not open to the claim a step that reads history waits. -/
def Obligations.PackPlacesThePrompt : Prop :=
  ∀ (slot : BitVec 16) (step : Nat) (history : List Byte) (s : State) (r : Req) (t : StepRec) (tpl : TemplateSec),
    issued s slot.toNat step 7 = some (r, t) →
    (r.bind.recipe.bind (fun q => packTemplate q t)).bind (kget r.bind.templates) = some tpl →
    history.length = 4 * r.desc.historyTokens →
    let n := slot.toNat
    let list := packList r t
    let got := match reqPit s r with
      | some (p, _) => fetchAll s n step 1 p r list
      | none => (s, true)
    got.2 = true →
    (dataUp got.1 r.claim = false → history ≠ [] → exec (.packStep slot step history) s = .next got.1)
    ∧ (dataUp got.1 r.claim = true ∨ history = [] →
    let s1 := hlGot got.1 1 (granules history.length)
    let hist := (List.range r.desc.historyTokens).map (fun i => fld history (4 * i) 3)
    let question := (t.dep1.map (fun d => (stepSt r d).tokens)).getD []
    let maxP := if t.word 3 % 65536 = 0 then list.length else t.word 3 % 65536
    let pack := packPrompt tpl (packBudget s r t) (t.word 2 % 65536) (t.word 2 / 65536) maxP question hist (packRuns s1 n r t)
    (pack = none → exec (.packStep slot step history) s = .next (commitReq s1 n 0x0A 0))
    ∧ (∀ ts ps keep, pack = some (ts, ps, keep) →
      let e := s1.eng
      let s2 := { s1 with eng := { e with
        pkPassages := satAdd 32 e.pkPassages ps.runs.length, pkCut := satAdd 16 e.pkCut ps.cuts
        pkDropped := satAdd 32 e.pkDropped ps.dropped, pkErr := if ps.dropped = 0 then e.pkErr else 1
        pkHistoryCut := satAdd 16 e.pkHistoryCut (if keep < hist.length then 1 else 0) } }
      let s3 := modReq (if keep < hist.length then flagReq s2 n flTrunc else s2) n (fun r => { r with
        gen := { r.gen with prompt := ts }, out := { r.out with passages := ps.runs.length } })
      exec (.packStep slot step history) s = .next (completeStep (fireArm s3 n step 3 0 0 ((ts.map (leBytes 4)).flatten) noPos)
        n step (fun x => { x with tokens := ts }))))

/-- KV_RESERVATION_GRANT (R242): the earliest admitted request of the claim that asks for a reservation gets it when the
unreserved frames of the KV pool and of the HOST pool, those that hold shared pages' lower copies apart, cover it, and waits otherwise; a later request is never granted before it. -/
def Rows.ReservationsAreGrantedInAdmissionOrder : Prop :=
  ∀ (claim : Nat) (s : State) (n : Nat) (r : Req) (k : Nat), alive s = true →
    leastBy (fun (a b : Nat × Req) => decide (a.2.bind.order < b.2.bind.order)) ((requests s).filter (fun x =>
      x.2.claim == claim && x.2.commit.isNone && x.2.gen.resvAsked.isSome && !x.2.gen.granted)) = some (n, r) →
    r.gen.resvAsked = some k →
    let shared := (s.cage.pages.filter (fun q => q.1.claim == claim && q.1.kind != 1 && q.2.host.isSome)).length
    let room := poolPages s claim 1 - fencedFrames s claim 1 + (poolPages s claim 0x10 - shared)
    (booked s claim + k ≤ room → exec (.kvReservationGrant claim) s = .next
      (modReq s n (fun r => { r with gen := { r.gen with granted := true, resv := k } })))
    ∧ (room < booked s claim + k → exec (.kvReservationGrant claim) s = .next s)

/-- PREFILL_CHUNK (R238, R239, R241) with the reservation granted, the models READY, every page at hand and a key and a value given
for each position and layer (R300 leaves them open, log 29): the embeddings of the next chunk's tokens are looked up, the first
chunk copies the prefix's tail, the rows are written to KV and the tokens counted in TOKENS_IN; the chunk that reaches the
prompt's end commits the sequence and completes the step. -/
def Rows.PrefillWritesChunksOfThePrompt : Prop :=
  ∀ (slot : BitVec 16) (kv : List KvRow) (s : State) (i : Nat) (r : Req) (t : StepRec) (g : ModelSec) (s1 s2 s3 : State),
    stepNoOf s slot.toNat 8 = some i → running s slot.toNat = some r → (planOf r)[i]? = some t → genOf s r = some g →
    r.gen.granted = true → modelsReady s slot.toNat r = (s1, true) →
    let c := r.claim
    let n := slot.toNat
    let chunk := max 1 (if t.word 0 % 65536 = 0 then g.prefillChunk else t.word 0 % 65536)
    let lo := r.gen.prefilled
    let hi := min r.gen.prompt.length (lo + chunk)
    let p := r.bind.pfxLen
    let toks := (r.gen.prompt.drop lo).take (hi - lo)
    let looks := passLooks s r toks toks
    looksReady s c looks = true → rowsGiven s r false (p + lo) (p + hi) kv = true → rowsGiven s r true (p + lo) (p + hi) kv = true →
    let reads := passPages s1 r ++ lookPages s1 c looks
    gatherPages s1 n (reads ++ tailPages s1 n r ++ seqPages s1 n r 0 (p + lo)) = (s2, true) →
    writePages s2 n (⟨c, 1, n, countTableIdx⟩ :: seqPages s2 n r (p + lo) (p + hi)) = (s3, true) →
    let s4 := usePages (unpinPages s3 n reads) n (passPages s3 r ++ tailPages s3 n r ++ seqPages s3 n r 0 (p + hi))
    let s5 := lookUps s4 c (some n) looks
    let s6 := if lo = 0 then tailCopy s5 n r else s5
    let s7 := writeRows (writeRows s6 n r false (p + lo) (p + hi) kv) n r true (p + lo) (p + hi) kv
    let s8 := fireChunk (markChunk s7 n r lo hi) n i r lo hi g
    (hi < r.gen.prompt.length → exec (.prefillChunk ⟨slot, kv⟩) s = .next (modReq s8 n (fun r => { r with
      gen := { r.gen with prefilled := hi, kvDone := [] }, out := { r.out with tokensIn := r.out.tokensIn + (hi - lo) } })))
    ∧ (hi = r.gen.prompt.length → exec (.prefillChunk ⟨slot, kv⟩) s = .next (completeStep (modReq s8 n (fun r => { r with
      gen := { r.gen with prefilled := hi, kvDone := [], committed := p + hi, draftCommitted := p + hi }
      out := { r.out with tokensIn := r.out.tokensIn + (hi - lo) } })) n i id))

/-- Reservations are granted in admission order and PREFILL writes the prompt in chunks. -/
def Obligations.GenerationReservesAndPrefills : Prop :=
  Rows.ReservationsAreGrantedInAdmissionOrder ∧ Rows.PrefillWritesChunksOfThePrompt

/-- VERIFY_STEP (R238, R248 to R251, R259), alone or in a decode pass with requests that are ready for it, the models READY, the pages
at hand, a logit row for each position and a key and a value for each position written (R300 leaves them open, log 29): the
draft model proposes, the generator draws up to the first token that is no proposal, and the step commits what it keeps.
While the stream is stalled, a batch is on its way or generation has ended, nothing happens. -/
def Rows.VerificationDrawsAndCommits : Prop :=
  ∀ (slot : BitVec 16) (group : List (BitVec 16)) (draft gen : List (List F32)) (kv : List KvRow) (s : State) (i : Nat) (r : Req) (t : StepRec) (m : ModelSec)
    (v : VocabSec), stepNoOf s slot.toNat 9 = some i → running s slot.toNat = some r → (planOf r)[i]? = some t →
    genOf s r = some m → vocabOf s r.claim m.vocab = some v →
    let n := slot.toNat
    let dlen := draftLenOf r t m (draftOf s r).isSome
    let ds := proposals r.bind.grammar v.eos r.gen.timber (draft.take dlen)
    ((r.gen.ended.isSome = true ∨ r.gen.batches ≠ [] ∨ stalled s n r = true) →
      exec (.verifyStep ⟨slot, group, kv⟩ draft gen) s = .next s)
    ∧ (r.gen.ended = none → r.gen.batches = [] → stalled s n r = false → groupOk s n r m (group.map (·.toNat)) = true →
      (∀ l ∈ gen, l.length = v.toks.length) → (∀ l ∈ draft, l.length = v.toks.length) → dlen ≤ draft.length →
      ds.length + 1 ≤ gen.length →
      (∀ g, r.bind.recipe.bind (·.grammar) = some g → s.eng.badGrammars.contains (r.claim, g) = false) →
      let c := r.gen.committed
      let d := r.gen.draftCommitted
      let top := c + ds.length
      (r.gen.toks = [] ∨ (rowsGiven s r false c (top + 1) kv = true ∧ rowsGiven s r true d top kv = true)) →
      let looks := passLooks s r (stepTokens r ds).1 (stepTokens r ds).2
      looksReady s r.claim looks = true →
      ∀ s1 s2 s3, modelsReady s n r = (s1, true) →
      gatherPages s1 n (verifyReads s1 n r ds) = (s2, true) →
      let own := verifyWrites s2 n r ds.length
      writePages s2 n own = (s3, true) →
      let emb := lookPages s3 r.claim looks
      let s4 := usePages (unpinPages s3 n emb) n ((verifyReads s3 n r ds).filter (fun k => !emb.contains k) ++ own)
      let s5 := lookUps s4 r.claim (some n) looks
      let s6 := if r.gen.toks = [] then s5 else writeRows (writeRows s5 n r false c (top + 1) kv) n r true d top kv
      exec (.verifyStep ⟨slot, group, kv⟩ draft gen) s =
        .next (commitStep s6 n i r m v (verifyRes s6 r t m v (draftOf s r).isSome draft gen) gen))

/-- ATTENTION_PARTIAL_MERGE (R239, R243, R244) of a layer that the pass under way runs, its pages at hand and the keys and values of
its positions given (R300 leaves them and the query open, log 29): what of the layer is still to write is written to KV, and where
`parts` names each Lode that holds positions up to the query's once, with its positions, the partials that those Lodes form
from their KV merge in the order of arrival into the attention output; each Lode that formed one ran. Without such a pass
nothing happens. -/
def Rows.AttentionPartialsMerge : Prop :=
  ∀ (slot : BitVec 16) (layer head pos : Nat) (q : List F32) (kv : List KvRow) (dims : List Nat) (parts : List (Nat × List Nat)) (s : State),
    let n := slot.toNat
    (stepNoOf s n 8 = none → stepNoOf s n 9 = none → exec (.attentionPartialMerge slot ⟨layer, head, pos, q, kv, dims, parts⟩) s = .next s)
    ∧ (∀ (r : Req) (pp : Nat) (draft : Bool) (m : ModelSec) (lo top : Nat), running s n = some r →
      (layersOf s r).find? (fun x => x.1 == layer) = some (layer, pp, draft) → passModel s r draft = some m →
      passRange s n r draft = some (lo, top) →
      let low := kvFrom r layer lo
      let hi := min top (((kv.filter (fun y => y.layer == layer)).map (·.pos + 1)).foldl max low)
      lo ≤ pos → pos < hi → head < m.qHeads → q.length = m.headDim → kvGiven m kv layer low hi = true →
      let first := lo == r.bind.pfxLen && (stepNoOf s n 8).isSome
      let ppp := max 1 (pppOf m)
      ∀ s1 s2 s3, modelsReady s n r = (s1, true) →
      gatherPages s1 n ((if first then tailPages s1 n r else []) ++ layerPages s1 n r layer ppp 0 lo) = (s2, true) →
      writePages s2 n (layerPages s2 n r layer ppp lo hi) = (s3, true) →
      let s4 := writeLayer (if first then tailCopy s3 n r else s3) n r m layer low hi kv
      let s5 := modReq s4 n (fun r => { r with gen := { r.gen with kvDone := kset r.gen.kvDone layer hi } })
      (parts.map (·.1)).isPerm (attnLodes s5 n r layer ppp pos) = true →
      (∀ x ∈ parts, x.2.isPerm (lodePositions s5 n r layer ppp pos x.1) = true) →
      let out := mergePartials (parts.filterMap (fun x => lodePartial s5 n r m layer head q dims x.2))
      exec (.attentionPartialMerge slot ⟨layer, head, pos, q, kv, dims, parts⟩) s = .next
        (modReq (parts.foldl (fun s x => lodeRan s x.1 0) s5) n (fun r => { r with gen := { r.gen with attn := out } })))

/-- VERIFY draws and commits (logits are operands, log 29); attention partials merge. -/
def Obligations.VerificationDrawsAndAttentionMerges : Prop :=
  Rows.VerificationDrawsAndCommits ∧ Rows.AttentionPartialsMerge

/-- R276. The mask lets a token through by its class alone, apart from EOS; a disallowed token plays no part in a draw: the
draw is the same whatever its logit is; and the token drawn is an allowed one with a logit that is no NaN. -/
def Obligations.DisallowedTokensPlayNoPart : Prop :=
  (∀ (g : GrammarSec) (eos : Nat) (t : TimberSt) (a b : Nat), tokClass g a = tokClass g b → a ≠ eos → b ≠ eos →
    timberAllows g eos t a = timberAllows g eos t b)
  ∧ (∀ (p : DrawParams) (seed : W64) (g : Nat) (allowed : Nat → Bool) (counts : AMap (Nat × Nat)) (l l' : List F32),
    l.length = l'.length → (∀ i, allowed i = true → l[i]? = l'[i]?) →
    draw p seed g allowed counts l = draw p seed g allowed counts l')
  ∧ (∀ (p : DrawParams) (seed : W64) (g : Nat) (allowed : Nat → Bool) (counts : AMap (Nat × Nat)) (l : List F32) (t : Nat),
    (draw p seed g allowed counts l).tok = some t → allowed t = true ∧ ∃ x, l[t]? = some x ∧ isNan32 x = false)

/-- The text of a batch in TEXT records (R132): together the records are the text, none is above 96 bytes where no character
is, none divides a character, and a batch without text gives one record of 0 bytes. -/
def Rows.TextRecordsDivideNoCharacter : Prop :=
  (∀ cs : List (List Byte), (cutRecords [] cs).flatten = cs.flatten)
  ∧ (∀ cs : List (List Byte), (∀ c ∈ cs, c.length ≤ 96) → ∀ x ∈ cutRecords [] cs, x.length ≤ 96)
  ∧ (∀ cs : List (List Byte), ∀ x ∈ cutRecords [] cs, ∃ i n, x = ((cs.drop i).take n).flatten)
  ∧ cutRecords [] [] = [[]]

/-- DETOKENIZE_BATCH (R127 to R133) of a batch that does not end the output: its text is released, cut into TEXT records
of which the first carries the batch's tokens, and goes on to the stream; invalid UTF-8 is counted. While the stream is
stalled nothing happens. -/
def Rows.BatchesAreDetokenized : Prop :=
  ∀ (slot : BitVec 16) (s : State) (i : Nat) (r : Req) (b : Batch) (rest : List Batch) (v : VocabSec),
    stepNoOf s slot.toNat 9 = some i → running s slot.toNat = some r → r.gen.batches = b :: rest →
    (genOf s r).bind (fun m => vocabOf s r.claim m.vocab) = some v →
    let n := slot.toNat
    (stalled s n r = true → exec (.detokenizeBatch slot) s = .next s)
    ∧ (stalled s n r = false → b.last = false →
      detokBad s r (((genOf s r).map (·.vocab)).getD 0) v b.toks = false → ∀ d1 cs bad,
      detokTokens v (stopsOf s r).1 (stopsOf s r).2 r.stream.detok b.toks = (d1, cs, bad) →
      let recs := cutRecords [] cs
      let held := (List.range recs.length).zip recs |>.map (fun x =>
        (if x.1 = 0 then ⟨x.2, b.toks.length, b.first⟩ else ⟨x.2, 0, b.first + b.toks.length⟩ : TextRec))
      exec (.detokenizeBatch slot) s = .next (pumpStream (modReq (countInvalid s n bad) n (fun r => { r with
        gen := { r.gen with batches := rest }
        stream := { r.stream with detok := d1, held := if r.hasStream then r.stream.held ++ held else r.stream.held } })) n))

/-- A batch is detokenized into TEXT records that divide no character (filled greedily, log 16). -/
def Obligations.BatchesAreDetokenizedIntoRecords : Prop :=
  Rows.TextRecordsDivideNoCharacter ∧ Rows.BatchesAreDetokenized

/-- R291. An INT8 tile is the exact sum of its products in a 32-bit integer; tile results are added modulo 2^32, so that every
order gives the same bit pattern; each element of the product's block leaves the array as that integer. -/
def Obligations.Int8ProductsAreTheSameOnEveryRun : Prop :=
  (∀ a b : TileOp, a.fmt = .int8 → b.fmt = .int8 →
    let el := fun (t : TileOp) (k : Nat) => (BitVec.ofNat 8 (t.elems.getD k 0).toNat).toInt
    (tile a b).1 = BitVec.ofInt 32 (((List.range (min a.elems.length b.elems.length)).map (fun k => el a k * el b k)).sum))
  ∧ (∀ rs : List (F32 × NumEv), (combineTiles true rs).1 = (rs.map (·.1)).sum)
  ∧ (∀ rs rs' : List (F32 × NumEv), rs.Perm rs' → (combineTiles true rs).1 = (combineTiles true rs').1)
  ∧ (∀ (tiles : List (List TileOp × List TileOp)) (m n : Nat) (part : Option (Nat × Nat)), tiles ≠ [] →
    (∀ t ∈ tiles, mmaOk false t = true ∧ t.1.length = m ∧ t.2.length = n ∧ ∀ x ∈ t.1 ++ t.2, x.fmt = .int8) →
    let none : TileOp := ⟨.int8, [], []⟩
    (bankWork (.mma false part tiles)).1 = ((List.range m).map (fun i => (List.range n).map (fun j =>
      (tiles.map (fun t => (tile (t.1.getD i none) (t.2.getD j none)).1)).sum))).flatten)

/-- STREAM_SHAPER_GRANT and STAGING_BUFFER_GRANT (R304, R370, R481): the first that waits in its claim takes what has come
free and leaves the queue, and its steps go on: a staging group needs the step's bytes free, and a step with array work room in the
queue of its bank (R284); one that is not the first waits on. -/
def Rows.WaitingRequestsAreGrantedInOrder : Prop :=
  (∀ (slot : BitVec 16) (s : State) (r : Req), alive s = true → running s slot.toNat = some r →
    let n := slot.toNat
    let head := s.haul.streamWaits.find? (fun m => ((reqOf s m).map (·.claim)) == some r.claim)
    (head ≠ some n → exec (.streamShaperGrant slot) s = .next s)
    ∧ (head = some n → ∀ s1, takeShaper s n r = (s1, true) → exec (.streamShaperGrant slot) s =
      .next (goOn { s1 with haul := { s1.haul with streamWaits := s1.haul.streamWaits.filter (· != n) } } n)))
  ∧ (∀ (claim : Nat) (s : State) (n i : Nat), alive s = true →
    s.cage.staging.find? (fun a => ((reqOf s a.1).map (·.claim)) == some claim) = some (n, i) →
    ∀ r t, reqOf s n = some r → (planOf r)[i]? = some t →
    let room := roomyGroup s claim (stagingNeed s r i t)
    (room.isSome = true → bankRoom s claim (stepEngines r t.typ) = true → exec (.stagingBufferGrant claim) s = .next
      (goOn { s with cage := { s.cage with staging := s.cage.staging.filter (· != (n, i)) } } n))
    ∧ (room = none ∨ bankRoom s claim (stepEngines r t.typ) = false → exec (.stagingBufferGrant claim) s = .next s))

/-- BUCKET_REFILL (R54, R372): of a running claim without open streams every policer and egress bucket is refilled and
limited under the SHAPER section in force, which a changed one becomes here; then what waited on the change ends. -/
def Rows.BucketsAreRefilled : Prop :=
  ∀ (claim : Nat) (s : State) (g : ClaimCfg) (old : ShaperSec), cfgOf s claim = some g →
    kget s.haul.shapers claim = some old → alive s = true → claimRuns s claim = true → claim < 4 →
    let sec := (g.shaper.map (·.sec)).getD old
    let s1 := { s with haul := { s.haul with shapers := kset s.haul.shapers claim sec } }
    let s2 := refillEgress (refillStreams (refillPolicers s1 claim sec) claim sec) g sec
    exec (.bucketRefill claim) s = .next (endEffect ((s2.haul.streams.filter (fun x => x.2.claim == claim)).foldl
      (fun s x => pumpStream s x.1) s2) (.shaper claim))
    ∧ (∀ t p, kget s.haul.policers (claim, t) = some p →
      let q := sec.police.getD (byteAt sec.policerMap t) ⟨0, 0⟩
      kget s2.haul.policers (claim, t) = some { p with
        micro := (min ((p.micro : Int) + ((q.rate * sec.refillUs : Nat) : Int)) ((1000000 * q.burst : Nat) : Int)).toNat
        profile := byteAt sec.policerMap t })

/-- Shapers and staging are granted in order; buckets are refilled. -/
def Obligations.WaitersAndBucketsAreServed : Prop :=
  Rows.WaitingRequestsAreGrantedInOrder ∧ Rows.BucketsAreRefilled

/-- GATE_WINDOW_ADVANCE (R376, R377): the next window of a link's list opens; after the last one the cycle is counted and
the list that the configuration gives begins, or the link is without a list where the configuration gives none. -/
def Rows.GateWindowsAdvance : Prop :=
  ∀ (link : Nat) (s : State) (g : GateRun) (c : Nat), kget s.haul.gates link = some g → linkOwner s link = some c →
    alive s = true → claimRuns s c = true →
    let left := g.spent - 1000 * ((g.windows.getD g.pos (0, 0)).1)
    let new := (((cfgOf s c).bind (·.gates)).bind (fun i => i.sec.find? (fun e => e.link == link))).map (·.windows)
    (g.pos + 1 < g.windows.length → exec (.gateWindowAdvance link) s = .next { s with haul := { s.haul with
      gates := kset s.haul.gates link { g with pos := g.pos + 1, spent := left } } })
    ∧ (g.windows.length ≤ g.pos + 1 → ∀ w, new = some w → exec (.gateWindowAdvance link) s = .next (endEffect
      { s with haul := { s.haul with
        gates := kset s.haul.gates link { g with windows := w, pos := 0, spent := left, cycles := satAdd 32 g.cycles 1 } } }
      (.gate link)))
    ∧ (g.windows.length ≤ g.pos + 1 → new = none → exec (.gateWindowAdvance link) s = .next (endEffect
      { s with haul := { s.haul with gates := kdel s.haul.gates link } } (.gate link)))

/-- ADIT_FRAME_EGRESS (R375, R377, R378, R389, R390) of classes 0 and 7, which pass the shapers: the first frame of the
class takes its flits from the link's credits, and the last frame of a message sends it; without the credits it waits. Of
another class it also waits for its bucket. -/
def Rows.FramesLeaveWithinTheirCredits : Prop :=
  ∀ (link cls : Nat) (s : State) (f : Frame) (rest : List Frame) (c : Nat),
    kgetD s.haul.frames (link, cls) [] = f :: rest → linkOwner s link = some c → alive s = true → claimRuns s c = true →
    (linkOf s link).st = 2 → unitOk s 0xD link = true →
    let flits := flitsOf f.len
    let avail := (linkOf s link).avail.getD cls 0
    (avail < flits → exec (.aditFrameEgress link cls) s = .next s)
    ∧ (cls ≠ 0 → cls ≠ 7 → bucketLets s c link cls = false → exec (.aditFrameEgress link cls) s = .next s)
    ∧ (flits ≤ avail → cls = 0 ∨ cls = 7 →
      let s1 := modLink { s with haul := { s.haul with frames := kset s.haul.frames (link, cls) rest } } link
        (fun y => { y with avail := lmod y.avail cls (fun a => a - flits) })
      (f.last = true → exec (.aditFrameEgress link cls) s = .next (emit s1 (.adit link cls f.msg)))
      ∧ (f.last = false → exec (.aditFrameEgress link cls) s = .next s1))

/-- UNIT_COMMAND_COMPLETE (R364 to R366, R438) on a unit in service of a running claim: the command its roster gives next
has run and is charged, its credit returns where it is a step's, an array's results go to staging with their numeric events, a Lode
holds the product of the weights it streamed (R246; else the function that it ran last is free, log 103), and Lamp traces it; spare
arrays whose bank reached its boundary are ACTIVE (R409); where the roster gives none nothing changes. -/
def Rows.UnitsRunWhatTheirRosterGives : Prop :=
  ∀ (claim engine unit units : Nat) (work : BankWork) (s : State), alive s = true → claimRuns s claim = true →
    unitOk s (unitClass engine) unit = true →
    let k : RUnit := ⟨claim, engine, unit⟩
    (serve s k units = none → exec (.unitCommandComplete claim engine unit units work) s = .next s)
    ∧ (∀ x r, serve s k units = some (x, r) →
      let s2 := gateReturn { s with haul := { s.haul with rosters := kset s.haul.rosters k r } } ⟨unitClass engine, unit⟩
        (if x.slot.isSome then 1 else 0)
      (engine = 0 → exec (.unitCommandComplete claim engine unit units work) s = .next
        (joinSpares (traceCommand (bankDone s2 unit x.slot (cmdWork s2 k work)) k x (instrOf s k x work) units)))
      ∧ (engine = 1 → exec (.unitCommandComplete claim engine unit units work) s = .next
        (joinSpares (traceCommand (lodeDone s2 unit (cmdWork s2 k work)) k x (instrOf s k x work) units)))
      ∧ (2 ≤ engine → exec (.unitCommandComplete claim engine unit units work) s = .next
        (joinSpares (traceCommand s2 k x (instrOf s k x work) units))))

/-- Gate windows advance, frames leave within their credits, units run their roster. -/
def Obligations.GatesFramesAndRostersAdvance : Prop :=
  Rows.GateWindowsAdvance ∧ Rows.FramesLeaveWithinTheirCredits ∧ Rows.UnitsRunWhatTheirRosterGives

/-- HL_TRAINING of a link in TRAINING or RETRAINING, HL_TRAIN_RETRY of one that is down (R61, R62, R64, R86). With fewer than 4
lanes the link is DOWN_WIDTH (4); without a common version it is NO_VERSION (5), a retrain that ends so with LINK_DOWN; otherwise it is UP over the lanes that
passed, the first time with its channels' 1,024, 6,144 and 128 credits and the window base of the training message, and what waited for
it goes on. A link in another STATE is left alone. -/
def Rows.HoistlinkTrainsToUp : Prop :=
  ∀ (t : HlTrain) (s : State), hlPowered s = true →
    let lanes := t.pass &&& ~~~s.hl.laneDisable
    let h := { s.hl with polFix := t.polarity &&& lanes, reversed := t.reversed, crcRun := 0 }
    let up := { h with st := 2, laneMask := lanes, peerSet := t.peerSet, chosen := 1 }
    let clock : BitVec 4 := if s.hl.refclkSrc then 2 else 1
    let b := { s.boot with refclk := s.boot.refclk ||| clock }
    ∀ (retry : Bool), let go := exec (if retry then .hlTrainRetry t else .hlTraining t) s
    let able := if retry then s.hl.st = 0 ∨ s.hl.st = 4 else s.hl.st = 1 ∨ s.hl.st = 3
    (¬ able → go = .next s)
    ∧ (able → popcount 16 lanes.toNat < 4 → s.hl.st ≠ 3 → go = .next { s with hl := { h with st := 4, laneMask := 0 } })
    ∧ (able → 4 ≤ popcount 16 lanes.toNat → t.peerSet &&& 1 = 0 → s.hl.st ≠ 3 →
      go = .next { s with hl := { h with st := 5, laneMask := 0, peerSet := t.peerSet, chosen := 0 } })
    ∧ (able → popcount 16 lanes.toNat < 4 → s.hl.st = 3 → go = .next (hlDown { s with hl := h } 4))
    ∧ (able → 4 ≤ popcount 16 lanes.toNat → t.peerSet &&& 1 = 0 → s.hl.st = 3 →
      go = .next (hlDown { s with hl := { h with peerSet := t.peerSet, chosen := 0 } } 5))
    ∧ (able → 4 ≤ popcount 16 lanes.toNat → t.peerSet &&& 1 ≠ 0 → alive s = true →
      (s.hl.chosen = 0 → go = .next (hlResume { s with boot := b, hl := { up with
        windowBase := t.base, vc := [1024, 6144, 128].map (fun n => { issued := BitVec.ofNat 32 n, avail := n }) } }))
      ∧ (s.hl.chosen ≠ 0 → go = .next (hlResume { s with boot := b, hl := up })))

/-- HL_RETRAIN and HL_FLIT_CRC_FAIL (R65, R86) on a link that is UP: the codewords that the FEC corrected are counted in
FEC_CORRECTED, and a failed flit in CRC_RETRY and replayed; the sixteenth failure in a row of one flit, and RETRAIN of HL_LINK_CTL,
take the link to RETRAINING with RETRAIN set and every credit kept. Whether the flit that fails is the one that failed last, and how
many codewords were corrected, are free values (log 77).
On a link that is not UP neither changes anything. -/
def Rows.HoistlinkRetrainsAndReplays : Prop :=
  ∀ (s : State), mgmtUp s = true →
    let again := (Config.free s.freeCtr % 2 == 1)
    let corrected := Config.free s.freeCtr / 2
    (s.hl.st = 2 → exec .hlRetrain s = .next { s with
      hl := { s.hl with st := 3, crcRun := 0, err := s.hl.err ||| 2 }
      hf := { s.hf with faultClass := 5, faultUnit := 0, cntLink := satAdd 16 s.hf.cntLink 1 } })
    ∧ (s.hl.st = 2 → s.hl.crcRun < 15 ∨ again = false → exec .hlFlitCrcFail s = .next { s with
      freeCtr := s.freeCtr + 1
      hl := { s.hl with fecCorrected := satAdd 24 s.hl.fecCorrected corrected, crcRetry := satAdd 24 s.hl.crcRetry 1
                        crcRun := if again then s.hl.crcRun + 1 else 1 }
      hf := { s.hf with faultClass := 1, faultUnit := 0 } })
    ∧ (s.hl.st = 2 → 15 ≤ s.hl.crcRun → ∃ t, exec .hlFlitCrcFail s = .next t ∧ (again = true → t = { s with
      freeCtr := s.freeCtr + 1
      hl := { s.hl with st := 3, fecCorrected := satAdd 24 s.hl.fecCorrected corrected, crcRetry := satAdd 24 s.hl.crcRetry 1
                        crcRun := 0, err := s.hl.err ||| 2 }
      hf := { s.hf with faultClass := 5, faultUnit := 0, cntLink := satAdd 16 s.hf.cntLink 1 } }))
    ∧ (s.hl.st ≠ 2 → exec .hlRetrain s = .next s ∧ exec .hlFlitCrcFail s = .next s)

/-- HL_LANE_FAIL (R86) of a lane in use: the link goes on over the lanes left with LANE_DROPPED, or, below 4, is DOWN_WIDTH
with no lane; no request, credit or ring changes. -/
def Rows.HoistlinkLanesFail : Prop :=
  ∀ (lane : Nat) (s : State), s.hl.st = 2 ∨ s.hl.st = 3 → lane < 16 → s.hl.laneMask.getLsbD lane = true →
    let left := s.hl.laneMask &&& ~~~(1#16 <<< lane)
    let hf := { s.hf with faultClass := 5, faultUnit := 0, cntLink := satAdd 16 s.hf.cntLink 1 }
    (4 ≤ popcount 16 left.toNat → exec (.hlLaneFail lane) s = .next { s with
      hl := { s.hl with laneMask := left, err := s.hl.err ||| 4 }, hf := hf })
    ∧ (popcount 16 left.toNat < 4 → exec (.hlLaneFail lane) s = .next { s with
      hl := { s.hl with st := 4, laneMask := 0, err := s.hl.err ||| 1 }, hf := hf })

/-- Hoistlink trains, retries, retrains, replays and loses lanes. -/
def Obligations.HoistlinkTrainsRetrainsAndLosesLanes : Prop :=
  Rows.HoistlinkTrainsToUp ∧ Rows.HoistlinkRetrainsAndReplays ∧ Rows.HoistlinkLanesFail

/-- HL_REFCLK_LOSS (R60, R86), in every STATE of a powered link. With a good partner REFCLK_SRC changes to it, REFCLK_SWITCH
is set and an UP link retrains, once: a link in another STATE keeps its STATE. Without one the link goes down, with no lane.
The clock that is lost no longer reads good; the rings, the credits and the queue of commands are as they were. -/
def Rows.HoistlinkSwitchesItsClock : Prop :=
  ∀ (s : State), hlPowered s = true →
    let used : BitVec 4 := if s.hl.refclkSrc then 2 else 1
    (∃ t, exec (.hlRefclkLoss true) s = .next t
      ∧ t.hl.refclkSrc = !s.hl.refclkSrc ∧ t.hl.err.getLsbD 3 = true
      ∧ (s.hl.st = 2 → t.hl.st = 3 ∧ t.hl.err.getLsbD 1 = true) ∧ (s.hl.st ≠ 2 → t.hl.st = s.hl.st)
      ∧ t.hl.rings = s.hl.rings ∧ t.hl.vc = s.hl.vc ∧ t.hl.laneMask = s.hl.laneMask
      ∧ t = { s with hl := t.hl, hf := t.hf, boot := { s.boot with
          refclk := (s.boot.refclk &&& ~~~used) ||| (3 &&& ~~~used) } })
    ∧ (∃ t, exec (.hlRefclkLoss false) s = .next t
      ∧ t.hl.st = 0 ∧ (s.hl.st = 2 ∨ s.hl.st = 3 → t.hl.laneMask = 0 ∧ t.hl.err.getLsbD 0 = true)
      ∧ t.hl.rings = s.hl.rings ∧ t.hl.vc = s.hl.vc ∧ t.hl.refclkSrc = s.hl.refclkSrc
      ∧ t = { s with hl := t.hl, hf := t.hf, boot := { s.boot with refclk := s.boot.refclk &&& ~~~3 } })

/-- HL_COMPANION_STATE_LOSS (R86, R430) is module-fatal with cause 2 while the block runs, and nothing otherwise.
HL_CREDIT_RETURN (R64, R65) of a channel of an UP link gives back at most the credits that messages of it hold, counts them in ISSUED,
and what waited for them goes on; on a link that is not UP nothing happens. -/
def Rows.HoistlinkStateLossAndCredits : Prop :=
  ∀ (s : State),
    (alive s = true → exec .hlCompanionStateLoss s = .next (moduleFatal s 2 none))
    ∧ (alive s = false → exec .hlCompanionStateLoss s = .next s)
    ∧ (s.hl.st = 2 → alive s = true → ∀ vc count, vc < 3 →
      let n := min count (vcOf s vc).held.length
      exec (.hlCreditReturn vc count) s = .next (hlResume { s with hl := { s.hl with vc := lmod s.hl.vc vc (fun x => { x with
        issued := x.issued + BitVec.ofNat 32 n, avail := x.avail + n, held := x.held.drop n }) } }))
    ∧ (s.hl.st ≠ 2 → ∀ vc count, exec (.hlCreditReturn vc count) s = .next s)

/-- Hoistlink switches its clock and retrains once, or goes down; state loss and credits. -/
def Obligations.HoistlinkSwitchesItsClock : Prop :=
  Rows.HoistlinkSwitchesItsClock ∧ Rows.HoistlinkStateLossAndCredits

/-- AD_TRAINING of a link in TRAINING or RETRAINING, AD_TRAIN_RETRY of one that is DOWN or MISWIRED (R383 to R386): no lane
leaves it DOWN (4), no common version NO_VERSION (5), and an identity that fails a check of R386 MISWIRED (6) with that
check's code; one that passes every check is UP with the peer's identity and the initial credits of R390, which a retrain with
the same peer keeps as they are, and a peer that was lost is reachable again. A MISWIRED link repeats the identities and the credits
alone, on the lanes and with the version it has. -/
def Rows.AditLinksTrainToUp : Prop :=
  ∀ (link : Nat) (t : AdTrain) (s : State) (c : Nat) (retry : Bool), linkOwner s link = some c → linkPowered s link = true →
    let x := linkOf s link
    let go := exec (if retry then .adTrainRetry link t else .adTraining link t) s
    let able := if retry then x.st = 4 ∨ x.st = 6 else x.st = 1 ∨ x.st = 3
    let lanes := t.pass &&& ~~~x.laneDisable
    let note := fun (y : AditLink) => { y with polFix := t.polarity &&& lanes, reversed := t.reversed, laneMask := lanes }
    let known := fun (y : AditLink) => if x.st = 6 then { y with laneMask := x.laneMask }
      else { note y with peerSet := t.peerSet, chosen := 1 }
    let common := x.st = 6 ∨ (lanes ≠ 0 ∧ t.peerSet &&& 1 ≠ 0)
    (¬ able → go = .next s)
    ∧ (able → x.st ≠ 6 → lanes = 0 → go = .next (modLink (linkDown s link 4) link note))
    ∧ (able → x.st ≠ 6 → lanes ≠ 0 → t.peerSet &&& 1 = 0 → go = .next (modLink (linkDown s link 5) link
      (fun y => { note y with peerSet := t.peerSet, chosen := 0 })))
    ∧ (able → common → identFault s c link t.ident ≠ 0 → go = .next (modLink (linkDown s link 6) link
      (fun y => { known y with miswire := identFault s c link t.ident, peer := some t.ident, err := y.err ||| 0x20 })))
    ∧ (able → common → identFault s c link t.ident = 0 → x.st ≠ 3 →
      go = .next (linkIsUp (notePeer (modLink { s with boot := { s.boot with
        refclk := s.boot.refclk ||| (if x.refclkSrc then 8 else 4) } } link (fun y => { known y with
          st := 2, miswire := 0, peer := some t.ident, crcRun := 0
          issued := 1760, returned := 0, avail := [32, 288, 288, 288, 288, 288, 288] })) c t.ident) link))
    ∧ (able → common → identFault s c link t.ident = 0 → x.st = 3 → ∀ p, x.peer = some p →
      p.serial = t.ident.serial → p.incarnation = t.ident.incarnation →
      go = .next (linkIsUp (notePeer (modLink { s with boot := { s.boot with
        refclk := s.boot.refclk ||| (if x.refclkSrc then 8 else 4) } } link (fun y => { known y with
          st := 2, miswire := 0, peer := some t.ident, crcRun := 0 })) c t.ident) link))

/-- The checks of R386 in their order: the code is the first that fails. -/
def Rows.IdentityChecksInTheirOrder : Prop :=
  ∀ (s : State) (c l : Nat) (i : AdIdentity),
    (i.district ≠ 0 → identFault s c l i = 1)
    ∧ (i.district = 0 → i.serial = Config.serial → identFault s c l i = 2)
    ∧ (i.district = 0 → i.serial ≠ Config.serial → i.tag ≠ (gangOf s c).tag → identFault s c l i = 3)
    ∧ (i.district = 0 → i.serial ≠ Config.serial → i.tag = (gangOf s c).tag →
      (i.gangSize ≠ ownOf s c (·.gangSize) ∨ ownOf s c (·.gangSize) ≤ i.moduleId ∨ i.moduleId = ownOf s c (·.gangModuleId)) →
      identFault s c l i = 4)
    ∧ (identFault s c l i = 0 → i.district = 0 ∧ i.serial ≠ Config.serial ∧ i.tag = (gangOf s c).tag
      ∧ i.gangSize = ownOf s c (·.gangSize) ∧ i.moduleId < i.gangSize ∧ i.moduleId ≠ ownOf s c (·.gangModuleId)
      ∧ ((linkOf s l).expModule = 0xFF ∨ i.moduleId = (linkOf s l).expModule)
      ∧ ((linkOf s l).expLink = 0xFF ∨ i.link = (linkOf s l).expLink))

/-- The checks of R386 after the fourth, and what a failed one leaves: DUPLICATE (5), PLAN (6), 0 where every check passes;
a MISWIRED link holds ALERT_N low, carries nothing, and is not counted toward reaching its peer. DUPLICATE looks at the
links of the same claim (log 37). -/
def Rows.MiswiredLinksCarryNothing : Prop :=
  (∀ (s : State) (c l : Nat) (i : AdIdentity), i.district = 0 → i.serial ≠ Config.serial → i.tag = (gangOf s c).tag →
    i.gangSize = ownOf s c (·.gangSize) → i.moduleId < i.gangSize → i.moduleId ≠ ownOf s c (·.gangModuleId) →
    let x := linkOf s l
    let dup := ∃ k, k < 48 ∧ k ≠ l ∧ linkOwner s k = some c ∧ (linkOf s k).st = 2
      ∧ ∃ j, (linkOf s k).peer = some j ∧ j.moduleId = i.moduleId ∧ j.serial ≠ i.serial
    let plan := (x.expModule = 0xFF ∨ i.moduleId = x.expModule) ∧ (x.expLink = 0xFF ∨ i.link = x.expLink)
    (dup → identFault s c l i = 5) ∧ (¬ dup → ¬ plan → identFault s c l i = 6) ∧ (¬ dup → plan → identFault s c l i = 0))
  ∧ (∀ (s : State) (l : Nat), (linkOf s l).st = 6 → l < s.adit.links.length →
    alertAsserted s = true ∧ openLink s l = none ∧ ∀ c p, l ∉ upLinks s c p)

/-- Adit links train, check their peer in order, and a MISWIRED one carries nothing (log 37 for DUPLICATE). -/
def Obligations.AditIdentitiesAreChecked : Prop :=
  Rows.AditLinksTrainToUp ∧ Rows.IdentityChecksInTheirOrder ∧ Rows.MiswiredLinksCarryNothing

/-- AD_RETRAIN, AD_FLIT_CRC_FAIL, AD_LANE_FAIL (R388) on a link that is UP: as on Hoistlink, the corrected symbols are counted, and the
sixteenth failure of one flit in a row and RETRAIN take it to RETRAINING with RETRAIN set; a lane that fails leaves the others with LANE_DROPPED; the last one takes the link
DOWN. Only that link and Headframe's fault record change, but for a link that goes down. -/
def Obligations.AditLinksRetrainAndLoseLanes : Prop :=
  ∀ (link : Nat) (s : State), alive s = true → (linkOf s link).st = 2 →
    let x := linkOf s link
    let retrained := fun (s : State) => faultEvent (modLink s link (fun x => { x with
      st := 3, crcRun := 0, err := x.err ||| 4 })) 5 0
    let counted := fun (again : Bool) (corrected : Nat) => faultEvent (modLink s link (fun x => { x with
      fecCorrected := satAdd 24 x.fecCorrected corrected, crcRetry := satAdd 24 x.crcRetry 1
      crcRun := if again then x.crcRun + 1 else 1 })) 1 0
    exec (.adRetrain link) s = .next (retrained s)
    ∧ (∀ again corrected, again = false ∨ x.crcRun < 15 → exec (.adFlitCrcFail ⟨link, again, corrected⟩) s = .next (counted again corrected))
    ∧ (∀ corrected, link < s.adit.links.length → 15 ≤ x.crcRun →
      exec (.adFlitCrcFail ⟨link, true, corrected⟩) s = .next (retrained (counted true corrected)))
    ∧ (∀ lane, lane < 4 → x.laneMask.getLsbD lane = true →
      let left := x.laneMask &&& ~~~(1#4 <<< lane)
      (left = 0 → exec (.adLaneFail link lane) s = .next (linkDown s link 4))
      ∧ (left ≠ 0 → exec (.adLaneFail link lane) s = .next
        (faultEvent (modLink s link (fun x => { x with laneMask := left, err := x.err ||| 8 })) 5 0)))

/-- AD_REFCLK_LOSS (R381): with a good partner every link takes the other clock, and one that is UP also sets REFCLK_SWITCH
and retrains; without one every link that is not OFF goes DOWN. LIVENESS (R390) takes a credit of class LINK and sends
a frame of it; it waits behind frames of the class and for a credit. CLASS7_FRAME is dropped and noted in bit 0 of the link's errors. -/
def Obligations.AditClocksLivenessAndClass7 : Prop :=
  ∀ (s : State), alive s = true →
    (let src := (linkOf s 0).refclkSrc
     exec (.adRefclkLoss true) s = .next ((List.range 48).foldl (fun s l =>
        if (linkOf s l).st = 2 then adRetrain (modLink s l (fun x => { x with refclkSrc := !src, err := x.err ||| 0x10 })) l
        else modLink s l (fun x => { x with refclkSrc := !src }))
      { s with boot := { s.boot with refclk := (s.boot.refclk &&& 3) ||| (if src then 4 else 8) } }))
    ∧ (exec (.adRefclkLoss false) s = .next ((List.range 48).foldl (fun s l =>
        if (linkOf s l).st = 0 then s else linkDown s l 4) { s with boot := { s.boot with refclk := s.boot.refclk &&& 3 } }))
    ∧ (∀ link c i, openLink s link = some (c, i) → s.adit.held = [] →
      (0 < (linkOf s link).avail.getD 0 0 → kgetD s.haul.frames (link, 0) [] = [] → exec (.liveness link) s = .next (emit
        (modLink s link (fun x => { x with avail := lmod x.avail 0 (· - 1) })) (.adit link 0 (linkMsg s c i.moduleId [1]))))
      ∧ ((linkOf s link).avail.getD 0 0 = 0 ∨ kgetD s.haul.frames (link, 0) [] ≠ [] → exec (.liveness link) s =
        .next (queueFrames s link 0 (framesOf (linkMsg s c i.moduleId [1]))))
      ∧ exec (.class7Frame link) s = .next (modLink s link (fun x => { x with err := x.err ||| 1 })))

/-- QUERY, FETCH and SCATTER (R390 to R392, R394) where no message waits in a receive buffer: a STALE message has its credits
returned, sets bit 6 of the link's errors and is discarded; a duplicate is acknowledged again and discarded; another
is acknowledged, marked and served once; with the remote-work table full, or of a row of a ledger that a swap or a new table
holds up (R204, R205), a message waits in its buffer. A QUERY runs at the epoch of its arrival (R164). -/
def Rows.PeerMessagesAreServedOnce : Prop :=
  ∀ (link : Nat) (m : AdMsg) (s : State) (c : Nat) (i : AdIdentity) (cls : Nat), openLink s link = some (c, i) →
    m.src = i.moduleId → s.adit.held = [] → cls = 1 ∨ cls = 3 ∨ cls = 5 →
    let go := exec (if cls = 1 then .query link m else if cls = 3 then .fetch link m else .scatter link m) s
    let p := kgetD (gangOf s c).peers i.moduleId {}
    let s1 := returnCredits s c link cls i m true
    let s2 := modGang s1 c (fun g => { g with peers := kset g.peers i.moduleId (markPeerSeq p m.peerSeq) })
    let full := 4096 ≤ (gangOf s c).remote.length
    let epoch := (pitOf s c m.object).live.p
    let paused := (cls = 5 ∨ (cls = 3 ∧ fld m.payload 0 8 = 0)) ∧ (ledgerSecOf s c m.object).isSome = true ∧ ledgerOpen s c m.object = false
    (isStale s c i m = true → go = .next (modLink (returnCredits s c link cls i m false) link
      (fun x => { x with err := x.err ||| 0x40 })))
    ∧ (isStale s c i m = false → full ∨ paused → go = .next { s with adit := { s.adit with held := [⟨link, cls, m, epoch⟩] } })
    ∧ (isStale s c i m = false → ¬ full → ¬ paused → isDuplicate p m.peerSeq = true → go = .next s1)
    ∧ (isStale s c i m = false → ¬ full → ¬ paused → isDuplicate p m.peerSeq = false →
      go = .next (if cls = 1 then serveQuery s2 link m epoch c else if cls = 3 then serveFetch s2 m c else serveScatter s2 m c))

/-- What the receiver keeps of message numbers (R391), while fewer than its 65,536 marks are in use: a number marked is a
duplicate from then on, whatever else has come, and every other number that was still to be accepted still is. -/
def Rows.MessageNumbersAreAcceptedOnce : Prop :=
  ∀ (p : PeerState) (q : W32), p.marked.length < 65536 →
    isDuplicate (markPeerSeq p q) q = true
    ∧ ∀ q', q' ≠ q → isDuplicate p q' = false → isDuplicate (markPeerSeq p q) q' = false

/-- Every message of a peer is served once, and every number is accepted once. -/
def Obligations.PeerMessagesAreServedOnce : Prop :=
  Rows.PeerMessagesAreServedOnce ∧ Rows.MessageNumbersAreAcceptedOnce

/-- ANSWER and REPLY (R393) for a request at home. One whose request has retired is discarded and counted in LATE; one that
is awaited joins its search, or is kept for the step that fetched it, and is awaited no more; one that reports a
configuration fault ends the request with UNIT_FENCED naming the peer. -/
def Rows.AnswersReachTheirRequest : Prop :=
  ∀ (link : Nat) (m : AdMsg) (s : State) (c : Nat) (i : AdIdentity) (reply : Bool), openLink s link = some (c, i) →
    m.src = i.moduleId → isStale s c i m = false →
    let cls := if reply then 4 else 2
    let ask := if reply then 3 else 1
    let go := exec (if reply then .reply link m else .answer link m) s
    let p := kgetD (gangOf s c).peers i.moduleId {}
    let s2 := modGang (returnCredits s c link cls i m true) c
      (fun g => { g with peers := kset g.peers i.moduleId (markPeerSeq p m.peerSeq) })
    let n := m.handle.toNat % 65536
    isDuplicate p m.peerSeq = false →
    (reqOf s2 n = none → go = .next (countLate s2 c))
    ∧ (∀ r, reqOf s2 n = some r → handleOf s2 n ≠ m.handle.toNat ∨ r.claim ≠ c ∨ r.commit ≠ none → go = .next (countLate s2 c))
    ∧ (∀ r a, reqOf s2 n = some r → handleOf s2 n = m.handle.toNat → r.claim = c → r.commit = none →
      s2.adit.awaits.find? (fun a => a.slot == n && a.step == m.step && a.cls == ask && a.peer == m.src) = some a →
      let s3 := { s2 with adit := { s2.adit with awaits := s2.adit.awaits.filter (fun b => b != a) } }
      (m.payload = [] → go = .next (commitReq (modLink s3 link (fun x => { x with err := x.err ||| 0x80 })) n 9
        (unitDetail ⟨0x10, m.src⟩ 9)))
      ∧ (m.payload ≠ [] → reply = true → go = .next { s3 with adit := { s3.adit with
          fetched := (a.what.zip (replyItems m.payload.length (m.payload.drop 8))).foldl
            (fun t x => kset t (n, fetchKey (fld m.payload 0 8) m.object x.1) x.2) s3.adit.fetched } })
      ∧ (m.payload ≠ [] → reply = false → ∃ t, go = .next t ∧ t = { s3 with drift := t.drift }))

/-- CANCEL (R393): the remote work of the request is dropped with its searches, and what waits of it in receive buffers goes.
LINK_FRAME (R390): the credits of each class are granted, the acknowledged messages are no longer kept, and messages to that peer that
waited for its acknowledgements go. -/
def Rows.WorkIsCancelledAndCreditsReturn : Prop :=
  (∀ (link : Nat) (m : AdMsg) (s : State) (c : Nat) (i : AdIdentity), openLink s link = some (c, i) →
    m.src = i.moduleId → isStale s c i m = false → s.adit.held = [] →
    let p := kgetD (gangOf s c).peers i.moduleId {}
    let s2 := modGang (returnCredits s c link 6 i m true) c
      (fun g => { g with peers := kset g.peers i.moduleId (markPeerSeq p m.peerSeq) })
    isDuplicate p m.peerSeq = false →
    exec (.cancel link m) s = .next (dropRemote s2 c (fun w => w.msg.src == m.src && w.msg.handle == m.handle)))
  ∧ (∀ (link : Nat) (credits : List Nat) (acked : List W32) (s : State) (c : Nat) (i : AdIdentity),
    openLink s link = some (c, i) → s.adit.held = [] →
    exec (.linkFrame link credits acked) s = .next (sendWaiting (modGang (modLink s link (fun x => { x with
      issued := x.issued + BitVec.ofNat 32 (credits.take 7).sum, returned := x.returned + 1
      avail := (x.avail.zip (List.range 7)).map (fun a => a.1 + credits.getD a.2 0) })) c (fun g => { g with
        peers := kmod g.peers i.moduleId (fun p => { p with
          unacked := p.unacked.filter (fun m => !acked.contains m.msg.peerSeq) }) })) c i.moduleId))

/-- PEER_LOSS_TIMEOUT and LEAVING_NOTICE (R394): a gang module with no link UP for LOSS_US, or whose claim leaves over a link that
is UP, is lost: its bit is set, every request of the claim that awaits it ends with UNIT_FENCED naming it, and its remote
work is dropped. One that is lost already, and the module itself, are not lost again. -/
def Rows.PeersAreLost : Prop :=
  ∀ (claim peer : Nat) (s : State), s.adit.held = [] →
    (canLose s claim peer = false →
      exec (.peerLossTimeout claim peer) s = .next s ∧ exec (.leavingNotice claim peer) s = .next s)
    ∧ (canLose s claim peer = true → ∀ t, t = (dedup ((s.adit.awaits.filter (fun a => a.peer == peer)).map (·.slot))).filter
        (fun n => ((running s n).map (fun r => r.claim == claim)).getD false) →
      t = [] →
      let s1 := dropRemote (modGang s claim (fun g => { g with lost := g.lost ||| 2 ^ peer })) claim (fun w => w.msg.src == peer)
      (upLinks s claim peer = [] → exec (.peerLossTimeout claim peer) s = .next s1)
      ∧ (upLinks s claim peer ≠ [] → exec (.leavingNotice claim peer) s = .next s1))

/-- Answers reach their request; work is cancelled; credits return; peers are lost (payload layouts, log 26). -/
def Obligations.AnswersCancelsAndLostPeers : Prop :=
  Rows.AnswersReachTheirRequest ∧ Rows.WorkIsCancelledAndCreditsReturn ∧ Rows.PeersAreLost

/-- SELFTEST_REQUEST (R410, R412) of a unit that the claim owns: a unit with a spare, or with FORCE, is asked to be tested and its
command waits; one without is deferred to job end and completes with DEFERRED (0x0F); a unit that is not the claim's, is
retired or has no test is refused with FIELD. SELFTEST_RUN (R411): the spare, or a unit without one at its shift boundary,
is fenced for its test. -/
def Rows.SelfTestsAreAskedAndRun : Prop :=
  (∀ (d : Desc) (s : State) (o : Origin) (s1 : State), LineAccepted s d 0x13 o s1 → o.req = 0xFFFFFFFF →
    byteAt d.line 18 / 2 = 0 → zeroAt d.line 19 109 = true →
    let u : UnitId := ⟨byteAt d.line 16, byteAt d.line 17⟩
    let ok := testClass u.cls = true ∧ ownsUnit s1 o.claim u = true ∧ s1.power.retired.contains u = false
    let force := byteAt d.line 18 % 2 = 1
    (¬ ok → exec (.selftestRequest d) s = .next (bad s1 o 0x16))
    ∧ (ok → testDefers s1 o.claim u = false ∨ force → exec (.selftestRequest d) s = .next { s1 with power := { s1.power with
        tests := s1.power.tests ++ [⟨u, o.claim, byteAt d.line 18 % 2 == 1, some o⟩] } })
    ∧ (ok → testDefers s1 o.claim u = true → ¬ force → s1.power.deferred.contains (u, o.claim) = false →
      exec (.selftestRequest d) s = .next (done { s1 with power := { s1.power with
        deferred := s1.power.deferred ++ [(u, o.claim)] } } o 0x0F 0)))
  ∧ (∀ (cls idx : Nat) (s : State) (t : TestReq), s.power.tests.find? (fun t => t.unit == ⟨cls, idx⟩) = some t →
    alive s = true → ((kget s.hf.fences ⟨cls, idx⟩).map (·.st)).getD 0 = 0 →
    s.power.testing.any (fun x => x.unit == ⟨cls, idx⟩) = false →
    let s1 := { s with power := { s.power with
      tests := s.power.tests.filter (fun x => x != t), testing := s.power.testing ++ [t] } }
    (cls = 0xD → exec (.selftestRun cls idx) s = .next (modLink s1 idx (fun x => { x with calibrating := true })))
    ∧ (cls ≠ 0xD → spareFor s t.claim ⟨cls, idx⟩ = none → atBoundary s ⟨cls, idx⟩ = true →
      exec (.selftestRun cls idx) s = .next (setFenceSt s1 ⟨cls, idx⟩ 3))
    ∧ (cls ≠ 0xD → spareFor s t.claim ⟨cls, idx⟩ = some idx → s.power.testing.any (fun x => sameSpare x t) = false →
      exec (.selftestRun cls idx) s = .next (setFenceSt s1 ⟨cls, idx⟩ 3))
    ∧ (∀ sp, cls = 0 → spareFor s t.claim ⟨cls, idx⟩ = some sp → sp ≠ idx → spareFree s t sp = true →
      atBoundary s ⟨cls, idx⟩ = true → exec (.selftestRun cls idx) s = .next (setFenceSt { s1 with power := { s1.power with
        spares := kset s1.power.spares (idx / 8) idx } } ⟨cls, idx⟩ 3)))

/-- SELFTEST_DONE (R409, R411, R414) of a test that a command asked for: the unit that passes serves on (or stays FENCED, where it was
fenced meanwhile) and the command completes with 0; an array that fails, or a unit whose spare serves, is retired, any other is fenced with cause 5, and the command completes
with 1. ADIT_CALIBRATION (R413): lanes retrain one at a time with
LANE_DROPPED, or, on one lane, the link retrains with RETRAIN. DOMAIN_SWITCH_GROUP (R401): the next group switches and
the starts that waited go on. -/
def Rows.SelfTestsEnd : Prop :=
  (∀ (cls idx : Nat) (s : State) (t : TestReq) (o : Origin), alive s = true → kget s.hf.unfences ⟨cls, idx⟩ = none →
    s.power.testing.find? (fun t => t.unit == ⟨cls, idx⟩) = some t → t.o = some o → cls ≠ 0xD →
    s.power.retired.contains ⟨cls, idx⟩ = false →
    let s1 := { s with power := { s.power with testing := s.power.testing.filter (fun x => x.unit != ⟨cls, idx⟩) } }
    let s2 := if ((kget s.hf.fences ⟨cls, idx⟩).map (·.st)).getD 0 = 2 then s1 else setFenceSt s1 ⟨cls, idx⟩ 0
    exec (.selftestDone cls idx true) s = .next (done s2 o 0 0)
    ∧ (cls = 0 ∨ spareFor s t.claim ⟨cls, idx⟩ = some idx →
      exec (.selftestDone cls idx false) s = .next (done (retire s2 ⟨cls, idx⟩) o 0 1))
    ∧ (cls ≠ 0 → spareFor s t.claim ⟨cls, idx⟩ ≠ some idx →
      exec (.selftestDone cls idx false) s = .next (done (fenceUnit s2 ⟨cls, idx⟩ 5) o 0 1)))
  ∧ (∀ (link : Nat) (s : State), alive s = true → link < 48 → (linkOf s link).calibrating = true → (linkOf s link).st = 2 →
    (1 < linkWidth s link → exec (.aditCalibration link) s = .next (modLink s link (fun x => { x with err := x.err ||| 8 })))
    ∧ (linkWidth s link ≤ 1 → exec (.aditCalibration link) s = .next (modLink s link (fun x => { x with err := x.err ||| 4 }))))
  ∧ (∀ s : State, alive s = true → exec .domainSwitchGroup s = .next (goStarts (switchGroup s)))

/-- Self-tests are asked, run and end; calibration; domain groups. -/
def Obligations.SelfTestsAreAskedRunAndEnd : Prop :=
  Rows.SelfTestsAreAskedAndRun ∧ Rows.SelfTestsEnd

/-- What a reset clears and keeps (R18, R431): claims, slots, rings, searches, the Cage and everything else outside flash
and the retirement record and the fuses read as State.reset has them; the key slots, BOOT_COUNT, the attach count and the
retired units are kept; a pit or ledger holds what was durable. -/
def Rows.ResetKeepsWhatIsDurable : Prop :=
  ∀ (kind : Nat) (s : State),
    let t := resetAll kind s
    let z := State.reset
    t.hf = z.hf ∧ t.claims = z.claims ∧ t.hl = z.hl ∧ t.fm = z.fm ∧ t.slots = z.slots ∧ t.drift = z.drift ∧ t.eng = z.eng
    ∧ t.face = z.face ∧ t.cage = z.cage ∧ t.haul = z.haul ∧ t.banks = z.banks ∧ t.adit = z.adit ∧ t.watch = z.watch
    ∧ t.cmds = z.cmds ∧ t.boot.stage = 0 ∧ t.boot.fatalCause = 0 ∧ t.boot.resetKind = kind
    ∧ t.sec.keys = s.sec.keys ∧ t.sec.bootCount = s.sec.bootCount ∧ t.sec.attaches = s.sec.attaches
    ∧ t.sec.log = z.sec.log ∧ t.power.retired = s.power.retired
    ∧ t.flash.seams = s.flash.seams ∧ t.host = s.host
    ∧ (∀ c p, kget t.store.pits (c, p) = (kget s.store.pits (c, p)).map (fun x =>
        { layout := x.layout, live := x.dur, dur := x.dur, published := x.published }))

/-- RESET_N_ASSERT, HOLDUP_END and INPUT_LOSS (R351, R402, R431): asserting RESET_N flushes the seam dies and resets
the module as kind 2; the end of hold-up resets it as kind 1 with the TAP cleared; an input below 40 V or above 60 V
flushes the dies, whose tail is written where hold-up is at least 3 ms, and sheds every domain but the seam quarters; an
input in its range is no loss. -/
def Rows.ResetAndInputLoss : Prop :=
  ∀ (s : State),
    (s.boot.resetN = true → s.boot.stage ≠ 0 → exec .resetNAssert s = .next
      (resetAll 2 (flushDies { s with boot := { s.boot with resetN := false } } true)))
    ∧ (s.boot.resetN = false → exec .resetNAssert s = .next s)
    ∧ (s.power.inputOk = false → exec .holdupEnd s = .next (resetAll 1 { s with sec := { s.sec with tap := {} } }))
    ∧ (s.power.inputOk = true → exec .holdupEnd s = .next s)
    ∧ (∀ mv, 40000 ≤ mv → mv ≤ 60000 → exec (.inputLoss mv) s = .next s)
    ∧ (∀ mv, mv < 40000 ∨ 60000 < mv → s.power.inputOk = true → s.boot.resetN = true → s.boot.stage = 3 →
      exec (.inputLoss mv) s = .next (shed (flushDies { s with power := { s.power with
        inputOk := false, inputMv := min 65535 (mv / 10), err := s.power.err ||| 0x40 } } (decide (3000 ≤ s.boot.holdupUs)))))

/-- RESET_N_RELEASE and POWER_ON (R402, R466, R470): bring-up runs when RESET_N is high and the input is in range, whichever
came last, and only from reset; otherwise only the pin, or the input, changes. -/
def Rows.BringUpRaisesTheModule : Prop :=
  ∀ (b : BringUp) (s : State),
    (s.boot.resetN = true → exec (.resetNRelease b) s = .next s)
    ∧ (s.boot.resetN = false → s.power.inputOk = true → exec (.resetNRelease b) s = .next
      (bringUp b { s with boot := { s.boot with resetN := true } }))
    ∧ (s.boot.resetN = false → s.power.inputOk = false → exec (.resetNRelease b) s = .next
      { s with boot := { s.boot with resetN := true } })
    ∧ (s.power.inputOk = true → exec (.powerOn b) s = .next s)
    ∧ (s.power.inputOk = false → s.boot.resetN = true → s.boot.stage = 0 → exec (.powerOn b) s = .next
      (bringUp b { s with power := { s.power with inputOk := true } }))
    ∧ (s.power.inputOk = false → s.boot.resetN = true → s.boot.stage ≠ 0 → exec (.powerOn b) s = .next
      { s with power := { s.power with inputOk := true } })

/-- What bring-up without a failed unit or a leak leaves (R369, R455, R466, R469, R470): the module is up, Hoistlink is TRAINING, every
seam die recovers, BOOT_COUNT is one more, the log holds two entries more; two good straps give the address 0x30 plus
the code, and a hold-up below 5 ms sets bit 5 of HF_PINS. -/
def Rows.BringUpMeasuresAndReads : Prop :=
  ∀ (b : BringUp) (s : State), b.failed = [] → b.leak = false →
    let t := bringUp b s
    t.boot.stage = 3 ∧ t.hl.st = 1 ∧ (∀ d ∈ t.flash.dies, d.st = 1)
    ∧ t.sec.bootCount = satAdd 64 s.sec.bootCount 1 ∧ t.sec.logCount = s.sec.logCount + 2
    ∧ t.boot.holdupUs = min 65535 b.holdupUs ∧ t.haul.calState = (if b.calOk then 1 else 2)
    ∧ (b.holdupUs < 5000 → t.boot.pinErr.getLsbD 5 = true)
    ∧ (∀ l0 l1, b.strap0 = some l0 → b.strap1 = some l1 → l0 < 4 → l1 < 4 →
      t.boot.strapValid = true ∧ t.boot.staticAddr = BitVec.ofNat 8 (0x30 + 4 * l1 + l0))
    ∧ (b.strap0 = none → t.boot.strapValid = false ∧ t.boot.staticAddr = 0x2F ∧ t.boot.pinErr.getLsbD 4 = true)

/-- Reset keeps what is durable; input loss; bring-up and what it measures. -/
def Obligations.ResetAndBringUp : Prop :=
  Rows.ResetKeepsWhatIsDurable ∧ Rows.ResetAndInputLoss ∧ Rows.BringUpRaisesTheModule ∧ Rows.BringUpMeasuresAndReads

/-- The I3C bus and the MCTP control commands (R467, R468): a held bus sets bit 3 of the pin errors and the sideband
answers nothing until it frees; a dynamic address and an endpoint ID are taken, 0x00 and 0xFF are refused with completion
code 0x02, and each query is answered with the block's fixed data. The message bodies are DSP0236's (log 33). -/
def Obligations.SidebandAnswersItsController : Prop :=
  ∀ (s : State) (eid addr : Byte),
    (s.boot.resetN = true → s.boot.stage = 3 → exec .sidebandBusHeld s = .next
      { s with boot := { s.boot with busHeld := true, pinErr := s.boot.pinErr ||| 8 } })
    ∧ exec .i3cBusFree s = .next { s with boot := { s.boot with busHeld := false } }
    ∧ (s.boot.busHeld = true → exec (.setEndpointId eid) s = .next s ∧ exec .getEndpointId s = .next s
      ∧ exec (.i3cDynamicAddress addr) s = .next s ∧ exec (.read8 0) s = .next s)
    ∧ (sidebandUp s = true →
      exec (.i3cDynamicAddress addr) s = .next { s with boot := { s.boot with dynAddr := addr } }
      ∧ (eid ≠ 0 → eid ≠ 0xFF → exec (.setEndpointId eid) s = .next (emit { s with boot := { s.boot with eid := eid } }
        (.sideband [1, 0, 0, eid, 0])))
      ∧ (eid = 0 ∨ eid = 0xFF → exec (.setEndpointId eid) s = .next (emit s (.sideband [1, 2])))
      ∧ exec .getEndpointId s = .next (emit s (.sideband [2, 0, s.boot.eid, 0, 0]))
      ∧ exec .getMctpVersionSupport s = .next (emit s (.sideband [4, 0, 1, 0xF1, 0xF3, 0xFF, 0]))
      ∧ exec .getMessageTypeSupport s = .next (emit s (.sideband [5, 0, 1, 0x7F]))
      ∧ exec .getVendorDefinedMessageSupport s = .next
        (emit s (.sideband ([6, 0, 0xFF, 1] ++ beBytes 4 Config.iana ++ [0, 0]))))

/-- The four ways to reach a register (R85, R430, R459, R467, R475), with the code of the access: 0 writes it, any other leaves
every register but HL_MGMT_ERR as it was, which takes the code and the offset. A write over Hoistlink returns a
management credit and is answered as the channel has credits; a read over Hoistlink is answered with the register's value. An access that
is not answered within 20 µs is answered TIMEOUT (4). -/
def Rows.RegisterWritesAreAnswered : Prop :=
  ∀ (s : State) (off : BitVec 26) (value : W64),
    let code (w : Nat) (o : Nat) := accessCode s false w o
    let wrote (w : Nat) (o : Nat) := if code w o = 0 then writeReg s o value.toNat else { s with hl := { s.hl with
      mgmtErrCode := code w o, mgmtErrOffset := BitVec.ofNat 26 o } }
    (upNow s = true → linkUp s = true → ∀ width,
      let s0 := hlGot s 2 1
      let c0 := accessCode s0 false width off.toNat
      let c1 := accessCode s0 true width off.toNat
      exec (.registerWrite off width (some value)) s = .next (answerMgmt
        (if c0 = 0 then writeReg s0 off.toNat value.toNat else noteMgmt s0 c0 off.toNat) off.toNat c0 0)
      ∧ (c1 = 0 → let t := passRead s0 off.toNat
        exec (.registerWrite off width none) s = .next (answerMgmt (noteMgmt t 0 off.toNat) off.toNat 0
          (BitVec.ofNat 64 (readReg t off.toNat))))
      ∧ (c1 ≠ 0 → exec (.registerWrite off width none) s = .next (answerMgmt (noteMgmt s0 c1 off.toNat) off.toNat c1 0)))
    ∧ (sidebandUp s = true → ∀ o : W32, exec (.write8 o value) s = .next (emit (wrote 8 o.toNat)
        (.sideband (leBytes 1 (code 8 o.toNat) ++ leBytes 4 0 ++ leBytes 8 0))))
    ∧ (mgmtUp s = true → linkUp s = true → exec (.mgmtAccessTimeout off) s = .next (answerMgmt (noteMgmt (hlGot s 2 1) 4 off.toNat)
        off.toNat 4 0))
    ∧ (mgmtUp s = true → linkUp s = false → exec (.mgmtAccessTimeout off) s = .next (emit { s with hl := { s.hl with
        mgmtErrCode := 4, mgmtErrOffset := off } } (.mgmt off.toNat 4 0)))
    ∧ (linkUp s = false → ∀ width v, exec (.registerWrite off width v) s = .next s)

/-- READ8 and MGMT (R430, R459, R467): a read that the block answers gives the register's 64 bits with code 0; one that it does
not gives the code and zeros; once a fatal cause is latched every access but a read of HF_FATAL (0x228) is FENCED (3). -/
def Rows.RegisterReadsAreAnswered : Prop :=
  ∀ (s : State) (o : W32) (off : BitVec 26),
    (sidebandUp s = true → accessCode s true 8 o.toNat = 0 → exec (.read8 o) s = .next (emit (passRead s o.toNat)
      (.sideband (leBytes 1 0 ++ leBytes 4 0 ++ leBytes 8 (readReg (passRead s o.toNat) o.toNat)))))
    ∧ (sidebandUp s = true → accessCode s true 8 o.toNat ≠ 0 → exec (.read8 o) s = .next (emit { s with hl := { s.hl with
        mgmtErrCode := accessCode s true 8 o.toNat, mgmtErrOffset := BitVec.ofNat 26 o.toNat } }
      (.sideband (leBytes 1 (accessCode s true 8 o.toNat) ++ leBytes 4 0 ++ leBytes 8 0))))
    ∧ (let s0 := loadInstr s 6
       tapOn s = true → accessCode s0 true 8 off.toNat = 0 → exec (.mgmt (.read off)) s = .next (emit (passRead s0 off.toNat)
        (.mgmt off.toNat 0 (BitVec.ofNat 64 (readReg (passRead s0 off.toNat) off.toNat)))))
    ∧ (let s0 := loadInstr s 6
       tapOn s = true → ∀ v, accessCode s0 false 8 off.toNat = 0 → exec (.mgmt (.write off v)) s = .next
        (emit (writeReg s0 off.toNat v.toNat) (.mgmt off.toNat 0 0)))
    ∧ (s.boot.fatalCause ≠ 0 → ∀ read width x, (read = false ∨ x ≠ 0x228) → accessCode s read width x = 3)
    ∧ (s.boot.fatalCause ≠ 0 → accessCode s true 8 0x228 = 0)
    ∧ (s.boot.fatalCause = 0 → ∀ read width x, width ≠ 8 ∨ x % 8 ≠ 0 → accessCode s read width x = 1)

/-- What a register write does by its access code (R16, R56, R69, R308, R439): W1C bits written 1 are cleared and others kept; an
offset with no register discards; CG_HOST_BASE, LP_BASE and LP_LINES are kept while their claim runs or the trace is on;
the ring tables take their aligned address. -/
def Rows.WritesFollowTheAccessCodes : Prop :=
  ∀ (s : State) (v : Nat),
    (∀ off, off % 8 ≠ 0 → writeReg s off v = s)
    ∧ writeReg s 0x308 v = { s with boot := { s.boot with pinErr := s.boot.pinErr &&& ~~~(BitVec.ofNat 6 v) } }
    ∧ writeReg s 0x100040 v = { s with hl := { s.hl with err := w1c s.hl.err v } }
    ∧ (∀ c, c < 4 → writeReg s (0x100100 + 8 * c) v = { s with hl := { s.hl with
        ringTable := lmod s.hl.ringTable c (fun _ => BitVec.ofNat 64 (v / 65536 * 65536)) } })
    ∧ (∀ c, c < 4 → claimRuns s c = true → writeReg s (0x800040 + 8 * c) v = s)
    ∧ (∀ c, c < 4 → claimRuns s c = false → writeReg s (0x800040 + 8 * c) v = { s with cage := { s.cage with
        hostBase := lmod s.cage.hostBase c (fun _ => BitVec.ofNat 64 (v / 65536 * 65536)) } })
    ∧ (∀ c, c < 4 → (lampOf s c).enable = true → writeReg s (0xB40020 + 8 * c) v = s ∧ writeReg s (0xB40040 + 8 * c) v = s)
    ∧ writeReg s 0x200000 v = s ∧ writeReg s 0 v = s

/-- Register accesses over Hoistlink, the sideband and JTAG, and what they write. -/
def Obligations.RegistersAreReadAndWritten : Prop :=
  Rows.RegisterWritesAreAnswered ∧ Rows.RegisterReadsAreAnswered ∧ Rows.WritesFollowTheAccessCodes

/-- LAMP_LINE_TIMEOUT (R439): a line of fewer than four records is completed with NONE records and written, and with nothing
queued nothing is written. WATCH_DUMP_WRITTEN (R445 to R447) of an arm whose request is gone: the header and as much of
the tensor as fits are written, the arm is over, and its command completes with the bytes written; TRUNCATED is noted where
it did not fit; an arm that has not fired changes nothing. -/
def Obligations.TracesAndDumpsAreWritten : Prop :=
  (∀ (claim : Nat) (s : State), alive s = true → claim < 4 →
    let q := (lampOf s claim).queue
    (q = [] ∨ 4 ≤ q.length → exec (.lampLineTimeout claim) s = .next s)
    ∧ (q ≠ [] → q.length < 4 → exec (.lampLineTimeout claim) s = .next (lampLine (modLamp s claim (fun l => { l with
        queue := l.queue ++ List.replicate (4 - q.length) (List.replicate 32 0) })) claim)))
  ∧ (∀ (claim arm : Nat) (s : State) (a : Arm), (s.watch.arms.filter (fun a => a.claim == claim))[arm]? = some a →
    (a.fired = none → exec (.watchDumpWritten claim arm) s = .next s)
    ∧ (∀ tensor pos, a.fired = some (tensor, pos) → alive s = true → dataUp s claim = true →
      let w := min tensor.length (a.bytes - 64)
      let s1 := putHost s a.addr (dumpHeader a tensor pos w ++ tensor.take w)
      let s2 := { s1 with watch := { s1.watch with
        arms := s1.watch.arms.filter (fun b => b != a)
        dumps := lmod s1.watch.dumps claim (fun d => satAdd 32 d 1)
        wtErr := if w < tensor.length then s1.watch.wtErr ||| 2 else s1.watch.wtErr } }
      let s3 := doneWith s2 a.o (leBytes 4 (64 + w))
      (armOf s a.slot a = true → exec (.watchDumpWritten claim arm) s = .next (goOn s3 a.slot))
      ∧ (armOf s a.slot a = false → exec (.watchDumpWritten claim arm) s = .next s3)))
end

