-- ==== Sys2Proof/Laws/Kept.lean ====
section
/-! SUPPORT. What every operation leaves as it found it: the invariant, the fuses and the queue of commands. `Kept s t` says it
of two states; each operation keeps it, by one lemma `<operation>_kept`. -/

namespace Sys2Proof.Machine

/-- `t` is a state that keeps the invariant and the fuses of `s`, and its queue. -/
def Kept (s t : State) : Prop := t.pending = s.pending ∧ (BlockInv s → BlockInv t ∧ FusesKept s t)

/-- The same, of the parts of `t` it speaks of. -/
def KeptC (s : State) (pending : List Instr) (host : List Host.Cell) (claims : List Claim) (hlSt : Nat) (links : List AditLink)
    (keys : List KeySlot) (log : List (List Byte)) (logCount bootCount attaches : Nat) (retired : List UnitId) : Prop :=
  pending = s.pending ∧ (BlockInv s →
    (hostWf host = true ∧ (claims.length = 4 ∧ ∀ x ∈ claims, x.st ≤ 3) ∧ hlSt ≤ 5 ∧ (links.length = 48 ∧ ∀ x ∈ links, x.st ≤ 6)
      ∧ (keys.length = 8 ∧ ∀ k ∈ keys, k.st ≤ 2) ∧ (log.length ≤ 4096 ∧ log.length ≤ logCount)
      ∧ (bootCount < 2 ^ 64 ∧ attaches < 2 ^ 64))
    ∧ ((∀ (i : Nat) (k : KeySlot), s.sec.keys[i]? = some k → ∃ k' : KeySlot, keys[i]? = some k'
          ∧ (k.st = 1 → k'.key = k.key ∧ (k'.st = 1 ∨ k'.st = 2)) ∧ (k.st = 2 → k' = k))
        ∧ s.sec.bootCount ≤ bootCount ∧ s.sec.attaches ≤ attaches ∧ ∀ u ∈ s.power.retired, u ∈ retired))

@[simp] theorem kept_mk (s : State) (hf : HfState) (boot : BootState) (claims : List Claim) (hl : HlState) (fm : FmState) (slots : AMap Slot)
    (drift : DriftState) (eng : EngineState) (face : FaceState) (store : StoreState) (cage : CageState) (flash : FlashState)
    (haul : HaulState) (banks : List BankState) (adit : AditState) (power : PowerState) (watch : WatchState) (sec : SecState)
    (cmds : List Cmd) (host : List Host.Cell) (out : List OutMsg) (freeCtr : Nat) (pending : List Instr) :
    Kept s ⟨hf, boot, claims, hl, fm, slots, drift, eng, face, store, cage, flash, haul, banks, adit, power, watch, sec, cmds, host
      , out, freeCtr, pending⟩
    ↔ KeptC s pending host claims hl.st adit.links sec.keys sec.log sec.logCount sec.bootCount sec.attaches power.retired :=
  ⟨fun h => h, fun h => h⟩
@[simp] theorem kept_fold (s t : State) :
    KeptC s t.pending t.host t.claims t.hl.st t.adit.links t.sec.keys t.sec.log t.sec.logCount t.sec.bootCount t.sec.attaches
      t.power.retired ↔ Kept s t := ⟨fun h => h, fun h => h⟩

theorem FusesKept.refl (s : State) : FusesKept s s :=
  ⟨fun _ k h => ⟨k, h, fun h1 => ⟨rfl, .inl h1⟩, fun _ => rfl⟩, Nat.le_refl _, Nat.le_refl _, fun _ h => h⟩
theorem FusesKept.trans {s t u : State} (h : FusesKept s t) (g : FusesKept t u) : FusesKept s u := by
  obtain ⟨h1, h2, h3, h4⟩ := h
  obtain ⟨g1, g2, g3, g4⟩ := g
  refine ⟨fun i k hk => ?_, Nat.le_trans h2 g2, Nat.le_trans h3 g3, fun u hu => g4 u (h4 u hu)⟩
  obtain ⟨k1, hk1, ha, hb⟩ := h1 i k hk
  obtain ⟨k2, hk2, hc, hd⟩ := g1 i k1 hk1
  refine ⟨k2, hk2, fun e => ?_, fun e => ?_⟩
  · obtain ⟨e1, e2⟩ := ha e
    rcases e2 with e2 | e2
    · obtain ⟨f1, f2⟩ := hc e2; exact ⟨f1.trans e1, f2⟩
    · have := hd e2; subst this; exact ⟨e1, .inr e2⟩
  · have := hb e; subst this; exact hd e
@[simp] theorem Kept.refl (s : State) : Kept s s := ⟨rfl, fun h => ⟨h, FusesKept.refl s⟩⟩
theorem Kept.trans {s t u : State} (h : Kept s t) (g : Kept t u) : Kept s u :=
  ⟨g.1.trans h.1, fun i => ⟨(g.2 (h.2 i).1).1, (h.2 i).2.trans (g.2 (h.2 i).1).2⟩⟩

/-- A step whose outcome keeps what `s` had. -/
def KeptO (s : State) (o : Host.Outcome State Fault Refusal) : Prop :=
  match o with
  | .next t => Kept s t
  | _ => True
@[simp] theorem keptO_next (s t : State) : KeptO s (.next t) ↔ Kept s t := ⟨fun h => h, fun h => h⟩

@[simp] theorem kept_ite {s0 a b : State} (c : Prop) [Decidable c] :
    Kept s0 (if c then a else b) ↔ (c → Kept s0 a) ∧ (¬ c → Kept s0 b) := by split <;> simp [*]
@[simp] theorem kept_foldl {α : Type} {s0 s : State} (l : List α) (f : State → α → State) (h : Kept s0 s)
    (hf : ∀ t a, Kept s0 t → Kept s0 (f t a)) : Kept s0 (l.foldl f s) := by
  induction l generalizing s with
  | nil => exact h
  | cons a l ih => exact ih (hf s a h)
@[simp] theorem kept_foldl_fst {α β : Type} {s0 : State} {p : State × β} (l : List α) (f : State × β → α → State × β) (h : Kept s0 p.1)
    (hf : ∀ t a, Kept s0 t.1 → Kept s0 (f t a).1) : Kept s0 (l.foldl f p).1 := by
  induction l generalizing p with
  | nil => exact h
  | cons a l ih => exact ih (hf p a h)
@[simp] theorem kept_foldl_snd {α β : Type} {s0 : State} {p : β × State} (l : List α) (f : β × State → α → β × State) (h : Kept s0 p.2)
    (hf : ∀ t a, Kept s0 t.2 → Kept s0 (f t a).2) : Kept s0 (l.foldl f p).2 := by
  induction l generalizing p with
  | nil => exact h
  | cons a l ih => exact ih (hf p a h)

/-! ### Ops.lean -/

theorem mem_lmod {α : Type} {l : List α} {i : Nat} {f : α → α} {x : α} (h : x ∈ lmod l i f) : x ∈ l ∨ ∃ y ∈ l, x = f y := by
  induction l generalizing i with
  | nil => simp [lmod] at h
  | cons a r ih =>
    cases i with
    | zero =>
      simp only [lmod, List.mem_cons] at h
      rcases h with h | h
      · exact .inr ⟨a, List.mem_cons_self, h⟩
      · exact .inl (List.mem_cons_of_mem _ h)
    | succ i =>
      simp only [lmod, List.mem_cons] at h
      rcases h with h | h
      · exact .inl (h ▸ List.mem_cons_self)
      · rcases ih h with h | ⟨y, hy, e⟩
        · exact .inl (List.mem_cons_of_mem _ h)
        · exact .inr ⟨y, List.mem_cons_of_mem _ hy, e⟩
@[simp] theorem takeFree_kept {s0 s : State} (h : Kept s0 s) : Kept s0 (takeFree s).2 := by simp [takeFree, h]
@[simp] theorem freeBytes_kept {s0 s : State} (h : Kept s0 s) (k : Nat) : Kept s0 (freeBytes s k).2 := by simp [freeBytes, h]
@[simp] theorem emit_kept {s0 s : State} (h : Kept s0 s) (m : OutMsg) : Kept s0 (emit s m) := by simp [emit, h]
@[simp] theorem putHost_kept {s0 s : State} (h : Kept s0 s) (a : Nat) (bs : List Byte) : Kept s0 (putHost s a bs) := by
  refine ⟨h.1, fun i => ?_⟩
  obtain ⟨⟨i1, i2⟩, f⟩ := h.2 i
  exact ⟨⟨hostWf_hostWriteBytes i1, i2⟩, f⟩
@[simp] theorem modClaim_kept {s0 s : State} (h : Kept s0 s) (c : Nat) (f : Claim → Claim) (hf : ∀ x : Claim, x.st ≤ 3 → (f x).st ≤ 3) :
    Kept s0 (modClaim s c f) := by
  refine ⟨h.1, fun i => ?_⟩
  obtain ⟨⟨i1, ⟨i2, i3⟩, i4⟩, g⟩ := h.2 i
  refine ⟨⟨i1, ⟨by simp [modClaim, i2], fun x hx => ?_⟩, i4⟩, g⟩
  rcases mem_lmod hx with hx | ⟨y, hy, e⟩
  · exact i3 x hx
  · exact e ▸ hf y (i3 y hy)
@[simp] theorem setSlot_kept {s0 s : State} (h : Kept s0 s) (n : Nat) (v : Slot) : Kept s0 (setSlot s n v) := by simp [setSlot, h]
@[simp] theorem modReq_kept {s0 s : State} (h : Kept s0 s) (n : Nat) (f : Req → Req) : Kept s0 (modReq s n f) := by
  unfold modReq; split <;> simp [h]
@[simp] theorem modRing_kept {s0 s : State} (h : Kept s0 s) (r : RingId) (f : Ring → Ring) : Kept s0 (modRing s r f) := by simp [modRing, h]
@[simp] theorem modVc_kept {s0 s : State} (h : Kept s0 s) (vc : Nat) (f : Credits → Credits) : Kept s0 (modVc s vc f) := by simp [modVc, h]
@[simp] theorem hlUse_kept {s0 s : State} (h : Kept s0 s) (vc c : Nat) : Kept s0 (hlUse s vc c) := by simp [hlUse, h]
@[simp] theorem hlGot_kept {s0 s : State} (h : Kept s0 s) (vc n : Nat) : Kept s0 (hlGot s vc n) := by simp [hlGot, h]
@[simp] theorem countRefusal_kept {s0 s : State} (h : Kept s0 s) (st : Nat) : Kept s0 (countRefusal s st) := by simp [countRefusal, h]
@[simp] theorem tallyRecord_kept {s0 s : State} (h : Kept s0 s) (r : CplRec) : Kept s0 (tallyRecord s r) := by simp [tallyRecord, h]
@[simp] theorem putRecord_kept {s0 s : State} (h : Kept s0 s) (r : CplRec) : Kept s0 (putRecord s r) := by
  unfold putRecord; split
  · exact h
  · simp (maxDischargeDepth := 19) +contextual [h]
@[simp] theorem flushRecords_kept {s0 s : State} (h : Kept s0 s) : Kept s0 (flushRecords s) := by
  unfold flushRecords
  exact kept_foldl _ _ (by simp [h]) (fun t r ht => putRecord_kept ht r)
@[simp] theorem answerMgmt_kept {s0 s : State} (h : Kept s0 s) (off code : Nat) (data : W64) : Kept s0 (answerMgmt s off code data) := by
  simp (maxDischargeDepth := 9) [answerMgmt, h]
@[simp] theorem flushAnswers_kept {s0 s : State} (h : Kept s0 s) : Kept s0 (flushAnswers s) := by
  unfold flushAnswers
  exact kept_foldl _ _ (by simp [h]) (fun t a ht => answerMgmt_kept ht _ _ _)
@[simp] theorem done_kept {s0 s : State} (h : Kept s0 s) (o : Origin) (st d : Nat) : Kept s0 (done s o st d) := by simp [done, h]
@[simp] theorem doneWith_kept {s0 s : State} (h : Kept s0 s) (o : Origin) (r : List Byte) : Kept s0 (doneWith s o r) := by simp [doneWith, h]
@[simp] theorem bad_kept {s0 s : State} (h : Kept s0 s) (o : Origin) (r : Nat) : Kept s0 (bad s o r) := by simp [bad, h]
theorem takeLine_kept {s0 s t : State} {o : Origin} {id : RingId} {p : Bool} {l : List Byte} (h : Kept s0 s)
    (e : takeLine s id p l = some (o, t)) : Kept s0 t := by
  unfold takeLine at e
  split at e
  · cases e
  · simp only at e
    split at e
    · cases e
    · split at e
      · split at e
        · simp only [Option.some.injEq, Prod.mk.injEq] at e; rw [← e.2]; simp (maxDischargeDepth := 9) [h]
        · cases e
      · split at e
        · simp only [Option.some.injEq, Prod.mk.injEq] at e; rw [← e.2]; simp (maxDischargeDepth := 9) [h]
        · cases e
@[simp] theorem poisonOrigin_kept {s0 s : State} (h : Kept s0 s) (o : Origin) : Kept s0 (poisonOrigin s o).2 := by simp [poisonOrigin, takeFree, h]
@[simp] theorem takeTurn_kept {s0 s : State} (h : Kept s0 s) (c r : Nat) : Kept s0 (takeTurn s c r) := by simp [takeTurn, h]
@[simp] theorem claimHead_kept {s0 s : State} (h : Kept s0 s) (d : Desc) (codes : Nat → Bool) (ends : Bool)
    (body : State → Origin → List Byte → State) (hb : ∀ t o l, Kept s0 t → Kept s0 (body t o l)) :
    Kept s0 (claimHead s d codes ends body) := by
  unfold claimHead
  split
  · exact h
  · split
    · exact h
    · rename_i o s1 e
      have h1 := takeLine_kept (takeTurn_kept h _ _) e
      simp (maxDischargeDepth := 9) +contextual [h1, hb]
@[simp] theorem claimDesc_kept {s0 s : State} (h : Kept s0 s) (d : Desc) (codes : Nat → Bool) (res : List Byte → Bool) (ends : Bool)
    (body : State → Origin → List Byte → State) (hb : ∀ t o l, Kept s0 t → Kept s0 (body t o l)) :
    Kept s0 (claimDesc s d codes res ends body) := by
  unfold claimDesc
  apply claimHead_kept h
  intro t o l ht
  repeat' split
  all_goals simp [ht, hb]
@[simp] theorem plainCommand_kept {s0 s : State} (h : Kept s0 s) (d : Desc) (code : Nat) (res : List Byte → Bool)
    (body : State → Origin → List Byte → State) (hb : ∀ t o l, Kept s0 t → Kept s0 (body t o l)) :
    Kept s0 (plainCommand s d code res body) := by
  unfold plainCommand
  apply claimDesc_kept h
  intro t o l ht
  split <;> simp [ht, hb]
@[simp] theorem mgmtDesc_kept {s0 s : State} (h : Kept s0 s) (m : MDesc) (codes : Nat → Bool) (res : List Byte → Bool)
    (body : State → Origin → List Byte → State) (hb : ∀ t o l, Kept s0 t → Kept s0 (body t o l)) :
    Kept s0 (mgmtDesc s m codes res body) := by
  unfold mgmtDesc
  split
  · exact h
  · split
    · exact h
    · rename_i o s1 e
      have h1 := takeLine_kept h e
      simp (maxDischargeDepth := 9) +contextual [h1, hb]

end Sys2Proof.Machine
end

