-- ==== Sys2Proof/Laws/KeptRings.lean ====
section
/-! SUPPORT. What the operations of Rings.lean keep. -/

namespace Sys2Proof.Machine

@[simp] theorem watchTakes_kept {s0 s : State} (h : Kept s0 s) (id : RingId) (g : Ring) (l : Bool × List Byte) :
    Kept s0 (watchTakes s id g l) := by
  unfold watchTakes
  try simp only []
  repeat' split
  all_goals simp (maxDischargeDepth := 30) +contextual [h]
@[simp] theorem opWatchLineInvalidate_kept {s0 s : State} (h : Kept s0 s) (ring : RingSel) (after : Bool) (poison : Bool) (line : List Byte) :
    Kept s0 (opWatchLineInvalidate ring after poison line s) := by
  unfold opWatchLineInvalidate
  try simp only []
  repeat' first
    | assumption
    | (intro _)
    | (simp only [])
    | (simp (maxDischargeDepth := 30) +contextual [*]; done)
    | split
    | apply kept_foldl
    | apply kept_foldl_fst
    | apply kept_foldl_snd
    | apply emit_kept
    | apply hlGot_kept
    | apply modRing_kept
    | apply watchTakes_kept
    | (simp only [kept_mk, kept_fold])
@[simp] theorem execWatchLineInvalidate_kept {s0 s : State} (h : Kept s0 s) (w : WatchedLine) (poison : Bool) (line : List Byte) :
    KeptO s0 (execWatchLineInvalidate w poison line s) := by
  simp (maxDischargeDepth := 30) +contextual [execWatchLineInvalidate, h]
@[simp] theorem opSnoopResponse_kept {s0 s : State} (h : Kept s0 s) (addr : W64) :
    Kept s0 (opSnoopResponse addr s) := by
  simp (maxDischargeDepth := 30) +contextual [opSnoopResponse, h]
@[simp] theorem execSnoopResponse_kept {s0 s : State} (h : Kept s0 s) (addr : W64) :
    KeptO s0 (execSnoopResponse addr s) := by
  simp (maxDischargeDepth := 30) +contextual [execSnoopResponse, h]
@[simp] theorem opCplHeadAdvance_kept {s0 s : State} (h : Kept s0 s) (ring : RingSel) (head : W32) :
    Kept s0 (opCplHeadAdvance ring head s) := by
  simp (maxDischargeDepth := 30) +contextual [opCplHeadAdvance, h]
@[simp] theorem execCplHeadAdvance_kept {s0 s : State} (h : Kept s0 s) (ring : RingSel) (head : W32) :
    KeptO s0 (execCplHeadAdvance ring head s) := by
  simp (maxDischargeDepth := 30) +contextual [execCplHeadAdvance, h]
@[simp] theorem setRingCode_kept {s0 s : State} (h : Kept s0 s) (c : Nat) :
    Kept s0 (setRingCode s c) := by
  simp (maxDischargeDepth := 30) +contextual [setRingCode, h]
@[simp] theorem enableRing_kept {s0 s : State} (h : Kept s0 s) (value : W64) (rcb : List Byte) :
    Kept s0 (enableRing value rcb s) := by
  unfold enableRing
  try simp only []
  repeat' first
    | assumption
    | (intro _)
    | (simp only [])
    | (simp (maxDischargeDepth := 30) +contextual [*]; done)
    | split
    | apply kept_foldl
    | apply kept_foldl_fst
    | apply kept_foldl_snd
    | apply setRingCode_kept
    | apply hlGot_kept
    | (simp only [kept_mk, kept_fold])
@[simp] theorem ringCmd_kept {s0 s : State} (h : Kept s0 s) (act : State → State) (ha : ∀ t, Kept s0 t → Kept s0 (act t)) :
    Kept s0 (ringCmd s act) := answerMgmt_kept (ha _ (hlGot_kept h 2 1)) _ _ _
@[simp] theorem opRingEnable_kept {s0 s : State} (h : Kept s0 s) (value : W64) (rcb : List Byte) :
    Kept s0 (opRingEnable value rcb s) := by
  simp (maxDischargeDepth := 30) +contextual [opRingEnable, h]
@[simp] theorem execRingEnable_kept {s0 s : State} (h : Kept s0 s) (value : W64) (rcb : List Byte) :
    KeptO s0 (execRingEnable value rcb s) := by
  simp (maxDischargeDepth := 30) +contextual [execRingEnable, h]
@[simp] theorem disableRing_kept {s0 s : State} (h : Kept s0 s) (value : W64) :
    Kept s0 (disableRing value s) := by
  unfold disableRing
  try simp only []
  repeat' split
  all_goals simp (maxDischargeDepth := 30) +contextual [h]
@[simp] theorem opRingDisable_kept {s0 s : State} (h : Kept s0 s) (value : W64) :
    Kept s0 (opRingDisable value s) := by
  simp (maxDischargeDepth := 30) +contextual [opRingDisable, h]
@[simp] theorem execRingDisable_kept {s0 s : State} (h : Kept s0 s) (value : W64) :
    KeptO s0 (execRingDisable value s) := by
  simp (maxDischargeDepth := 30) +contextual [execRingDisable, h]
@[simp] theorem opRingDrainComplete_kept {s0 s : State} (h : Kept s0 s) (ring : RingSel) (completion : Bool) :
    Kept s0 (opRingDrainComplete ring completion s) := by
  unfold opRingDrainComplete
  try simp only []
  repeat' split
  all_goals simp (maxDischargeDepth := 30) +contextual [h]
@[simp] theorem execRingDrainComplete_kept {s0 s : State} (h : Kept s0 s) (ring : RingSel) (completion : Bool) :
    KeptO s0 (execRingDrainComplete ring completion s) := by
  simp (maxDischargeDepth := 30) +contextual [execRingDrainComplete, h]

end Sys2Proof.Machine
end

