-- ==== Sys2Proof/Laws/KeptSend.lean ====
section
/-! SUPPORT. What the operations of Send.lean keep. -/

namespace Sys2Proof.Machine

@[simp] theorem modGang_kept {s0 s : State} (h : Kept s0 s) (c : Nat) (f : GangState → GangState) :
    Kept s0 (modGang s c f) := by
  simp (maxDischargeDepth := 30) +contextual [modGang, h]
@[simp] theorem modLink_kept {s0 s : State} (h : Kept s0 s) (l : Nat) (f : AditLink → AditLink)
    (hf : ∀ x : AditLink, x.st ≤ 6 → (f x).st ≤ 6) : Kept s0 (modLink s l f) := by
  refine ⟨h.1, fun i => ?_⟩
  obtain ⟨⟨i1, i2, i3, ⟨i4, i5⟩, i6⟩, g⟩ := h.2 i
  refine ⟨⟨i1, i2, i3, ⟨by simp [modLink, i4], fun x hx => ?_⟩, i6⟩, g⟩
  rcases mem_lmod hx with hx | ⟨y, hy, e⟩
  · exact i5 x hx
  · exact e ▸ hf y (i5 y hy)
@[simp] theorem queueFrames_kept {s0 s : State} (h : Kept s0 s) (l : Nat) (cls : Nat) (fs : List Frame) :
    Kept s0 (queueFrames s l cls fs) := by
  simp (maxDischargeDepth := 30) +contextual [queueFrames, h]
@[simp] theorem sendMsg_kept {s0 s : State} (h : Kept s0 s) (c : Nat) (peer : Nat) (cls : Nat) (handle : Nat) (home : Nat) (step : Nat) (tenant : Nat) (object : Nat) (payload : List Byte) :
    Kept s0 (sendMsg s c peer cls handle home step tenant object payload) := by
  unfold sendMsg
  try simp only []
  repeat' split
  all_goals simp (maxDischargeDepth := 30) +contextual [h]
@[simp] theorem cancelPeers_kept {s0 s : State} (h : Kept s0 s) (slot : Nat) (r : Req) :
    Kept s0 (cancelPeers s slot r) := by
  simp (maxDischargeDepth := 30) +contextual [cancelPeers, h]

end Sys2Proof.Machine
end

