-- ==== Sys2Proof/Laws/KeptEnding.lean ====
section
/-! SUPPORT. What the operations of Ending.lean keep. -/

namespace Sys2Proof.Machine

@[simp] theorem writeStream_kept {s0 s : State} (h : Kept s0 s) (n : Nat) (r : Req) (kind : Nat) (tokens : Nat) (first : Nat) (text : List Byte) :
    Kept s0 (writeStream s n r kind tokens first text) := by
  simp (maxDischargeDepth := 30) +contextual [writeStream, h]
@[simp] theorem passRecords_kept {s0 s : State} (h : Kept s0 s) (fuel : Nat) (n : Nat) :
    Kept s0 (passRecords fuel s n) := by
  induction fuel generalizing s with
  | zero => simp [passRecords, h]
  | succ fuel ih =>
    unfold passRecords
    try simp only []
    repeat' split
    all_goals simp (maxDischargeDepth := 30) +contextual [h, ih]
@[simp] theorem pumpStream_kept {s0 s : State} (h : Kept s0 s) (n : Nat) :
    Kept s0 (pumpStream s n) := by
  unfold pumpStream
  try simp only []
  repeat' split
  all_goals simp (maxDischargeDepth := 30) +contextual [h]
@[simp] theorem dropWaits_kept {s0 s : State} (h : Kept s0 s) (n : Nat) :
    Kept s0 (dropWaits s n) := by
  simp (maxDischargeDepth := 30) +contextual [dropWaits, h]
@[simp] theorem dropBatches_kept {s0 s : State} (h : Kept s0 s) (n : Nat) :
    Kept s0 (dropBatches s n) := by
  simp (maxDischargeDepth := 30) +contextual [dropBatches, h]
@[simp] theorem gateReturn_kept {s0 s : State} (h : Kept s0 s) (u : UnitId) (k : Nat) :
    Kept s0 (gateReturn s u k) := by
  simp (maxDischargeDepth := 30) +contextual [gateReturn, h]
@[simp] theorem dropCmds_kept {s0 s : State} (h : Kept s0 s) (left : RUnit → List RCmd → List RCmd) :
    Kept s0 (dropCmds s left) := by
  simp (maxDischargeDepth := 30) +contextual [dropCmds, h]
@[simp] theorem dropQueued_kept {s0 s : State} (h : Kept s0 s) (n : Nat) :
    Kept s0 (dropQueued s n) := by
  simp (maxDischargeDepth := 30) +contextual [dropQueued, h]
@[simp] theorem modSearch_kept {s0 s : State} (h : Kept s0 s) (x : Nat) (f : Search → Search) :
    Kept s0 (modSearch s x f) := by
  simp (maxDischargeDepth := 30) +contextual [modSearch, h]
@[simp] theorem admitStrand_kept {s0 s : State} (h : Kept s0 s) (e : Nat) :
    Kept s0 (admitStrand s e) := by
  unfold admitStrand
  try simp only []
  repeat' split
  all_goals simp (maxDischargeDepth := 30) +contextual [h]
@[simp] theorem admitStrands_kept {s0 s : State} (h : Kept s0 s) :
    Kept s0 (admitStrands s) := by
  simp (maxDischargeDepth := 30) +contextual [admitStrands, h]
@[simp] theorem dropSearches_kept {s0 s : State} (h : Kept s0 s) (n : Nat) :
    Kept s0 (dropSearches s n) := by
  simp (maxDischargeDepth := 30) +contextual [dropSearches, h]
@[simp] theorem commitReq_kept {s0 s : State} (h : Kept s0 s) (n : Nat) (status : Nat) (detail : Nat) :
    Kept s0 (commitReq s n status detail) := by
  unfold commitReq
  try simp only []
  repeat' split
  all_goals simp (maxDischargeDepth := 30) +contextual [h]
@[simp] theorem endPeer_kept {s0 s : State} (h : Kept s0 s) (n : Nat) (peer : Nat) :
    Kept s0 (endPeer s n peer) := by
  simp (maxDischargeDepth := 30) +contextual [endPeer, h]
@[simp] theorem dropPages_kept {s0 s : State} (h : Kept s0 s) (p : PageKey → Bool) :
    Kept s0 (dropPages s p) := by
  simp (maxDischargeDepth := 30) +contextual [dropPages, h]
@[simp] theorem modPages_kept {s0 s : State} (h : Kept s0 s) (p : PageKey → Bool) (f : Page → Page) :
    Kept s0 (modPages s p f) := by
  simp (maxDischargeDepth := 30) +contextual [modPages, h]
@[simp] theorem unrefPrefix_kept {s0 s : State} (h : Kept s0 s) (h : Nat) :
    Kept s0 (unrefPrefix s h) := by
  unfold unrefPrefix
  try simp only []
  repeat' split
  all_goals first | (simp (maxDischargeDepth := 30) +contextual [h]; done) | (simp_all (maxDischargeDepth := 30); done)
@[simp] theorem modAdapter_kept {s0 s : State} (h : Kept s0 s) (h : Nat) (f : AdapterVer → AdapterVer) :
    Kept s0 (modAdapter s h f) := by
  unfold modAdapter
  try simp only []
  repeat' split
  all_goals first | (simp (maxDischargeDepth := 30) +contextual [h]; done) | (simp_all (maxDischargeDepth := 30); done)
@[simp] theorem retireAdapter_kept {s0 s : State} (h : Kept s0 s) (c : Nat) (h : Nat) :
    Kept s0 (retireAdapter s c h) := by
  unfold retireAdapter
  try simp only []
  repeat' split
  all_goals first | (simp (maxDischargeDepth := 30) +contextual [h]; done) | (simp_all (maxDischargeDepth := 30); done)
@[simp] theorem unrefAdapter_kept {s0 s : State} (h : Kept s0 s) (h : Nat) :
    Kept s0 (unrefAdapter s h) := by
  unfold unrefAdapter
  try simp only []
  repeat' split
  all_goals first | (simp (maxDischargeDepth := 30) +contextual [h]; done) | (simp_all (maxDischargeDepth := 30); done)
@[simp] theorem releaseReq_kept {s0 s : State} (h : Kept s0 s) (n : Nat) (r : Req) :
    Kept s0 (releaseReq s n r) := by
  unfold releaseReq
  try simp only []
  repeat' split
  all_goals simp (maxDischargeDepth := 30) +contextual [h]
@[simp] theorem opStreamHeadAdvance_kept {s0 s : State} (h : Kept s0 s) (slot : BitVec 16) (head : W32) :
    Kept s0 (opStreamHeadAdvance slot head s) := by
  simp (maxDischargeDepth := 30) +contextual [opStreamHeadAdvance, h]
@[simp] theorem execStreamHeadAdvance_kept {s0 s : State} (h : Kept s0 s) (slot : BitVec 16) (head : W32) :
    KeptO s0 (execStreamHeadAdvance slot head s) := by
  simp (maxDischargeDepth := 30) +contextual [execStreamHeadAdvance, h]
@[simp] theorem opCompletionRecordWrite_kept {s0 s : State} (h : Kept s0 s) (slot : BitVec 16) :
    Kept s0 (opCompletionRecordWrite slot s) := by
  unfold opCompletionRecordWrite
  try simp only []
  repeat' split
  all_goals simp (maxDischargeDepth := 30) +contextual [h]
@[simp] theorem execCompletionRecordWrite_kept {s0 s : State} (h : Kept s0 s) (slot : BitVec 16) :
    KeptO s0 (execCompletionRecordWrite slot s) := by
  simp (maxDischargeDepth := 30) +contextual [execCompletionRecordWrite, h]

end Sys2Proof.Machine
end

