-- ==== Sys2Proof/Laws/KeptCage.lean ====
section
/-! SUPPORT. What the operations of Cage.lean keep. -/

namespace Sys2Proof.Machine

@[simp] theorem faultEvent_kept {s0 s : State} (h : Kept s0 s) (cls : Nat) (unit : Nat) :
    Kept s0 (faultEvent s cls unit) := by
  simp (maxDischargeDepth := 30) +contextual [faultEvent, h]
@[simp] theorem setPage_kept {s0 s : State} (h : Kept s0 s) (k : PageKey) (p : Page) :
    Kept s0 (setPage s k p) := by
  simp (maxDischargeDepth := 30) +contextual [setPage, h]
@[simp] theorem delPage_kept {s0 s : State} (h : Kept s0 s) (k : PageKey) :
    Kept s0 (delPage s k) := by
  simp (maxDischargeDepth := 30) +contextual [delPage, h]
@[simp] theorem modPage_kept {s0 s : State} (h : Kept s0 s) (k : PageKey) (f : Page → Page) :
    Kept s0 (modPage s k f) := by
  unfold modPage
  try simp only []
  repeat' split
  all_goals simp (maxDischargeDepth := 30) +contextual [h]
@[simp] theorem touch_kept {s0 s : State} (h : Kept s0 s) (k : PageKey) :
    Kept s0 (touch s k) := by
  simp (maxDischargeDepth := 30) +contextual [touch, h]
@[simp] theorem demote_kept {s0 s : State} (h : Kept s0 s) (q : PageKey × Page) :
    Kept s0 (demote s q) := by
  simp (maxDischargeDepth := 30) +contextual [demote, h]
@[simp] theorem settleCage_kept {s0 s : State} (h : Kept s0 s) :
    Kept s0 (settleCage s) := by
  unfold settleCage
  try simp only []
  repeat' first
    | assumption
    | (intro _)
    | (simp only [])
    | (simp (maxDischargeDepth := 30) +contextual [*]; done)
    | split
    | apply kept_foldl
    | apply kept_foldl_fst
    | apply kept_foldl_snd
    | apply doneWith_kept
    | (simp only [kept_mk, kept_fold])
@[simp] theorem imageDone_kept {s0 s : State} (h : Kept s0 s) (j : LoadJob) :
    Kept s0 (imageDone s j) := by
  simp (maxDischargeDepth := 30) +contextual [imageDone, h]
@[simp] theorem endEffect_kept {s0 s : State} (h : Kept s0 s) (e : Effect) :
    Kept s0 (endEffect s e) := by
  unfold endEffect
  try simp only []
  repeat' first
    | assumption
    | (intro _)
    | (simp only [])
    | (simp (maxDischargeDepth := 30) +contextual [*]; done)
    | split
    | apply kept_foldl
    | apply kept_foldl_fst
    | apply kept_foldl_snd
    | apply imageDone_kept
    | apply modClaim_kept
    | (simp only [kept_mk, kept_fold])
@[simp] theorem settlePools_kept {s0 s : State} (h : Kept s0 s) : Kept s0 (settlePools s) := by
  unfold settlePools
  refine kept_foldl _ _ h (fun t c ht => kept_foldl _ _ ht (fun u k hu => ?_))
  split
  · exact endEffect_kept hu _
  · exact hu
@[simp] theorem settlePages_kept {s0 s : State} (h : Kept s0 s) :
    Kept s0 (settlePages s) := by
  simp (maxDischargeDepth := 30) +contextual [settlePages, h]
@[simp] theorem queueAlloc_kept {s0 s : State} (h : Kept s0 s) (k : PageKey) :
    Kept s0 (queueAlloc s k) := by
  simp (maxDischargeDepth := 30) +contextual [queueAlloc, h]
@[simp] theorem wantPage_kept {s0 s : State} (h : Kept s0 s) (k : PageKey) :
    Kept s0 (wantPage s k) := by
  unfold wantPage
  try simp only []
  repeat' split
  all_goals simp (maxDischargeDepth := 30) +contextual [h]
@[simp] theorem needPage_kept {s0 s : State} (h : Kept s0 s) (k : PageKey) (w : Waiter) :
    Kept s0 (needPage s k w) := by
  unfold needPage
  try simp only []
  repeat' split
  all_goals simp (maxDischargeDepth := 30) +contextual [h]
@[simp] theorem needFor_kept {s0 s : State} (h : Kept s0 s) (n : Nat) (k : PageKey) :
    Kept s0 (needFor s n k) := by
  simp (maxDischargeDepth := 30) +contextual [needFor, h]
@[simp] theorem grantFrame_kept {s0 s : State} (h : Kept s0 s) (k : PageKey) (lode : Nat) :
    Kept s0 (grantFrame s k lode) := by
  unfold grantFrame
  try simp only []
  repeat' split
  all_goals simp (maxDischargeDepth := 30) +contextual [h]
@[simp] theorem createPage_kept {s0 s : State} (h : Kept s0 s) (k : PageKey) (w : Waiter) (addr : Nat := 0) :
    Kept s0 (createPage s k w addr) := by
  unfold createPage
  try simp only []
  repeat' split
  all_goals simp (maxDischargeDepth := 30) +contextual [h]
@[simp] theorem opFrameAllocate_kept {s0 s : State} (h : Kept s0 s) (claim : Nat) (kind : Nat) :
    Kept s0 (opFrameAllocate claim kind s) := by
  unfold opFrameAllocate
  try simp only []
  repeat' split
  all_goals simp (maxDischargeDepth := 30) +contextual [h]
@[simp] theorem execFrameAllocate_kept {s0 s : State} (h : Kept s0 s) (claim : Nat) (kind : Nat) :
    KeptO s0 (execFrameAllocate claim kind s) := by
  simp (maxDischargeDepth := 30) +contextual [execFrameAllocate, h]
@[simp] theorem opWritebackGranuleAck_kept {s0 s : State} (h : Kept s0 s) (page : PageKey) (granule : Nat) :
    Kept s0 (opWritebackGranuleAck page granule s) := by
  unfold opWritebackGranuleAck
  try simp only []
  repeat' split
  all_goals simp (maxDischargeDepth := 30) +contextual [h]
@[simp] theorem execWritebackGranuleAck_kept {s0 s : State} (h : Kept s0 s) (page : PageKey) (granule : Nat) :
    KeptO s0 (execWritebackGranuleAck page granule s) := by
  simp (maxDischargeDepth := 30) +contextual [execWritebackGranuleAck, h]
@[simp] theorem checkModel_kept {s0 s : State} (h : Kept s0 s) (c : Nat) (m : Nat) :
    Kept s0 (checkModel s c m) := by
  unfold checkModel
  try simp only []
  repeat' split
  all_goals simp (maxDischargeDepth := 30) +contextual [h]
@[simp] theorem opPageLoadDone_kept {s0 s : State} (h : Kept s0 s) (page : PageKey) (data : List Byte) :
    Kept s0 (opPageLoadDone page data s) := by
  unfold opPageLoadDone
  split
  · exact h
  · rename_i p _
    have hw : ∀ t, Kept s0 t → Kept s0 (p.waiters.foldl (fun s w => match w with
        | .request n _ => modReq s n (fun r => r.flag flAlt)
        | .command _ => s) t) := fun t ht => kept_foldl _ _ ht (fun u w hu => by split <;> simp [hu])
    have h0 : Kept s0 (if page.kind = 5 then s else hlGot s 1 (granules 65536)) := by split <;> simp [h]
    split
    · exact h
    · split
      · simp [h]
      · split
        · apply settlePages_kept
          rcases Bool.eq_false_or_eq_true (p.src == .alternate) with ha | ha
          · simp only [ha, if_true]
            split
            · apply checkModel_kept; simp only [kept_mk, kept_fold]; exact hw _ (by split <;> first | exact touch_kept (setPage_kept h0 _ _) _ | exact setPage_kept h0 _ _)
            · simp only [kept_mk, kept_fold]; exact hw _ (by split <;> first | exact touch_kept (setPage_kept h0 _ _) _ | exact setPage_kept h0 _ _)
          · simp only [ha, Bool.false_eq_true, if_false]
            split
            · apply checkModel_kept; split <;> first | exact touch_kept (setPage_kept h0 _ _) _ | exact setPage_kept h0 _ _
            · split <;> first | exact touch_kept (setPage_kept h0 _ _) _ | exact setPage_kept h0 _ _
        · exact h
@[simp] theorem execPageLoadDone_kept {s0 s : State} (h : Kept s0 s) (load : LoadedPage) :
    KeptO s0 (execPageLoadDone load s) := by
  simp (maxDischargeDepth := 30) +contextual [execPageLoadDone, h]
@[simp] theorem quarantine_kept {s0 s : State} (h : Kept s0 s) (k : PageKey) :
    Kept s0 (quarantine s k) := by
  simp (maxDischargeDepth := 30) +contextual [quarantine, h]
@[simp] theorem endWaiters_kept {s0 s : State} (h : Kept s0 s) (ws : List Waiter) (status : Nat) :
    Kept s0 (endWaiters s ws status) := by
  unfold endWaiters
  try simp only []
  repeat' first
    | assumption
    | (intro _)
    | (simp only [])
    | (simp (maxDischargeDepth := 30) +contextual [*]; done)
    | split
    | apply kept_foldl
    | apply kept_foldl_fst
    | apply kept_foldl_snd
    | apply commitReq_kept
    | apply putRecord_kept
    | apply done_kept
    | apply unrefPrefix_kept
    | apply unrefAdapter_kept
    | apply dropPages_kept
    | (simp only [kept_mk, kept_fold])
@[simp] theorem opPageLoadUe_kept {s0 s : State} (h : Kept s0 s) (page : PageKey) :
    Kept s0 (opPageLoadUe page s) := by
  unfold opPageLoadUe
  try simp only []
  repeat' split
  all_goals simp (maxDischargeDepth := 30) +contextual [h]
@[simp] theorem execPageLoadUe_kept {s0 s : State} (h : Kept s0 s) (page : PageKey) :
    KeptO s0 (execPageLoadUe page s) := by
  simp (maxDischargeDepth := 30) +contextual [execPageLoadUe, h]
@[simp] theorem opLoadDeadlineExpire_kept {s0 s : State} (h : Kept s0 s) (slot : BitVec 16) (page : PageKey) :
    Kept s0 (opLoadDeadlineExpire slot page s) := by
  unfold opLoadDeadlineExpire
  try simp only []
  repeat' split
  all_goals simp (maxDischargeDepth := 30) +contextual [h]
@[simp] theorem execLoadDeadlineExpire_kept {s0 s : State} (h : Kept s0 s) (slot : BitVec 16) (page : PageKey) :
    KeptO s0 (execLoadDeadlineExpire slot page s) := by
  simp (maxDischargeDepth := 30) +contextual [execLoadDeadlineExpire, h]
@[simp] theorem countLodeUe_kept {s0 s : State} (h : Kept s0 s) (l : Nat) :
    Kept s0 (countLodeUe s l) := by
  simp (maxDischargeDepth := 30) +contextual [countLodeUe, h]
@[simp] theorem reloadPage_kept {s0 s : State} (h : Kept s0 s) (k : PageKey) (p : Page) :
    Kept s0 (reloadPage s k p) := by
  simp (maxDischargeDepth := 30) +contextual [reloadPage, h]
@[simp] theorem loadAgain_kept {s0 s : State} (h : Kept s0 s) (k : PageKey) :
    Kept s0 (loadAgain s k) := by
  unfold loadAgain
  split <;> simp [h]
@[simp] theorem losePage_kept {s0 s : State} (h : Kept s0 s) (k : PageKey) :
    Kept s0 (losePage s k) := by
  simp [losePage, h]
@[simp] theorem opLodeDramUe_kept {s0 s : State} (h : Kept s0 s) (page : PageKey) :
    Kept s0 (opLodeDramUe page s) := by
  unfold opLodeDramUe
  try simp only []
  repeat' split
  all_goals simp (maxDischargeDepth := 30) +contextual [h]
@[simp] theorem execLodeDramUe_kept {s0 s : State} (h : Kept s0 s) (page : PageKey) :
    KeptO s0 (execLodeDramUe page s) := by
  simp (maxDischargeDepth := 30) +contextual [execLodeDramUe, h]
@[simp] theorem freeBuffers_kept {s0 s : State} (h : Kept s0 s) (n : Nat) (lode : Nat) :
    Kept s0 (freeBuffers s n lode) := by
  simp (maxDischargeDepth := 30) +contextual [freeBuffers, h]
@[simp] theorem opPageBufferGrant_kept {s0 s : State} (h : Kept s0 s) (lode : Nat) :
    Kept s0 (opPageBufferGrant lode s) := by
  unfold opPageBufferGrant
  try simp only []
  repeat' split
  all_goals simp (maxDischargeDepth := 30) +contextual [h]
@[simp] theorem execPageBufferGrant_kept {s0 s : State} (h : Kept s0 s) (lode : Nat) :
    KeptO s0 (execPageBufferGrant lode s) := by
  simp (maxDischargeDepth := 30) +contextual [execPageBufferGrant, h]
@[simp] theorem waitBuffer_kept {s0 s : State} (h : Kept s0 s) (n : Nat) (k : PageKey) :
    Kept s0 (waitBuffer s n k) := by
  simp (maxDischargeDepth := 30) +contextual [waitBuffer, h]
@[simp] theorem gatherPages_kept {s0 s : State} (h : Kept s0 s) (n : Nat) (ks : List PageKey) :
    Kept s0 (gatherPages s n ks).1 := by
  unfold gatherPages
  try simp only []
  repeat' first
    | assumption
    | (intro _)
    | (simp only [])
    | (simp (maxDischargeDepth := 30) +contextual [*]; done)
    | split
    | apply kept_foldl
    | apply kept_foldl_fst
    | apply kept_foldl_snd
    | apply commitReq_kept
    | apply setPage_kept
    | apply waitBuffer_kept
    | apply needFor_kept
    | (simp only [kept_mk, kept_fold])
@[simp] theorem unpinPages_kept {s0 s : State} (h : Kept s0 s) (n : Nat) (ks : List PageKey) :
    Kept s0 (unpinPages s n ks) := by
  simp (maxDischargeDepth := 30) +contextual [unpinPages, h]
@[simp] theorem usePages_kept {s0 s : State} (h : Kept s0 s) (n : Nat) (ks : List PageKey) :
    Kept s0 (usePages s n ks) := by
  simp (maxDischargeDepth := 30) +contextual [usePages, h]
@[simp] theorem waitCage_kept {s0 s : State} (h : Kept s0 s) (o : Origin) (b : CmdBody) :
    Kept s0 (waitCage s o b) := by
  simp (maxDischargeDepth := 30) +contextual [waitCage, h]
@[simp] theorem opCagePin_kept {s0 s : State} (h : Kept s0 s) (d : Desc) :
    Kept s0 (opCagePin d s) := by
  unfold opCagePin
  try simp only []
  repeat' first
    | assumption
    | (intro _)
    | (simp only [])
    | (simp (maxDischargeDepth := 30) +contextual [*]; done)
    | split
    | apply kept_foldl
    | apply kept_foldl_fst
    | apply kept_foldl_snd
    | apply plainCommand_kept
    | apply bad_kept
    | apply done_kept
    | apply needPage_kept
    | apply touch_kept
    | apply modPage_kept
    | apply waitCage_kept
    | apply doneWith_kept
    | (simp only [kept_mk, kept_fold])
@[simp] theorem execCagePin_kept {s0 s : State} (h : Kept s0 s) (d : Desc) :
    KeptO s0 (execCagePin d s) := by
  simp (maxDischargeDepth := 30) +contextual [execCagePin, h]
@[simp] theorem leavePage_kept {s0 s : State} (h : Kept s0 s) (k : PageKey) :
    Kept s0 (leavePage s k) := by
  unfold leavePage
  try simp only []
  repeat' split
  all_goals simp (maxDischargeDepth := 30) +contextual [h]
@[simp] theorem opCageEvict_kept {s0 s : State} (h : Kept s0 s) (d : Desc) : Kept s0 (opCageEvict d s) := by
  refine plainCommand_kept h d _ _ _ (fun t o l ht => ?_)
  split
  · simp [ht]
  · split
    · simp [ht]
    · exact settlePools_kept (waitCage_kept (kept_foldl _ _ ht (fun u k hu => leavePage_kept hu k)) _ _)
@[simp] theorem execCageEvict_kept {s0 s : State} (h : Kept s0 s) (d : Desc) :
    KeptO s0 (execCageEvict d s) := by
  simp (maxDischargeDepth := 30) +contextual [execCageEvict, h]
@[simp] theorem loadFrom_kept {s0 s : State} (h : Kept s0 s) (k : PageKey) (addr : Nat) (o : Origin) :
    Kept s0 (loadFrom s k addr o) := by
  unfold loadFrom
  try simp only []
  repeat' split
  all_goals simp (maxDischargeDepth := 30) +contextual [h]
@[simp] theorem opCageLoad_kept {s0 s : State} (h : Kept s0 s) (d : Desc) :
    Kept s0 (opCageLoad d s) := by
  unfold opCageLoad
  try simp only []
  repeat' first
    | assumption
    | (intro _)
    | (simp only [])
    | (simp (maxDischargeDepth := 30) +contextual [*]; done)
    | split
    | apply kept_foldl
    | apply kept_foldl_fst
    | apply kept_foldl_snd
    | apply plainCommand_kept
    | apply bad_kept
    | apply done_kept
    | apply waitCage_kept
    | apply needPage_kept
    | apply touch_kept
    | apply loadFrom_kept
    | (simp only [kept_mk, kept_fold])
@[simp] theorem execCageLoad_kept {s0 s : State} (h : Kept s0 s) (d : Desc) :
    KeptO s0 (execCageLoad d s) := by
  simp (maxDischargeDepth := 30) +contextual [execCageLoad, h]
@[simp] theorem opRetireRelease_kept {s0 s : State} (h : Kept s0 s) (slot : BitVec 16) :
    Kept s0 (opRetireRelease slot s) := by
  unfold opRetireRelease
  try simp only []
  repeat' split
  all_goals simp (maxDischargeDepth := 30) +contextual [h]
@[simp] theorem execRetireRelease_kept {s0 s : State} (h : Kept s0 s) (slot : BitVec 16) :
    KeptO s0 (execRetireRelease slot s) := by
  simp (maxDischargeDepth := 30) +contextual [execRetireRelease, h]

end Sys2Proof.Machine
end

