-- ==== Sys2Proof/Laws/KeptFlash.lean ====
section
/-! SUPPORT. What the operations of Flash.lean keep. -/

namespace Sys2Proof.Machine

@[simp] theorem setSeam_kept {s0 s : State} (h : Kept s0 s) (c : Nat) (v : SeamSt) :
    Kept s0 (setSeam s c v) := by
  simp (maxDischargeDepth := 30) +contextual [setSeam, h]
@[simp] theorem modSeam_kept {s0 s : State} (h : Kept s0 s) (c : Nat) (f : SeamSt → SeamSt) :
    Kept s0 (modSeam s c f) := by
  simp (maxDischargeDepth := 30) +contextual [modSeam, h]
@[simp] theorem modDie_kept {s0 s : State} (h : Kept s0 s) (n : Nat) (f : SeamDie → SeamDie) :
    Kept s0 (modDie s n f) := by
  simp (maxDischargeDepth := 30) +contextual [modDie, h]
@[simp] theorem journalRec_kept {s0 s : State} (h : Kept s0 s) (n : Nat) :
    Kept s0 (journalRec s n) := by
  simp (maxDischargeDepth := 30) +contextual [journalRec, h]
@[simp] theorem journalSync_kept {s0 s : State} (h : Kept s0 s) (n : Nat) (r : SyncRec) :
    Kept s0 (journalSync s n r) := by
  simp (maxDischargeDepth := 30) +contextual [journalSync, h]
@[simp] theorem smErr_kept {s0 s : State} (h : Kept s0 s) (seam : Nat) (m : BitVec 7) :
    Kept s0 (smErr s seam m) := by
  simp (maxDischargeDepth := 30) +contextual [smErr, h]
@[simp] theorem takeSeq_kept {s0 s : State} (h : Kept s0 s) (die : Nat) :
    Kept s0 (takeSeq s die).2 := by
  simp (maxDischargeDepth := 30) +contextual [takeSeq, h]
@[simp] theorem queueIn_kept {s0 s : State} (h : Kept s0 s) (seam : Nat) (gi : Nat) (kind : Nat) (lpn : Nat) :
    Kept s0 (queueIn s seam gi kind lpn).2 := by
  unfold queueIn
  try simp only []
  repeat' split
  all_goals simp (maxDischargeDepth := 30) +contextual [h]
@[simp] theorem queuePage_kept {s0 s : State} (h : Kept s0 s) (seam : Nat) (kind : Nat) (lpn : Nat) :
    Kept s0 (queuePage s seam kind lpn).2 := by
  simp (maxDischargeDepth := 30) +contextual [queuePage, h]
@[simp] theorem queuePages_kept {s0 s : State} (h : Kept s0 s) (seam : Nat) (lpns : List Nat) :
    Kept s0 (queuePages s seam lpns).2 := by
  simp (maxDischargeDepth := 30) +contextual [queuePages, h]
@[simp] theorem passWater_kept {s0 s : State} (h : Kept s0 s) (die : Nat) :
    Kept s0 (passWater s die) := by
  simp [passWater, h]
@[simp] theorem releaseGroups_kept {s0 s : State} (h : Kept s0 s) (seam : Nat) :
    Kept s0 (releaseGroups s seam) := by
  simp (maxDischargeDepth := 30) +contextual [releaseGroups, h]
@[simp] theorem issueGroup_kept {s0 s : State} (h : Kept s0 s) (seam : Nat) (lpns : List Nat) (copyOf : Option FlashPlace) :
    Kept s0 (issueGroup s seam lpns copyOf).2 := by
  simp (maxDischargeDepth := 30) +contextual [issueGroup, h]
@[simp] theorem issueSeam_kept {s0 s : State} (h : Kept s0 s) (fuel : Nat) (seam : Nat) (lpns : List Nat) :
    Kept s0 (issueSeam fuel s seam lpns).2 := by
  induction fuel generalizing s lpns with
  | zero => simp [issueSeam, h]
  | succ fuel ih =>
    cases lpns with
    | nil => simp [issueSeam, h]
    | cons a l => exact ih (issueGroup_kept h _ _ _) _
@[simp] theorem issueAll_kept {s0 s : State} (h : Kept s0 s) (pages : List (Nat × Nat)) :
    Kept s0 (issueAll s pages).2 := by
  simp (maxDischargeDepth := 30) +contextual [issueAll, h]
@[simp] theorem settleSeam_kept {s0 s : State} (h : Kept s0 s) (seam : Nat) : Kept s0 (settleSeam s seam).2 := by
  unfold settleSeam
  generalize List.range 16 = is
  dsimp only
  apply kept_foldl
  · apply passWater_kept
    apply kept_foldl
    · apply modSeam_kept
      apply modDie_kept
      exact modSeam_kept h _ _
    · intro t w ht
      apply kept_foldl _ _ ht
      intro u p hu
      split <;> simp [hu]
  · intro t i ht
    exact releaseGroups_kept ht _
@[simp] theorem copyVictim_kept {s0 s : State} (h : Kept s0 s) (seam : Nat) (gi : Nat) :
    Kept s0 (copyVictim s seam gi) := by
  unfold copyVictim
  try simp only []
  repeat' split
  all_goals simp (maxDischargeDepth := 30) +contextual [h]
@[simp] theorem collect_kept {s0 s : State} (h : Kept s0 s) (seam : Nat) :
    Kept s0 (collect s seam) := by
  simp (maxDischargeDepth := 30) +contextual [collect, h]
@[simp] theorem syncEvent_kept {s0 s : State} (h : Kept s0 s) (die : Nat) (r : SyncRec) :
    Kept s0 (syncEvent s die r) := by
  unfold syncEvent
  split <;> simp [h]
@[simp] theorem journalDone_kept {s0 s : State} (h : Kept s0 s) (die : Nat) :
    Kept s0 (journalDone s die) := by
  simp (maxDischargeDepth := 30) +contextual [journalDone, h]
@[simp] theorem retireBlock_kept {s0 s : State} (h : Kept s0 s) (seam : Nat) (gi : Nat) (die : Nat) (b : Nat) :
    Kept s0 (retireBlock s seam gi die b) := by
  simp (maxDischargeDepth := 30) +contextual [retireBlock, h]

end Sys2Proof.Machine
end

