-- ==== Sys2Proof/Laws/KeptStores.lean ====
section
/-! SUPPORT. What the operations of Stores.lean keep. -/

namespace Sys2Proof.Machine

@[simp] theorem modPit_kept {s0 s : State} (h : Kept s0 s) (c : Nat) (p : Nat) (f : PitStore → PitStore) :
    Kept s0 (modPit s c p f) := by
  simp (maxDischargeDepth := 30) +contextual [modPit, h]
@[simp] theorem countUnread_kept {s0 s : State} (h : Kept s0 s) (die : Nat) (n : Nat) (chains : Nat) :
    Kept s0 (countUnread s die n chains) := by
  simp (maxDischargeDepth := 30) +contextual [countUnread, h]
@[simp] theorem countUnreads_kept {s0 s : State} (h : Kept s0 s) (chans : List Nat) :
    Kept s0 (countUnreads s chans) := by
  simp (maxDischargeDepth := 30) +contextual [countUnreads, h]
@[simp] theorem changePit_kept {s0 s : State} (h : Kept s0 s) (c : Nat) (p : Nat) (d : PitData) (pages : List (Nat × Nat)) :
    Kept s0 (changePit s c p d pages).2 := by
  simp (maxDischargeDepth := 30) +contextual [changePit, h]
@[simp] theorem modLedger_kept {s0 s : State} (h : Kept s0 s) (c : Nat) (l : Nat) (f : LedgerStore → LedgerStore) :
    Kept s0 (modLedger s c l f) := by
  simp (maxDischargeDepth := 30) +contextual [modLedger, h]
@[simp] theorem modGather_kept {s0 s : State} (h : Kept s0 s) (c : Nat) (f : GatherClaim → GatherClaim) :
    Kept s0 (modGather s c f) := by
  simp (maxDischargeDepth := 30) +contextual [modGather, h]
@[simp] theorem lgErr_kept {s0 s : State} (h : Kept s0 s) (m : BitVec 5) :
    Kept s0 (lgErr s m) := by
  simp (maxDischargeDepth := 30) +contextual [lgErr, h]
@[simp] theorem lookupRow_kept {s0 s : State} (h : Kept s0 s) (c : Nat) (l : Nat) (r : Nat) :
    Kept s0 (lookupRow s c l r).2 := by
  unfold lookupRow
  try simp only []
  repeat' split
  all_goals simp (maxDischargeDepth := 30) +contextual [h]
@[simp] theorem pinHot_kept {s0 s : State} (h : Kept s0 s) (c : Nat) (l : Nat) (r : Nat) :
    Kept s0 (pinHot s c l r) := by
  simp (maxDischargeDepth := 30) +contextual [pinHot, h]
@[simp] theorem modEntry_kept {s0 s : State} (h : Kept s0 s) (u : Nat) (c : Nat) (l : Nat) (r : Nat) (f : CoalEnt → CoalEnt) :
    Kept s0 (modEntry s u c l r f) := by
  simp (maxDischargeDepth := 30) +contextual [modEntry, h]
@[simp] theorem openEntry_kept {s0 s : State} (h : Kept s0 s) (u : Nat) (e : CoalEnt) :
    Kept s0 (openEntry s u e) := by
  simp (maxDischargeDepth := 30) +contextual [openEntry, h]
@[simp] theorem needRow_kept {s0 s : State} (h : Kept s0 s) (slot : Option Nat) (k : PageKey) :
    Kept s0 (needRow s slot k) := by
  unfold needRow
  try simp only []
  repeat' split
  all_goals simp (maxDischargeDepth := 30) +contextual [h]
@[simp] theorem lookup_kept {s0 s : State} (h : Kept s0 s) (c : Nat) (l : Nat) (port : Nat) (slot : Option Nat) (r : Nat) :
    Kept s0 (lookup s c l port slot r).2 := by
  unfold lookup
  try simp only []
  repeat' split
  all_goals simp (maxDischargeDepth := 30) +contextual [h]
@[simp] theorem lodeRan_kept {s0 s : State} (h : Kept s0 s) (lode : Nat) (fn : Nat) :
    Kept s0 (lodeRan s lode fn) := by
  simp (maxDischargeDepth := 30) +contextual [lodeRan, h]
@[simp] theorem rowRan_kept {s0 s : State} (h : Kept s0 s) (c : Nat) (l : Nat) (r : Nat) :
    Kept s0 (rowRan s c l r) := by
  unfold rowRan
  try simp only []
  repeat' split
  all_goals simp (maxDischargeDepth := 30) +contextual [h]
@[simp] theorem dropPair_kept {s0 s : State} (h : Kept s0 s) (c : Nat) (l : Nat) (r : Nat) :
    Kept s0 (dropPair s c l r) := by
  simp (maxDischargeDepth := 30) +contextual [dropPair, h]
@[simp] theorem scatterPair_kept {s0 s : State} (h : Kept s0 s) (c : Nat) (l : Nat) (r : Nat) (deltas : List Byte) :
    Kept s0 (scatterPair s c l r deltas) := by
  simp (maxDischargeDepth := 30) +contextual [scatterPair, h]
@[simp] theorem scatterAt_kept {s0 s : State} (h : Kept s0 s) (c : Nat) (l : Nat) (port : Nat) (r : Nat) (deltas : List Byte) :
    Kept s0 (scatterAt s c l port r deltas) := by
  simp (maxDischargeDepth := 30) +contextual [scatterAt, h]
@[simp] theorem cacheRow_kept {s0 s : State} (h : Kept s0 s) (c : Nat) (l : Nat) (r : Nat) :
    Kept s0 (cacheRow s c l r) := by
  unfold cacheRow
  try simp only []
  repeat' split
  all_goals simp (maxDischargeDepth := 30) +contextual [h]
@[simp] theorem serveAttached_kept {s0 s : State} (h : Kept s0 s) (c : Nat) (l : Nat) (r : Nat) (row : List Byte) :
    Kept s0 (serveAttached s c l r row) := by
  simp (maxDischargeDepth := 30) +contextual [serveAttached, h]
@[simp] theorem leaveOld_kept {s0 s : State} (h : Kept s0 s) (c : Nat) (l : Nat) (r : Nat) :
    Kept s0 (leaveOld s c l r) := by
  simp (maxDischargeDepth := 30) +contextual [leaveOld, h]
@[simp] theorem leaveEntry_kept {s0 s : State} (h : Kept s0 s) (u c l r : Nat) : Kept s0 (leaveEntry s u c l r) := by
  unfold leaveEntry
  dsimp only
  split
  · apply leaveOld_kept
    have hf : ∀ (as : List (List Byte)) t, Kept s0 t → Kept s0 (as.foldl (fun s a => scatterPair s c l r a) t) :=
      fun as t ht => kept_foldl _ _ ht (fun u a hu => scatterPair_kept hu _ _ _ _)
    split
    · exact pinHot_kept (cacheRow_kept (serveAttached_kept (touch_kept (hf _ _ (rowRan_kept (by simp [h]) _ _ _)) _) _ _ _ _) _ _ _) _ _ _
    · exact serveAttached_kept (touch_kept (hf _ _ (rowRan_kept (by simp [h]) _ _ _)) _) _ _ _ _
  · exact leaveOld_kept (serveAttached_kept (freeBytes_kept (by simp [h]) _) _ _ _ _) _ _ _
@[simp] theorem lookupAll_kept {s0 s : State} (h : Kept s0 s) (b : PortBatch) (rows : List Nat) :
    Kept s0 (lookupAll s b rows).2.2 := by
  induction rows generalizing s with
  | nil => exact h
  | cons r rest ih =>
    unfold lookupAll
    split
    · exact h
    · exact ih (lookup_kept h _ _ _ _ _)
@[simp] theorem scatterAll_kept {s0 s : State} (h : Kept s0 s) (b : PortBatch) (pairs : List (Nat × List Byte)) :
    Kept s0 (scatterAll s b pairs).2 := by
  induction pairs generalizing s with
  | nil => exact h
  | cons p rest ih =>
    unfold scatterAll
    split
    · exact h
    · exact ih (scatterAt_kept h _ _ _ _ _)
@[simp] theorem keepBatch_kept {s0 s : State} (h : Kept s0 s) (b : PortBatch) :
    Kept s0 (keepBatch s b) := by
  simp (maxDischargeDepth := 30) +contextual [keepBatch, h]
@[simp] theorem stepBatch_kept {s0 s : State} (h : Kept s0 s) (b : PortBatch) : Kept s0 (stepBatch s b) := by
  unfold stepBatch
  split
  · exact keepBatch_kept h _
  · exact keepBatch_kept (scatterAll_kept (lookupAll_kept h _ _) _ _) _
@[simp] theorem pumpPorts_kept {s0 s : State} (h : Kept s0 s) :
    Kept s0 (pumpPorts s) := by
  simp (maxDischargeDepth := 30) +contextual [pumpPorts, h]
@[simp] theorem opGatherBatch_kept {s0 s : State} (h : Kept s0 s) (claim : Nat) (ledger : Nat) (port : Nat) (slot : Option (BitVec 16)) (rows : List Nat) :
    Kept s0 (opGatherBatch claim ledger port slot rows s) := by
  simp (maxDischargeDepth := 30) +contextual [opGatherBatch, h]
@[simp] theorem execGatherBatch_kept {s0 s : State} (h : Kept s0 s) (claim ledger port : Nat) (batch : BatchRows) :
    KeptO s0 (execGatherBatch claim ledger port batch s) := by
  simp (maxDischargeDepth := 30) +contextual [execGatherBatch, h]
@[simp] theorem startScatter_kept {s0 s : State} (h : Kept s0 s) (c : Nat) (l : Nat) (port : Nat) (pairs : List (Nat × List Byte)) :
    Kept s0 (startScatter s c l port pairs) := by
  simp (maxDischargeDepth := 30) +contextual [startScatter, h]
@[simp] theorem opScatterBatch_kept {s0 s : State} (h : Kept s0 s) (claim : Nat) (ledger : Nat) (port : Nat) (pairs : List (Nat × List Byte)) :
    Kept s0 (opScatterBatch claim ledger port pairs s) := by
  simp (maxDischargeDepth := 30) +contextual [opScatterBatch, h]
@[simp] theorem execScatterBatch_kept {s0 s : State} (h : Kept s0 s) (claim : Nat) (ledger : Nat) (port : Nat) (pairs : List (Nat × List Byte)) :
    KeptO s0 (execScatterBatch claim ledger port pairs s) := by
  simp (maxDischargeDepth := 30) +contextual [execScatterBatch, h]
@[simp] theorem serveRow_kept {s0 : State} (c l port : Nat) (slot : Option Nat) (acc : List (List Byte) × List Nat × State)
    (h : Kept s0 acc.2.2) (r : Nat) : Kept s0 (serveRow c l port slot acc r).2.2 := by
  obtain ⟨out, opened, s⟩ := acc
  unfold serveRow
  dsimp only
  apply lookup_kept
  split
  · split
    · exact leaveEntry_kept h _ _ _ _
    · exact h
  · exact h
@[simp] theorem serveRows_kept {s0 s : State} (h : Kept s0 s) (c l : Nat) (slot : Option Nat) (rows : List Nat) :
    Kept s0 (serveRows s c l slot rows).2 := by
  have key : ∀ (rs : List Nat) (acc : List (List Byte) × List Nat × State), Kept s0 acc.2.2 →
      Kept s0 (rs.foldl (serveRow c l (gatherPort s c) slot) acc).2.2 := by
    intro rs
    induction rs with
    | nil => exact fun _ ha => ha
    | cons r rest ih => exact fun acc ha => ih _ (serveRow_kept c l _ slot acc ha r)
  unfold serveRows
  exact kept_foldl _ _ (key rows _ h) (fun t r ht => leaveEntry_kept ht _ _ _ _)
@[simp] theorem noteDurable_kept {s0 s : State} (h : Kept s0 s) (gs : List GroupId) :
    Kept s0 (noteDurable s gs) := by
  simp (maxDischargeDepth := 30) +contextual [noteDurable, h]
@[simp] theorem setCmd_kept {s0 s : State} (h : Kept s0 s) (x : Cmd) :
    Kept s0 (setCmd s x) := by
  simp (maxDischargeDepth := 30) +contextual [setCmd, h]
@[simp] theorem dropCmd_kept {s0 s : State} (h : Kept s0 s) (o : Origin) :
    Kept s0 (dropCmd s o) := by
  simp (maxDischargeDepth := 30) +contextual [dropCmd, h]
@[simp] theorem pitItem_kept {s0 : State} (addr : Nat) (ins : Bool) (f : List Byte → PitData → ItemRes) (acc : State × PitData × List (Nat × Nat) × Nat × List Nat × List (Nat × Nat)) (h : Kept s0 acc.1) (it : Nat × List Byte) :
    Kept s0 (pitItem addr ins f acc it).1 := by
  simp (maxDischargeDepth := 30) +contextual [pitItem, h]
@[simp] theorem beginPitItems_kept {s0 s : State} (h : Kept s0 s) (x : Cmd) (pit : Nat) (addr : Nat) (ins : Bool) (items : List Byte) :
    Kept s0 (beginPitItems s x pit addr ins items) := by
  unfold beginPitItems
  try simp only []
  repeat' split
  all_goals simp (maxDischargeDepth := 30) +contextual [h]
@[simp] theorem publishPit_kept {s0 s : State} (h : Kept s0 s) (x : Cmd) (pit : Nat) (sec : PitSec) :
    Kept s0 (publishPit s x pit sec) := by
  simp (maxDischargeDepth := 30) +contextual [publishPit, h]
@[simp] theorem beginPublish_kept {s0 s : State} (h : Kept s0 s) (x : Cmd) (pit : Nat) :
    Kept s0 (beginPublish s x pit) := by
  unfold beginPublish
  try simp only []
  repeat' split
  all_goals simp (maxDischargeDepth := 30) +contextual [h]
@[simp] theorem rowItem_kept {s0 : State} (addr : Nat) (sec : LedgerSec) (acc : State × LedgerData × List (Nat × Nat) × Nat) (h : Kept s0 acc.1) (it : Nat × List Byte) :
    Kept s0 (rowItem addr sec acc it).1 := by
  unfold rowItem
  try simp only []
  repeat' split
  all_goals simp (maxDischargeDepth := 30) +contextual [h]
@[simp] theorem beginRows_kept {s0 s : State} (h : Kept s0 s) (x : Cmd) (l : Nat) (addr : Nat) (items : List Byte) :
    Kept s0 (beginRows s x l addr items) := by
  unfold beginRows
  try simp only []
  repeat' split
  all_goals simp (maxDischargeDepth := 30) +contextual [h]
@[simp] theorem beginSwap_kept {s0 s : State} (h : Kept s0 s) (x : Cmd) (l : Nat) (table : List Byte) :
    Kept s0 (beginSwap s x l table) := by
  unfold beginSwap
  try simp only []
  repeat' split
  all_goals simp (maxDischargeDepth := 30) +contextual [h]
@[simp] theorem beginCmd_kept {s0 s : State} (h : Kept s0 s) (x : Cmd) :
    Kept s0 (beginCmd s x) := by
  unfold beginCmd
  try simp only []
  repeat' split
  all_goals simp (maxDischargeDepth := 30) +contextual [h]
@[simp] theorem endFenced_kept {s0 s : State} (h : Kept s0 s) (x : Cmd) (detail : Nat) :
    Kept s0 (endFenced s x detail) := by
  unfold endFenced
  try simp only []
  repeat' split
  all_goals simp (maxDischargeDepth := 30) +contextual [h]
@[simp] theorem finishCmd_kept {s0 s : State} (h : Kept s0 s) (x : Cmd) :
    Kept s0 (finishCmd s x) := by
  unfold finishCmd
  try simp only []
  repeat' split
  all_goals simp (maxDischargeDepth := 30) +contextual [h]
@[simp] theorem settleCmds_kept {s0 s : State} (h : Kept s0 s) (fuel : Nat) :
    Kept s0 (settleCmds fuel s) := by
  induction fuel generalizing s with
  | zero => simp [settleCmds, h]
  | succ fuel ih =>
    unfold settleCmds
    try simp only []
    repeat' split
    all_goals simp (maxDischargeDepth := 30) +contextual [h, ih]
@[simp] theorem runCmds_kept {s0 s : State} (h : Kept s0 s) :
    Kept s0 (runCmds s) := by
  simp (maxDischargeDepth := 30) +contextual [runCmds, h]
@[simp] theorem addCmd_kept {s0 s : State} (h : Kept s0 s) (o : Origin) (b : CmdBody) (total : Nat) :
    Kept s0 (addCmd s o b total) := by
  simp (maxDischargeDepth := 30) +contextual [addCmd, h]
@[simp] theorem afterSeam_kept {s0 s : State} (h : Kept s0 s) (seam : Nat) :
    Kept s0 (afterSeam s seam) := by
  simp (maxDischargeDepth := 30) +contextual [afterSeam, h]
@[simp] theorem opPitInsert_kept {s0 s : State} (h : Kept s0 s) (d : Desc) (items : List Byte) :
    Kept s0 (opPitInsert d items s) := by
  simp (maxDischargeDepth := 30) +contextual [opPitInsert, h]
@[simp] theorem execPitInsert_kept {s0 s : State} (h : Kept s0 s) (d : Desc) (items : List Byte) :
    KeptO s0 (execPitInsert d items s) := by
  simp (maxDischargeDepth := 30) +contextual [execPitInsert, h]
@[simp] theorem opPitDelete_kept {s0 s : State} (h : Kept s0 s) (d : Desc) (items : List Byte) :
    Kept s0 (opPitDelete d items s) := by
  simp (maxDischargeDepth := 30) +contextual [opPitDelete, h]
@[simp] theorem execPitDelete_kept {s0 s : State} (h : Kept s0 s) (d : Desc) (items : List Byte) :
    KeptO s0 (execPitDelete d items s) := by
  simp (maxDischargeDepth := 30) +contextual [execPitDelete, h]
@[simp] theorem opPitPublish_kept {s0 s : State} (h : Kept s0 s) (d : Desc) :
    Kept s0 (opPitPublish d s) := by
  simp (maxDischargeDepth := 30) +contextual [opPitPublish, h]
@[simp] theorem execPitPublish_kept {s0 s : State} (h : Kept s0 s) (d : Desc) :
    KeptO s0 (execPitPublish d s) := by
  simp (maxDischargeDepth := 30) +contextual [execPitPublish, h]
@[simp] theorem startSweep_kept {s0 s : State} (h : Kept s0 s) (c : Nat) (p : Nat) :
    Kept s0 (startSweep s c p) := by
  unfold startSweep
  try simp only []
  repeat' split
  all_goals simp (maxDischargeDepth := 30) +contextual [h]
@[simp] theorem opEpochRecordDurable_kept {s0 s : State} (h : Kept s0 s) (claim : Nat) (pit : Nat) :
    Kept s0 (opEpochRecordDurable claim pit s) := by
  unfold opEpochRecordDurable
  try simp only []
  repeat' split
  all_goals simp (maxDischargeDepth := 30) +contextual [h]
@[simp] theorem execEpochRecordDurable_kept {s0 s : State} (h : Kept s0 s) (claim : Nat) (pit : Nat) :
    KeptO s0 (execEpochRecordDurable claim pit s) := by
  simp (maxDischargeDepth := 30) +contextual [execEpochRecordDurable, h]
@[simp] theorem opSweepRecordRepair_kept {s0 s : State} (h : Kept s0 s) (claim : Nat) (pit : Nat) (channel : Nat) (slot : Nat) :
    Kept s0 (opSweepRecordRepair claim pit channel slot s) := by
  unfold opSweepRecordRepair
  try simp only []
  repeat' split
  all_goals simp (maxDischargeDepth := 30) +contextual [h]
@[simp] theorem execSweepRecordRepair_kept {s0 s : State} (h : Kept s0 s) (claim : Nat) (pit : Nat) (channel : Nat) (slot : Nat) :
    KeptO s0 (execSweepRecordRepair claim pit channel slot s) := by
  simp (maxDischargeDepth := 30) +contextual [execSweepRecordRepair, h]
@[simp] theorem opSweepFree_kept {s0 s : State} (h : Kept s0 s) (claim : Nat) (pit : Nat) :
    Kept s0 (opSweepFree claim pit s) := by
  unfold opSweepFree
  try simp only []
  repeat' split
  all_goals simp (maxDischargeDepth := 30) +contextual [h]
@[simp] theorem execSweepFree_kept {s0 s : State} (h : Kept s0 s) (claim : Nat) (pit : Nat) :
    KeptO s0 (execSweepFree claim pit s) := by
  simp (maxDischargeDepth := 30) +contextual [execSweepFree, h]
@[simp] theorem opHotNodeWindowEnd_kept {s0 s : State} (h : Kept s0 s) (claim : Nat) (pit : Nat) (channel : Nat) :
    Kept s0 (opHotNodeWindowEnd claim pit channel s) := by
  unfold opHotNodeWindowEnd
  try simp only []
  repeat' split
  all_goals simp (maxDischargeDepth := 30) +contextual [h]
@[simp] theorem execHotNodeWindowEnd_kept {s0 s : State} (h : Kept s0 s) (claim : Nat) (pit : Nat) (channel : Nat) :
    KeptO s0 (execHotNodeWindowEnd claim pit channel s) := by
  simp (maxDischargeDepth := 30) +contextual [execHotNodeWindowEnd, h]
@[simp] theorem opLedgerRowWrite_kept {s0 s : State} (h : Kept s0 s) (d : Desc) (items : List Byte) :
    Kept s0 (opLedgerRowWrite d items s) := by
  unfold opLedgerRowWrite
  try simp only []
  repeat' first
    | assumption
    | (intro _)
    | (simp only [])
    | (simp (maxDischargeDepth := 30) +contextual [*]; done)
    | split
    | apply kept_foldl
    | apply kept_foldl_fst
    | apply kept_foldl_snd
    | apply plainCommand_kept
    | apply bad_kept
    | apply addCmd_kept
    | (simp only [kept_mk, kept_fold])
@[simp] theorem execLedgerRowWrite_kept {s0 s : State} (h : Kept s0 s) (d : Desc) (items : List Byte) :
    KeptO s0 (execLedgerRowWrite d items s) := by
  simp (maxDischargeDepth := 30) +contextual [execLedgerRowWrite, h]
@[simp] theorem opLedgerSwap_kept {s0 s : State} (h : Kept s0 s) (d : Desc) (table : List Byte) :
    Kept s0 (opLedgerSwap d table s) := by
  simp (maxDischargeDepth := 30) +contextual [opLedgerSwap, h]
@[simp] theorem execLedgerSwap_kept {s0 s : State} (h : Kept s0 s) (d : Desc) (table : List Byte) :
    KeptO s0 (execLedgerSwap d table s) := by
  simp (maxDischargeDepth := 30) +contextual [execLedgerSwap, h]
@[simp] theorem pinResident_kept {s0 s : State} (h : Kept s0 s) (c : Nat) (l : Nat) :
    Kept s0 (pinResident s c l) := by
  unfold pinResident
  try simp only []
  repeat' first
    | assumption
    | (intro _)
    | (simp only [])
    | (simp (maxDischargeDepth := 30) +contextual [*]; done)
    | split
    | apply kept_foldl
    | apply kept_foldl_fst
    | apply kept_foldl_snd
    | apply touch_kept
    | apply setPage_kept
    | (simp only [kept_mk, kept_fold])
@[simp] theorem opLedgerSwapFlip_kept {s0 s : State} (h : Kept s0 s) (claim : Nat) (ledger : Nat) :
    Kept s0 (opLedgerSwapFlip claim ledger s) := by
  unfold opLedgerSwapFlip
  try simp only []
  repeat' split
  all_goals simp (maxDischargeDepth := 30) +contextual [h]
@[simp] theorem execLedgerSwapFlip_kept {s0 s : State} (h : Kept s0 s) (claim : Nat) (ledger : Nat) :
    KeptO s0 (execLedgerSwapFlip claim ledger s) := by
  simp (maxDischargeDepth := 30) +contextual [execLedgerSwapFlip, h]
@[simp] theorem opCoalescerEntryLeave_kept {s0 s : State} (h : Kept s0 s) (unit : Nat) (claim : Nat) (ledger : Nat) (row : Nat) :
    Kept s0 (opCoalescerEntryLeave unit claim ledger row s) := by
  simp (maxDischargeDepth := 30) +contextual [opCoalescerEntryLeave, h]
@[simp] theorem execCoalescerEntryLeave_kept {s0 s : State} (h : Kept s0 s) (unit : Nat) (claim : Nat) (ledger : Nat) (row : Nat) :
    KeptO s0 (execCoalescerEntryLeave unit claim ledger row s) := by
  simp (maxDischargeDepth := 30) +contextual [execCoalescerEntryLeave, h]
@[simp] theorem opSketchHalving_kept {s0 s : State} (h : Kept s0 s) (claim : Nat) :
    Kept s0 (opSketchHalving claim s) := by
  simp (maxDischargeDepth := 30) +contextual [opSketchHalving, h]
@[simp] theorem execSketchHalving_kept {s0 s : State} (h : Kept s0 s) (claim : Nat) :
    KeptO s0 (execSketchHalving claim s) := by
  simp (maxDischargeDepth := 30) +contextual [execSketchHalving, h]
@[simp] theorem endLoadWindow_kept {s0 s : State} (h : Kept s0 s) (c : Nat) (l : Nat) :
    Kept s0 (endLoadWindow s c l) := by
  simp (maxDischargeDepth := 30) +contextual [endLoadWindow, h]
@[simp] theorem opBinLoadWindowEnd_kept {s0 s : State} (h : Kept s0 s) (claim : Nat) :
    Kept s0 (opBinLoadWindowEnd claim s) := by
  simp (maxDischargeDepth := 30) +contextual [opBinLoadWindowEnd, h]
@[simp] theorem execBinLoadWindowEnd_kept {s0 s : State} (h : Kept s0 s) (claim : Nat) :
    KeptO s0 (execBinLoadWindowEnd claim s) := by
  simp (maxDischargeDepth := 30) +contextual [execBinLoadWindowEnd, h]
@[simp] theorem moveBinPage_kept {s0 s : State} (h : Kept s0 s) (c : Nat) (l : Nat) (lode : Nat) (k : PageKey) :
    Kept s0 (moveBinPage s c l lode k) := by
  simp (maxDischargeDepth := 30) +contextual [moveBinPage, h]
@[simp] theorem opBinMigrateDone_kept {s0 s : State} (h : Kept s0 s) (claim : Nat) (ledger : Nat) :
    Kept s0 (opBinMigrateDone claim ledger s) := by
  unfold opBinMigrateDone
  try simp only []
  repeat' split
  all_goals simp (maxDischargeDepth := 30) +contextual [h]
@[simp] theorem execBinMigrateDone_kept {s0 s : State} (h : Kept s0 s) (claim : Nat) (ledger : Nat) :
    KeptO s0 (execBinMigrateDone claim ledger s) := by
  simp (maxDischargeDepth := 30) +contextual [execBinMigrateDone, h]

end Sys2Proof.Machine
end

