-- ==== Sys2Proof/Laws/KeptFlashRows.lean ====
section
/-! SUPPORT. What the operations of FlashRows.lean keep. -/

namespace Sys2Proof.Machine

@[simp] theorem countBlockRead_kept {s0 s : State} (h : Kept s0 s) (seam : Nat) (p : FlashPlace) :
    Kept s0 (countBlockRead s seam p) := by
  simp (maxDischargeDepth := 30) +contextual [countBlockRead, h]
@[simp] theorem countRebuild_kept {s0 s : State} (h : Kept s0 s) (seam : Nat) (p : FlashPlace) :
    Kept s0 (countRebuild s seam p) := by
  simp (maxDischargeDepth := 30) +contextual [countRebuild, h]
@[simp] theorem opPageReadDone_kept {s0 s : State} (h : Kept s0 s) (seam : Nat) (lpn : Nat) (outcome : ReadOutcome) :
    Kept s0 (opPageReadDone seam lpn outcome s) := by
  unfold opPageReadDone
  try simp only []
  repeat' split
  all_goals simp (maxDischargeDepth := 30) +contextual [h]
@[simp] theorem execPageReadDone_kept {s0 s : State} (h : Kept s0 s) (seam : Nat) (lpn : Nat) (outcome : ReadOutcome) :
    KeptO s0 (execPageReadDone seam lpn outcome s) := by
  simp (maxDischargeDepth := 30) +contextual [execPageReadDone, h]
@[simp] theorem opReadRebuildDone_kept {s0 s : State} (h : Kept s0 s) (seam : Nat) (lpn : Nat) (ok : Bool) :
    Kept s0 (opReadRebuildDone seam lpn ok s) := by
  unfold opReadRebuildDone
  simp only []
  repeat' split
  all_goals simp (maxDischargeDepth := 30) +contextual [h]
@[simp] theorem execReadRebuildDone_kept {s0 s : State} (h : Kept s0 s) (seam : Nat) (lpn : Nat) (ok : Bool) :
    KeptO s0 (execReadRebuildDone seam lpn ok s) := by
  simp (maxDischargeDepth := 30) +contextual [execReadRebuildDone, h]
@[simp] theorem opPageProgramDone_kept {s0 s : State} (h : Kept s0 s) (seam : Nat) (seq : Nat) :
    Kept s0 (opPageProgramDone seam seq s) := by
  unfold opPageProgramDone
  try simp only []
  repeat' split
  all_goals simp (maxDischargeDepth := 30) +contextual [h]
@[simp] theorem execPageProgramDone_kept {s0 s : State} (h : Kept s0 s) (seam : Nat) (seq : Nat) :
    KeptO s0 (execPageProgramDone seam seq s) := by
  simp (maxDischargeDepth := 30) +contextual [execPageProgramDone, h]
@[simp] theorem fillStripe_kept {s0 s : State} (h : Kept s0 s) (fuel : Nat) (seam : Nat) (group : Nat) (b : Nat) (stripe : Nat) :
    Kept s0 (fillStripe fuel s seam group b stripe) := by
  induction fuel generalizing s with
  | zero => simp [fillStripe, h]
  | succ fuel ih =>
    unfold fillStripe
    try simp only []
    repeat' split
    all_goals simp (maxDischargeDepth := 30) +contextual [h, ih]
@[simp] theorem opStripeFill_kept {s0 s : State} (h : Kept s0 s) (seam : Nat) (group : Nat) :
    Kept s0 (opStripeFill seam group s) := by
  unfold opStripeFill
  try simp only []
  repeat' split
  all_goals simp (maxDischargeDepth := 30) +contextual [h]
@[simp] theorem execStripeFill_kept {s0 s : State} (h : Kept s0 s) (seam : Nat) (group : Nat) :
    KeptO s0 (execStripeFill seam group s) := by
  simp (maxDischargeDepth := 30) +contextual [execStripeFill, h]
@[simp] theorem requeue_kept {s0 s : State} (h : Kept s0 s) (seam : Nat) (old : List (Nat × QPage)) :
    Kept s0 (requeue s seam old) := by
  simp (maxDischargeDepth := 30) +contextual [requeue, h]
@[simp] theorem opProgramFail_kept {s0 s : State} (h : Kept s0 s) (seam : Nat) (seq : Nat) :
    Kept s0 (opProgramFail seam seq s) := by
  unfold opProgramFail
  try simp only []
  repeat' split
  all_goals simp (maxDischargeDepth := 30) +contextual [h]
@[simp] theorem execProgramFail_kept {s0 s : State} (h : Kept s0 s) (seam : Nat) (seq : Nat) :
    KeptO s0 (execProgramFail seam seq s) := by
  simp (maxDischargeDepth := 30) +contextual [execProgramFail, h]
@[simp] theorem opEraseDone_kept {s0 s : State} (h : Kept s0 s) (seam : Nat) (group : Nat) (superblock : Nat) :
    Kept s0 (opEraseDone seam group superblock s) := by
  simp (maxDischargeDepth := 30) +contextual [opEraseDone, h]
@[simp] theorem execEraseDone_kept {s0 s : State} (h : Kept s0 s) (seam : Nat) (group : Nat) (superblock : Nat) :
    KeptO s0 (execEraseDone seam group superblock s) := by
  simp (maxDischargeDepth := 30) +contextual [execEraseDone, h]
@[simp] theorem opEraseFail_kept {s0 s : State} (h : Kept s0 s) (seam : Nat) (group : Nat) (superblock : Nat) (die : Nat) :
    Kept s0 (opEraseFail seam group superblock die s) := by
  simp (maxDischargeDepth := 30) +contextual [opEraseFail, h]
@[simp] theorem execEraseFail_kept {s0 s : State} (h : Kept s0 s) (seam : Nat) (group : Nat) (superblock : Nat) (die : Nat) :
    KeptO s0 (execEraseFail seam group superblock die s) := by
  simp (maxDischargeDepth := 30) +contextual [execEraseFail, h]
@[simp] theorem opCollectionCopyDurable_kept {s0 s : State} (h : Kept s0 s) (seam : Nat) (lpn : Nat) :
    Kept s0 (opCollectionCopyDurable seam lpn s) := by
  unfold opCollectionCopyDurable
  try simp only []
  repeat' split
  all_goals simp (maxDischargeDepth := 30) +contextual [h]
@[simp] theorem execCollectionCopyDurable_kept {s0 s : State} (h : Kept s0 s) (seam : Nat) (lpn : Nat) :
    KeptO s0 (execCollectionCopyDurable seam lpn s) := by
  simp (maxDischargeDepth := 30) +contextual [execCollectionCopyDurable, h]
@[simp] theorem opJournalStripeProgram_kept {s0 s : State} (h : Kept s0 s) (die : Nat) :
    Kept s0 (opJournalStripeProgram die s) := by
  simp (maxDischargeDepth := 30) +contextual [opJournalStripeProgram, h]
@[simp] theorem execJournalStripeProgram_kept {s0 s : State} (h : Kept s0 s) (die : Nat) :
    KeptO s0 (execJournalStripeProgram die s) := by
  simp (maxDischargeDepth := 30) +contextual [execJournalStripeProgram, h]
@[simp] theorem opCheckpointStart_kept {s0 s : State} (h : Kept s0 s) (die : Nat) :
    Kept s0 (opCheckpointStart die s) := by
  unfold opCheckpointStart
  try simp only []
  repeat' split
  all_goals simp (maxDischargeDepth := 30) +contextual [h]
@[simp] theorem execCheckpointStart_kept {s0 s : State} (h : Kept s0 s) (die : Nat) :
    KeptO s0 (execCheckpointStart die s) := by
  simp (maxDischargeDepth := 30) +contextual [execCheckpointStart, h]
@[simp] theorem opCheckpointDone_kept {s0 s : State} (h : Kept s0 s) (die : Nat) :
    Kept s0 (opCheckpointDone die s) := by
  simp (maxDischargeDepth := 30) +contextual [opCheckpointDone, h]
@[simp] theorem execCheckpointDone_kept {s0 s : State} (h : Kept s0 s) (die : Nat) :
    KeptO s0 (execCheckpointDone die s) := by
  simp (maxDischargeDepth := 30) +contextual [execCheckpointDone, h]

end Sys2Proof.Machine
end

