-- ==== Sys2Proof/Laws/KeptSteps.lean ====
section
/-! SUPPORT. What the operations of Steps.lean keep. -/

namespace Sys2Proof.Machine

@[simp] theorem modStep_kept {s0 s : State} (h : Kept s0 s) (n : Nat) (i : Nat) (f : StepSt → StepSt) :
    Kept s0 (modStep s n i f) := by
  simp (maxDischargeDepth := 30) +contextual [modStep, h]
@[simp] theorem pushCmd_kept {s0 s : State} (h : Kept s0 s) (c : Nat) (engine : Nat) (x : RCmd) :
    Kept s0 (pushCmd s c engine x) := by
  unfold pushCmd
  try simp only []
  repeat' split
  all_goals simp (maxDischargeDepth := 30) +contextual [h]
@[simp] theorem popCmd_kept {s0 s : State} (h : Kept s0 s) (c : Nat) (n : Nat) (i : Nat) (engine : Nat) :
    Kept s0 (popCmd s c n i engine) := by
  simp (maxDischargeDepth := 30) +contextual [popCmd, h]
@[simp] theorem fireArm_kept {s0 s : State} (h : Kept s0 s) (n : Nat) (i : Nat) (point : Nat) (occ : Nat) (layer : Nat) (tensor : List Byte) (pos : Nat) :
    Kept s0 (fireArm s n i point occ layer tensor pos) := by
  simp (maxDischargeDepth := 30) +contextual [fireArm, h]
@[simp] theorem fireLayers_kept {s0 s : State} (h : Kept s0 s) (n : Nat) (i : Nat) (occ : Nat) (pos : Nat) (m : ModelSec) :
    Kept s0 (fireLayers s n i occ pos m) := by
  simp (maxDischargeDepth := 30) +contextual [fireLayers, h]
@[simp] theorem beginSearch_kept {s0 s : State} (h : Kept s0 s) (n : Nat) (i : Nat) (r : Req) (t : StepRec) :
    Kept s0 (beginSearch s n i r t) := by
  unfold beginSearch
  try simp only []
  repeat' split
  all_goals simp (maxDischargeDepth := 30) +contextual [h]
@[simp] theorem beginPrefill_kept {s0 s : State} (h : Kept s0 s) (n : Nat) (r : Req) :
    Kept s0 (beginPrefill s n r) := by
  unfold beginPrefill
  try simp only []
  repeat' split
  all_goals simp (maxDischargeDepth := 30) +contextual [h]
@[simp] theorem enterCounts_kept {s0 s : State} (h : Kept s0 s) (n : Nat) (gen : Bool) (ts : List Nat) :
    Kept s0 (enterCounts s n gen ts) := by
  unfold enterCounts
  try simp only []
  repeat' split
  all_goals simp (maxDischargeDepth := 30) +contextual [h]
@[simp] theorem beginGenerate_kept {s0 s : State} (h : Kept s0 s) (n : Nat) (r : Req) (t : StepRec) :
    Kept s0 (beginGenerate s n r t) := by
  simp (maxDischargeDepth := 30) +contextual [beginGenerate, h]
@[simp] theorem takeShaper_kept {s0 s : State} (h : Kept s0 s) (n : Nat) (r : Req) :
    Kept s0 (takeShaper s n r).1 := by
  unfold takeShaper
  try simp only []
  repeat' split
  all_goals simp (maxDischargeDepth := 30) +contextual [h]
@[simp] theorem waitShaper_kept {s0 s : State} (h : Kept s0 s) (n : Nat) :
    Kept s0 (waitShaper s n) := by
  simp (maxDischargeDepth := 30) +contextual [waitShaper, h]
@[simp] theorem freeConsumed_kept {s0 s : State} (h : Kept s0 s) (n : Nat) :
    Kept s0 (freeConsumed s n) := by
  simp (maxDischargeDepth := 30) +contextual [freeConsumed, h]
@[simp] theorem startStep_kept {s0 s : State} (h : Kept s0 s) (n : Nat) (i : Nat) (g : Option Nat) (r : Req) (t : StepRec) :
    Kept s0 (startStep s n i g r t) := by
  simp (maxDischargeDepth := 30) +contextual [startStep, h]
@[simp] theorem tryIssue_kept {s0 s : State} (h : Kept s0 s) (n : Nat) (i : Nat) :
    Kept s0 (tryIssue s n i) := by
  unfold tryIssue
  try simp only []
  repeat' split
  all_goals simp (maxDischargeDepth := 30) +contextual [h]
@[simp] theorem issueSteps_kept {s0 s : State} (h : Kept s0 s) (n : Nat) :
    Kept s0 (issueSteps s n) := by
  unfold issueSteps
  try simp only []
  repeat' split
  all_goals simp (maxDischargeDepth := 30) +contextual [h]
@[simp] theorem endIfComplete_kept {s0 s : State} (h : Kept s0 s) (n : Nat) :
    Kept s0 (endIfComplete s n) := by
  unfold endIfComplete
  try simp only []
  repeat' split
  all_goals simp (maxDischargeDepth := 30) +contextual [h]
@[simp] theorem goOn_kept {s0 s : State} (h : Kept s0 s) (n : Nat) :
    Kept s0 (goOn s n) := by
  simp (maxDischargeDepth := 30) +contextual [goOn, h]
@[simp] theorem completeStep_kept {s0 s : State} (h : Kept s0 s) (n : Nat) (i : Nat) (f : StepSt → StepSt) :
    Kept s0 (completeStep s n i f) := by
  unfold completeStep
  try simp only []
  repeat' split
  all_goals simp (maxDischargeDepth := 30) +contextual [h]
@[simp] theorem flagReq_kept {s0 s : State} (h : Kept s0 s) (n : Nat) (m : Nat) :
    Kept s0 (flagReq s n m) := by
  simp (maxDischargeDepth := 30) +contextual [flagReq, h]
@[simp] theorem countInvalid_kept {s0 s : State} (h : Kept s0 s) (n : Nat) (k : Nat) :
    Kept s0 (countInvalid s n k) := by
  simp (maxDischargeDepth := 30) +contextual [countInvalid, h]

end Sys2Proof.Machine
end

