-- ==== Sys2Proof/Laws/KeptForeman.lean ====
section
/-! SUPPORT. What the operations of Foreman.lean keep. -/

namespace Sys2Proof.Machine

theorem debitPolicer_kept {s0 s t : State} (h : Kept s0 s) (c n cost : Nat) (e : debitPolicer s c n cost = some t) : Kept s0 t := by
  unfold debitPolicer at e
  split at e
  · cases e; exact h
  · simp only [] at e
    split at e
    · cases e
    · cases e; exact h
@[simp] theorem countPoliced_kept {s0 s : State} (h : Kept s0 s) (c : Nat) (t : Nat) :
    Kept s0 (countPoliced s c t) := by
  simp (maxDischargeDepth := 30) +contextual [countPoliced, h]
@[simp] theorem takeRefs_kept {s0 s : State} (h : Kept s0 s) (c : Nat) (adapter : Option Nat) (pfx : Option Nat) :
    Kept s0 (takeRefs s c adapter pfx) := by
  unfold takeRefs
  try simp only []
  repeat' split
  all_goals simp (maxDischargeDepth := 30) +contextual [h]
@[simp] theorem admitReq_kept {s0 s : State} (h : Kept s0 s) (r : Req) (n : Nat) :
    Kept s0 (admitReq s r n) := by
  simp (maxDischargeDepth := 30) +contextual [admitReq, h]
@[simp] theorem runRecipeBody_kept {s0 s : State} (h : Kept s0 s) (o : Origin) (l : List Byte) : Kept s0 (runRecipeBody s o l) := by
  unfold runRecipeBody
  try extract_lets
  split
  · exact done_kept h _ _ _
  · split
    · exact bad_kept h _ _
    · split
      · exact bad_kept h _ _
      · try extract_lets
        split
        · exact bad_kept h _ _
        · try extract_lets
          split
          · exact done_kept h _ _ _
          · split
            · exact done_kept (countPoliced_kept h _ _) _ _ _
            · rename_i e
              exact admitReq_kept (debitPolicer_kept h _ _ _ e) _ _
@[simp] theorem opRunRecipe_kept {s0 s : State} (h : Kept s0 s) (d : Desc) :
    Kept s0 (opRunRecipe d s) := by
  simp (maxDischargeDepth := 30) +contextual [opRunRecipe, h]
@[simp] theorem execRunRecipe_kept {s0 s : State} (h : Kept s0 s) (d : Desc) :
    KeptO s0 (execRunRecipe d s) := by
  simp (maxDischargeDepth := 30) +contextual [execRunRecipe, h]
@[simp] theorem searchBody_kept {s0 s : State} (h : Kept s0 s) (op : Nat) (query : List Byte) (o : Origin) (l : List Byte) :
    Kept s0 (searchBody op query s o l) := by
  unfold searchBody
  try simp only []
  repeat' split
  all_goals simp (maxDischargeDepth := 30) +contextual [h]
@[simp] theorem opSearchOnly_kept {s0 s : State} (h : Kept s0 s) (d : Desc) (query : List Byte) :
    Kept s0 (opSearchOnly d query s) := by
  simp (maxDischargeDepth := 30) +contextual [opSearchOnly, h]
@[simp] theorem execSearchOnly_kept {s0 s : State} (h : Kept s0 s) (d : Desc) (query : List Byte) :
    KeptO s0 (execSearchOnly d query s) := by
  simp (maxDischargeDepth := 30) +contextual [execSearchOnly, h]
@[simp] theorem opFlatScan_kept {s0 s : State} (h : Kept s0 s) (d : Desc) (query : List Byte) :
    Kept s0 (opFlatScan d query s) := by
  simp (maxDischargeDepth := 30) +contextual [opFlatScan, h]
@[simp] theorem execFlatScan_kept {s0 s : State} (h : Kept s0 s) (d : Desc) (query : List Byte) :
    KeptO s0 (execFlatScan d query s) := by
  simp (maxDischargeDepth := 30) +contextual [execFlatScan, h]
@[simp] theorem afterReq_kept {s0 s : State} (h : Kept s0 s) (n : Nat) (x : CplRec) :
    Kept s0 (afterReq s n x) := by
  simp (maxDischargeDepth := 30) +contextual [afterReq, h]
@[simp] theorem opAbort_kept {s0 s : State} (h : Kept s0 s) (d : Desc) :
    Kept s0 (opAbort d s) := by
  unfold opAbort
  try simp only []
  repeat' first
    | assumption
    | (intro _)
    | (simp only [])
    | (simp (maxDischargeDepth := 30) +contextual [*]; done)
    | split
    | apply kept_foldl
    | apply kept_foldl_fst
    | apply kept_foldl_snd
    | apply claimDesc_kept
    | apply bad_kept
    | apply done_kept
    | apply afterReq_kept
    | apply commitReq_kept
    | (simp only [kept_mk, kept_fold])
@[simp] theorem execAbort_kept {s0 s : State} (h : Kept s0 s) (d : Desc) :
    KeptO s0 (execAbort d s) := by
  simp (maxDischargeDepth := 30) +contextual [execAbort, h]
@[simp] theorem opWatchArm_kept {s0 s : State} (h : Kept s0 s) (d : Desc) :
    Kept s0 (opWatchArm d s) := by
  unfold opWatchArm
  try simp only []
  repeat' first
    | assumption
    | (intro _)
    | (simp only [])
    | (simp (maxDischargeDepth := 30) +contextual [*]; done)
    | split
    | apply kept_foldl
    | apply kept_foldl_fst
    | apply kept_foldl_snd
    | apply claimDesc_kept
    | apply bad_kept
    | apply done_kept
    | (simp only [kept_mk, kept_fold])
@[simp] theorem execWatchArm_kept {s0 s : State} (h : Kept s0 s) (d : Desc) :
    KeptO s0 (execWatchArm d s) := by
  simp (maxDischargeDepth := 30) +contextual [execWatchArm, h]
@[simp] theorem opReservedOpcode_kept {s0 s : State} (h : Kept s0 s) (d : Desc) :
    Kept s0 (opReservedOpcode d s) := by
  simp (maxDischargeDepth := 30) +contextual [opReservedOpcode, h]
@[simp] theorem execReservedOpcode_kept {s0 s : State} (h : Kept s0 s) (d : Desc) :
    KeptO s0 (execReservedOpcode d s) := by
  simp (maxDischargeDepth := 30) +contextual [execReservedOpcode, h]

end Sys2Proof.Machine
end

