-- ==== Sys2Proof/Laws/KeptSearch.lean ====
section
/-! SUPPORT. What the operations of Search.lean keep. -/

namespace Sys2Proof.Machine

@[simp] theorem askShards_kept {s0 s : State} (h : Kept s0 s) (num : Nat) (x : Search) (p : PitSec) :
    Kept s0 (askShards s num x p) := by
  unfold askShards
  try simp only []
  repeat' split
  all_goals simp (maxDischargeDepth := 30) +contextual [h]
@[simp] theorem startSearch_kept {s0 s : State} (h : Kept s0 s) (num : Nat) (x : Search) (p : PitSec) :
    Kept s0 (startSearch s num x p) := by
  simp (maxDischargeDepth := 30) +contextual [startSearch, h]
@[simp] theorem opSearchStart_kept {s0 s : State} (h : Kept s0 s) (claim : Nat) :
    Kept s0 (opSearchStart claim s) := by
  unfold opSearchStart
  try simp only []
  repeat' split
  all_goals simp (maxDischargeDepth := 30) +contextual [h]
@[simp] theorem execSearchStart_kept {s0 s : State} (h : Kept s0 s) (claim : Nat) :
    KeptO s0 (execSearchStart claim s) := by
  simp (maxDischargeDepth := 30) +contextual [execSearchStart, h]
@[simp] theorem countRound_kept {s0 s : State} (h : Kept s0 s) (c : Nat) (p : Nat) (e : Nat) (ev : RoundEv) :
    Kept s0 (countRound s c p e ev) := by
  simp (maxDischargeDepth := 30) +contextual [countRound, h]
@[simp] theorem opStrandRound_kept {s0 s : State} (h : Kept s0 s) (search : Nat) (strand : Nat) :
    Kept s0 (opStrandRound search strand s) := by
  unfold opStrandRound
  try simp only []
  repeat' split
  all_goals simp (maxDischargeDepth := 30) +contextual [h]
@[simp] theorem execStrandRound_kept {s0 s : State} (h : Kept s0 s) (search : Nat) (strand : Nat) :
    KeptO s0 (execStrandRound search strand s) := by
  simp (maxDischargeDepth := 30) +contextual [execStrandRound, h]
@[simp] theorem opStrandHandoff_kept {s0 s : State} (h : Kept s0 s) (search : Nat) (strand : Nat) :
    Kept s0 (opStrandHandoff search strand s) := by
  unfold opStrandHandoff
  try simp only []
  repeat' split
  all_goals simp (maxDischargeDepth := 30) +contextual [h]
@[simp] theorem execStrandHandoff_kept {s0 s : State} (h : Kept s0 s) (search : Nat) (strand : Nat) :
    KeptO s0 (execStrandHandoff search strand s) := by
  simp (maxDischargeDepth := 30) +contextual [execStrandHandoff, h]
@[simp] theorem opLabelScan_kept {s0 s : State} (h : Kept s0 s) (search : Nat) (channel : Nat) :
    Kept s0 (opLabelScan search channel s) := by
  unfold opLabelScan
  try simp only []
  repeat' split
  all_goals simp (maxDischargeDepth := 30) +contextual [h]
@[simp] theorem execLabelScan_kept {s0 s : State} (h : Kept s0 s) (search : Nat) (channel : Nat) :
    KeptO s0 (execLabelScan search channel s) := by
  simp (maxDischargeDepth := 30) +contextual [execLabelScan, h]
@[simp] theorem noteList_kept {s0 s : State} (h : Kept s0 s) (n : Nat) (flags : Nat) (ties : Nat) (dups : Nat) (visited : Nat) (short : Bool) :
    Kept s0 (noteList s n flags ties dups visited short) := by
  simp (maxDischargeDepth := 30) +contextual [noteList, h]
@[simp] theorem setCur_kept {s0 s : State} (h : Kept s0 s) (n : Nat) (l : RList) :
    Kept s0 (setCur s n l) := by
  simp (maxDischargeDepth := 30) +contextual [setCur, h]
@[simp] theorem opSearchMerge_kept {s0 s : State} (h : Kept s0 s) (search : Nat) :
    Kept s0 (opSearchMerge search s) := by
  unfold opSearchMerge
  try simp only []
  repeat' split
  all_goals simp (maxDischargeDepth := 30) +contextual [h]
@[simp] theorem execSearchMerge_kept {s0 s : State} (h : Kept s0 s) (search : Nat) :
    KeptO s0 (execSearchMerge search s) := by
  simp (maxDischargeDepth := 30) +contextual [execSearchMerge, h]

end Sys2Proof.Machine
end

