-- ==== Sys2Proof/Laws/KeptEngineSteps.lean ====
section
/-! SUPPORT. What the operations of EngineSteps.lean keep. -/

namespace Sys2Proof.Machine

@[simp] theorem modelGate_kept {s0 s : State} (h : Kept s0 s) (n : Nat) (c : Nat) (m : Nat) :
    Kept s0 (modelGate s n c m).1 := by
  unfold modelGate
  try simp only []
  repeat' split
  all_goals simp (maxDischargeDepth := 30) +contextual [h]
@[simp] theorem fetchAll_kept {s0 s : State} (h : Kept s0 s) (n : Nat) (i : Nat) (kind : Nat) (obj : Nat) (r : Req) (es : List ListEnt) :
    Kept s0 (fetchAll s n i kind obj r es).1 := by
  unfold fetchAll
  try simp only []
  repeat' split
  all_goals simp (maxDischargeDepth := 30) +contextual [h]
@[simp] theorem runGate_kept {s0 s : State} (h : Kept s0 s) (n : Nat) (c : Nat) (mi : Nat) (m : ModelSec) (toks : List Nat) :
    Kept s0 (runGate s n c mi m toks).1 := by
  unfold runGate
  try simp only []
  repeat' split
  all_goals simp (maxDischargeDepth := 30) +contextual [h]
@[simp] theorem runModel_kept {s0 s : State} (h : Kept s0 s) (n : Nat) (c : Nat) (mi : Nat) (m : ModelSec) (toks : List Nat) :
    Kept s0 (runModel s n c mi m toks) := by
  simp (maxDischargeDepth := 30) +contextual [runModel, h]
@[simp] theorem endBadSram_kept {s0 s : State} (h : Kept s0 s) (n : Nat) (c : Nat) (cls : Nat) :
    Kept s0 (endBadSram s n c cls) := by
  simp (maxDischargeDepth := 30) +contextual [endBadSram, h]
@[simp] theorem opTokenizeStep_kept {s0 s : State} (h : Kept s0 s) (slot : BitVec 16) (step : Nat) (input : List Byte) :
    Kept s0 (opTokenizeStep slot step input s) := by
  unfold opTokenizeStep
  try simp only []
  repeat' split
  all_goals simp (maxDischargeDepth := 30) +contextual [h]
@[simp] theorem execTokenizeStep_kept {s0 s : State} (h : Kept s0 s) (slot : BitVec 16) (step : Nat) (input : List Byte) :
    KeptO s0 (execTokenizeStep slot step input s) := by
  simp (maxDischargeDepth := 30) +contextual [execTokenizeStep, h]
@[simp] theorem opEncodeStep_kept {s0 s : State} (h : Kept s0 s) (slot : BitVec 16) (step : Nat) (states : List (List B16)) (order : List Nat) :
    Kept s0 (opEncodeStep slot step states order s) := by
  unfold opEncodeStep
  try simp only []
  repeat' split
  all_goals simp (maxDischargeDepth := 30) +contextual [h]
@[simp] theorem execEncodeStep_kept {s0 s : State} (h : Kept s0 s) (slot : BitVec 16) (step : Nat) (run : EncodeRun) :
    KeptO s0 (execEncodeStep slot step run s) := by
  simp (maxDischargeDepth := 30) +contextual [execEncodeStep, h]
@[simp] theorem gatherRows_kept {s0 s : State} (h : Kept s0 s) (n : Nat) (c : Nat) (l : Nat) (es : List ListEnt) :
    Kept s0 (gatherRows s n c l es).2 := by
  simp (maxDischargeDepth := 30) +contextual [gatherRows, h]
@[simp] theorem gatherPolicy_kept {s0 s : State} (h : Kept s0 s) (n : Nat) (c : Nat) (tenant : Nat) (p : Option Nat) :
    Kept s0 (gatherPolicy s n c tenant p).2 := by
  unfold gatherPolicy
  try simp only []
  repeat' split
  all_goals simp (maxDischargeDepth := 30) +contextual [h]
@[simp] theorem opFeaturesStep_kept {s0 s : State} (h : Kept s0 s) (slot : BitVec 16) (step : Nat) :
    Kept s0 (opFeaturesStep slot step s) := by
  unfold opFeaturesStep
  try simp only []
  repeat' split
  all_goals simp (maxDischargeDepth := 30) +contextual [h]
@[simp] theorem execFeaturesStep_kept {s0 s : State} (h : Kept s0 s) (slot : BitVec 16) (step : Nat) :
    KeptO s0 (execFeaturesStep slot step s) := by
  simp (maxDischargeDepth := 30) +contextual [execFeaturesStep, h]
@[simp] theorem noteCut_kept {s0 s : State} (h : Kept s0 s) (n : Nat) (keep : Nat) (l : RList) (ties : Nat) :
    Kept s0 (noteCut s n keep l ties) := by
  simp (maxDischargeDepth := 30) +contextual [noteCut, h]
@[simp] theorem opAssay1Step_kept {s0 s : State} (h : Kept s0 s) (slot : BitVec 16) (step : Nat) :
    Kept s0 (opAssay1Step slot step s) := by
  unfold opAssay1Step
  try simp only []
  repeat' split
  all_goals simp (maxDischargeDepth := 30) +contextual [h]
@[simp] theorem execAssay1Step_kept {s0 s : State} (h : Kept s0 s) (slot : BitVec 16) (step : Nat) :
    KeptO s0 (execAssay1Step slot step s) := by
  simp (maxDischargeDepth := 30) +contextual [execAssay1Step, h]
@[simp] theorem sendHits_kept {s0 s : State} (h : Kept s0 s) (n : Nat) (i : Nat) (r : Req) (l : Nat) (el : Nat) (es : List ListEnt) :
    Kept s0 (sendHits s n i r l el es) := by
  unfold sendHits
  try simp only []
  repeat' split
  all_goals simp (maxDischargeDepth := 30) +contextual [h]
@[simp] theorem opAssay2Step_kept {s0 s : State} (h : Kept s0 s) (slot : BitVec 16) (step : Nat) (logits : List F32) :
    Kept s0 (opAssay2Step slot step logits s) := by
  unfold opAssay2Step
  try simp only []
  repeat' split
  all_goals simp (maxDischargeDepth := 30) +contextual [h]
@[simp] theorem execAssay2Step_kept {s0 s : State} (h : Kept s0 s) (slot : BitVec 16) (step : Nat) (logits : List F32) :
    KeptO s0 (execAssay2Step slot step logits s) := by
  simp (maxDischargeDepth := 30) +contextual [execAssay2Step, h]
@[simp] theorem packDone_kept {s0 s : State} (h : Kept s0 s) (n : Nat) (step : Nat) (history : List Nat) (ts : List Nat) (ps : Packed) (keep : Nat) :
    Kept s0 (packDone s n step history ts ps keep) := by
  simp (maxDischargeDepth := 30) +contextual [packDone, h]
@[simp] theorem opPackStep_kept {s0 s : State} (h : Kept s0 s) (slot : BitVec 16) (step : Nat) (history : List Byte) :
    Kept s0 (opPackStep slot step history s) := by
  unfold opPackStep
  try simp only []
  repeat' split
  all_goals simp (maxDischargeDepth := 30) +contextual [h]
@[simp] theorem execPackStep_kept {s0 s : State} (h : Kept s0 s) (slot : BitVec 16) (step : Nat) (history : List Byte) :
    KeptO s0 (execPackStep slot step history s) := by
  simp (maxDischargeDepth := 30) +contextual [execPackStep, h]
@[simp] theorem opWriteResultStep_kept {s0 s : State} (h : Kept s0 s) (slot : BitVec 16) (step : Nat) :
    Kept s0 (opWriteResultStep slot step s) := by
  unfold opWriteResultStep
  try simp only []
  repeat' split
  all_goals simp (maxDischargeDepth := 30) +contextual [h]
@[simp] theorem execWriteResultStep_kept {s0 s : State} (h : Kept s0 s) (slot : BitVec 16) (step : Nat) :
    KeptO s0 (execWriteResultStep slot step s) := by
  simp (maxDischargeDepth := 30) +contextual [execWriteResultStep, h]

end Sys2Proof.Machine
end

