-- ==== Sys2Proof/Laws/KeptGenerate.lean ====
section
/-! SUPPORT. What the operations of Generate.lean keep. -/

namespace Sys2Proof.Machine

@[simp] theorem markSeq_kept {s0 s : State} (h : Kept s0 s) (n : Nat) (r : Req) (draft : Bool) (lo : Nat) (hi : Nat) :
    Kept s0 (markSeq s n r draft lo hi) := by
  simp (maxDischargeDepth := 30) +contextual [markSeq, h]
@[simp] theorem markChunk_kept {s0 s : State} (h : Kept s0 s) (n : Nat) (r : Req) (lo : Nat) (hi : Nat) :
    Kept s0 (markChunk s n r lo hi) := by
  simp (maxDischargeDepth := 30) +contextual [markChunk, h]
@[simp] theorem newPages_kept {s0 s : State} (h : Kept s0 s) (n : Nat) (ks : List PageKey) :
    Kept s0 (newPages s n ks) := by
  simp (maxDischargeDepth := 30) +contextual [newPages, h]
@[simp] theorem writePages_kept {s0 s : State} (h : Kept s0 s) (n : Nat) (ks : List PageKey) :
    Kept s0 (writePages s n ks).1 := by
  simp (maxDischargeDepth := 30) +contextual [writePages, h]
@[simp] theorem lookUps_kept {s0 s : State} (h : Kept s0 s) (c : Nat) (slot : Option Nat) (ls : List (Nat × List Nat)) :
    Kept s0 (lookUps s c slot ls) := by
  simp (maxDischargeDepth := 30) +contextual [lookUps, h]
@[simp] theorem modelsReady_kept {s0 s : State} (h : Kept s0 s) (n : Nat) (r : Req) :
    Kept s0 (modelsReady s n r).1 := by
  unfold modelsReady
  try simp only []
  repeat' split
  all_goals simp (maxDischargeDepth := 30) +contextual [h]
@[simp] theorem opKvReservationGrant_kept {s0 s : State} (h : Kept s0 s) (claim : Nat) :
    Kept s0 (opKvReservationGrant claim s) := by
  unfold opKvReservationGrant
  try simp only []
  repeat' split
  all_goals simp (maxDischargeDepth := 30) +contextual [h]
@[simp] theorem execKvReservationGrant_kept {s0 s : State} (h : Kept s0 s) (claim : Nat) :
    KeptO s0 (execKvReservationGrant claim s) := by
  simp (maxDischargeDepth := 30) +contextual [execKvReservationGrant, h]
@[simp] theorem writeLayer_kept {s0 s : State} (h : Kept s0 s) (n : Nat) (r : Req) (m : ModelSec) (layer : Nat) (lo : Nat) (hi : Nat) (kv : List KvRow) :
    Kept s0 (writeLayer s n r m layer lo hi kv) := by
  simp (maxDischargeDepth := 30) +contextual [writeLayer, h]
@[simp] theorem writeRows_kept {s0 s : State} (h : Kept s0 s) (n : Nat) (r : Req) (draft : Bool) (lo : Nat) (hi : Nat) (kv : List KvRow) :
    Kept s0 (writeRows s n r draft lo hi kv) := by
  unfold writeRows
  try simp only []
  repeat' split
  all_goals simp (maxDischargeDepth := 30) +contextual [h]
@[simp] theorem tailCopy_kept {s0 s : State} (h : Kept s0 s) (n : Nat) (r : Req) :
    Kept s0 (tailCopy s n r) := by
  unfold tailCopy
  try simp only []
  repeat' first
    | assumption
    | (intro _)
    | (simp only [])
    | (simp (maxDischargeDepth := 30) +contextual [*]; done)
    | split
    | apply kept_foldl
    | apply kept_foldl_fst
    | apply kept_foldl_snd
    | apply modPage_kept
    | (simp only [kept_mk, kept_fold])
@[simp] theorem fireChunk_kept {s0 s : State} (h : Kept s0 s) (n : Nat) (i : Nat) (r : Req) (lo : Nat) (hi : Nat) (g : ModelSec) :
    Kept s0 (fireChunk s n i r lo hi g) := by
  simp (maxDischargeDepth := 30) +contextual [fireChunk, h]
@[simp] theorem opPrefillChunk_kept {s0 s : State} (h : Kept s0 s) (slot : BitVec 16) (kv : List KvRow) :
    Kept s0 (opPrefillChunk slot kv s) := by
  unfold opPrefillChunk
  try simp only []
  repeat' split
  all_goals simp (maxDischargeDepth := 30) +contextual [h]
@[simp] theorem execPrefillChunk_kept {s0 s : State} (h : Kept s0 s) (run : ChunkRun) :
    KeptO s0 (execPrefillChunk run s) := by
  simp (maxDischargeDepth := 30) +contextual [execPrefillChunk, h]
@[simp] theorem dropAbove_kept {s0 s : State} (h : Kept s0 s) (n : Nat) (r : Req) (c : Nat) :
    Kept s0 (dropAbove s n r c) := by
  simp (maxDischargeDepth := 30) +contextual [dropAbove, h]
@[simp] theorem mergeHead_kept {s0 s : State} (h : Kept s0 s) (n : Nat) (r : Req) (m : ModelSec) (layer : Nat) (head : Nat) (pos : Nat) (q : List F32) (dims : List Nat) (parts : List (Nat × List Nat)) :
    Kept s0 (mergeHead s n r m layer head pos q dims parts) := by
  simp (maxDischargeDepth := 30) +contextual [mergeHead, h]
@[simp] theorem opAttentionPartialMerge_kept {s0 s : State} (h : Kept s0 s) (slot : BitVec 16) (layer : Nat) (head : Nat) (pos : Nat) (q : List F32) (kv : List KvRow) (dims : List Nat) (parts : List (Nat × List Nat)) :
    Kept s0 (opAttentionPartialMerge slot layer head pos q kv dims parts s) := by
  unfold opAttentionPartialMerge
  try simp only []
  repeat' split
  all_goals simp (maxDischargeDepth := 30) +contextual [h]
@[simp] theorem execAttentionPartialMerge_kept {s0 s : State} (h : Kept s0 s) (slot : BitVec 16) (run : AttnRun) :
    KeptO s0 (execAttentionPartialMerge slot run s) := by
  simp (maxDischargeDepth := 30) +contextual [execAttentionPartialMerge, h]
@[simp] theorem fireTokens_kept {s0 s : State} (h : Kept s0 s) (n : Nat) (i : Nat) (r : Req) (g : ModelSec) (ds : List DrawRes) (logits : List (List F32)) (k : Nat) :
    Kept s0 (fireTokens s n i r g ds logits k) := by
  simp (maxDischargeDepth := 30) +contextual [fireTokens, h]
@[simp] theorem countStep_kept {s0 s : State} (h : Kept s0 s) (c : Nat) (hasGrammar : Bool) (ds : List DrawRes) (drafted : Nat) (accepted : Nat) :
    Kept s0 (countStep s c hasGrammar ds drafted accepted) := by
  simp (maxDischargeDepth := 30) +contextual [countStep, h]
@[simp] theorem endDead_kept {s0 s : State} (h : Kept s0 s) (n : Nat) (d : Nat) :
    Kept s0 (endDead s n d) := by
  simp (maxDischargeDepth := 30) +contextual [endDead, h]
@[simp] theorem commitStep_kept {s0 s : State} (h : Kept s0 s) (n : Nat) (i : Nat) (r : Req) (m : ModelSec) (v : VocabSec) (res : StepRes) (gen : List (List F32)) :
    Kept s0 (commitStep s n i r m v res gen) := by
  unfold commitStep
  try simp only []
  repeat' split
  all_goals simp (maxDischargeDepth := 30) +contextual [h]
@[simp] theorem opVerifyStep_kept {s0 s : State} (h : Kept s0 s) (slot : BitVec 16) (group : List (BitVec 16)) (draft : List (List F32)) (gen : List (List F32)) (kv : List KvRow) :
    Kept s0 (opVerifyStep slot group draft gen kv s) := by
  unfold opVerifyStep
  try simp only []
  repeat' split
  all_goals simp (maxDischargeDepth := 30) +contextual [h]
@[simp] theorem execVerifyStep_kept {s0 s : State} (h : Kept s0 s) (run : VerifyRun) (draft gen : List (List F32)) :
    KeptO s0 (execVerifyStep run draft gen s) := by
  simp (maxDischargeDepth := 30) +contextual [execVerifyStep, h]
@[simp] theorem finishGenerate_kept {s0 s : State} (h : Kept s0 s) (n : Nat) (i : Nat) (r : Req) (stop : Option Nat) :
    Kept s0 (finishGenerate s n i r stop) := by
  unfold finishGenerate
  try simp only []
  repeat' split
  all_goals simp (maxDischargeDepth := 30) +contextual [h]
@[simp] theorem opDetokenizeBatch_kept {s0 s : State} (h : Kept s0 s) (slot : BitVec 16) :
    Kept s0 (opDetokenizeBatch slot s) := by
  unfold opDetokenizeBatch
  try simp only []
  repeat' split
  all_goals simp (maxDischargeDepth := 30) +contextual [h]
@[simp] theorem execDetokenizeBatch_kept {s0 s : State} (h : Kept s0 s) (slot : BitVec 16) :
    KeptO s0 (execDetokenizeBatch slot s) := by
  simp (maxDischargeDepth := 30) +contextual [execDetokenizeBatch, h]
@[simp] theorem opStreamShaperGrant_kept {s0 s : State} (h : Kept s0 s) (slot : BitVec 16) :
    Kept s0 (opStreamShaperGrant slot s) := by
  unfold opStreamShaperGrant
  try simp only []
  repeat' split
  all_goals simp (maxDischargeDepth := 30) +contextual [h]
@[simp] theorem execStreamShaperGrant_kept {s0 s : State} (h : Kept s0 s) (slot : BitVec 16) :
    KeptO s0 (execStreamShaperGrant slot s) := by
  simp (maxDischargeDepth := 30) +contextual [execStreamShaperGrant, h]
@[simp] theorem opStagingBufferGrant_kept {s0 s : State} (h : Kept s0 s) (claim : Nat) :
    Kept s0 (opStagingBufferGrant claim s) := by
  unfold opStagingBufferGrant
  try simp only []
  repeat' split
  all_goals simp (maxDischargeDepth := 30) +contextual [h]
@[simp] theorem execStagingBufferGrant_kept {s0 s : State} (h : Kept s0 s) (claim : Nat) :
    KeptO s0 (execStagingBufferGrant claim s) := by
  simp (maxDischargeDepth := 30) +contextual [execStagingBufferGrant, h]

end Sys2Proof.Machine
end

