-- ==== Sys2Proof/Laws/KeptObjects.lean ====
section
/-! SUPPORT. What the operations of Objects.lean keep. -/

namespace Sys2Proof.Machine

@[simp] theorem opPrefixCreate_kept {s0 s : State} (h : Kept s0 s) (d : Desc) (tokens : List Byte) :
    Kept s0 (opPrefixCreate d tokens s) := by
  unfold opPrefixCreate
  try simp only []
  repeat' first
    | assumption
    | (intro _)
    | (simp only [])
    | (simp (maxDischargeDepth := 30) +contextual [*]; done)
    | split
    | apply kept_foldl
    | apply kept_foldl_fst
    | apply kept_foldl_snd
    | apply plainCommand_kept
    | apply bad_kept
    | apply done_kept
    | apply modAdapter_kept
    | apply createPage_kept
    | (simp only [kept_mk, kept_fold])
@[simp] theorem execPrefixCreate_kept {s0 s : State} (h : Kept s0 s) (d : Desc) (tokens : List Byte) :
    KeptO s0 (execPrefixCreate d tokens s) := by
  simp (maxDischargeDepth := 30) +contextual [execPrefixCreate, h]
@[simp] theorem endCreate_kept {s0 s : State} (h : Kept s0 s) (x : Cmd) (status : Nat) :
    Kept s0 (endCreate s x status) := by
  unfold endCreate
  try simp only []
  repeat' split
  all_goals simp (maxDischargeDepth := 30) +contextual [h]
@[simp] theorem writePrefix_kept {s0 s : State} (h : Kept s0 s) (c : Nat) (m : Nat) (h : Nat) (len : Nat) (kv : List KvRow) :
    Kept s0 (writePrefix s c m h len kv) := by
  unfold writePrefix
  try simp only []
  repeat' first
    | assumption
    | (intro _)
    | (simp only [])
    | (simp (maxDischargeDepth := 30) +contextual [*]; done)
    | split
    | apply kept_foldl
    | apply kept_foldl_fst
    | apply kept_foldl_snd
    | apply modPage_kept
    | (simp only [kept_mk, kept_fold])
@[simp] theorem commandPages_kept {s0 s : State} (h : Kept s0 s) (o : Origin) (ks : List PageKey) :
    Kept s0 (commandPages s o ks).1 := by
  simp (maxDischargeDepth := 30) +contextual [commandPages, h]
@[simp] theorem buildPrefix_kept {s0 s : State} (h : Kept s0 s) (c : Nat) (m : Nat) (h : Nat) (len : Nat) :
    Kept s0 (buildPrefix s c m h len) := by
  unfold buildPrefix
  try simp only []
  repeat' split
  all_goals first | (simp (maxDischargeDepth := 30) +contextual [h]; done) | (simp_all (maxDischargeDepth := 30); done)
@[simp] theorem opPrefixPrefillDone_kept {s0 s : State} (h : Kept s0 s) (handle : W64) (kv : List KvRow) :
    Kept s0 (opPrefixPrefillDone handle kv s) := by
  unfold opPrefixPrefillDone
  try simp only []
  repeat' split
  all_goals simp (maxDischargeDepth := 30) +contextual [h]
@[simp] theorem execPrefixPrefillDone_kept {s0 s : State} (h : Kept s0 s) (fill : PrefixFill) :
    KeptO s0 (execPrefixPrefillDone fill s) := by
  simp (maxDischargeDepth := 30) +contextual [execPrefixPrefillDone, h]
@[simp] theorem opPrefixRelease_kept {s0 s : State} (h : Kept s0 s) (d : Desc) : Kept s0 (opPrefixRelease d s) := by
  refine plainCommand_kept h d _ _ _ (fun t o l ht => ?_)
  dsimp only
  split
  · exact bad_kept ht _ _
  · exact settlePages_kept (done_kept (unrefPrefix_kept (by simp [ht]) _) _ _ _)
@[simp] theorem execPrefixRelease_kept {s0 s : State} (h : Kept s0 s) (d : Desc) :
    KeptO s0 (execPrefixRelease d s) := by
  simp (maxDischargeDepth := 30) +contextual [execPrefixRelease, h]
@[simp] theorem opAdapterPublish_kept {s0 s : State} (h : Kept s0 s) (d : Desc) (header : List Byte) :
    Kept s0 (opAdapterPublish d header s) := by
  unfold opAdapterPublish
  try simp only []
  repeat' first
    | assumption
    | (intro _)
    | (simp only [])
    | (simp (maxDischargeDepth := 30) +contextual [*]; done)
    | split
    | apply kept_foldl
    | apply kept_foldl_fst
    | apply kept_foldl_snd
    | apply plainCommand_kept
    | apply bad_kept
    | apply done_kept
    | apply createPage_kept
    | (simp only [kept_mk, kept_fold])
@[simp] theorem execAdapterPublish_kept {s0 s : State} (h : Kept s0 s) (d : Desc) (header : List Byte) :
    KeptO s0 (execAdapterPublish d header s) := by
  simp (maxDischargeDepth := 30) +contextual [execAdapterPublish, h]
@[simp] theorem notCurrent_kept {s0 s : State} (h : Kept s0 s) (h : Nat) :
    Kept s0 (notCurrent s h) := by
  unfold notCurrent
  try simp only []
  repeat' split
  all_goals first | (simp (maxDischargeDepth := 30) +contextual [h]; done) | (simp_all (maxDischargeDepth := 30); done)
@[simp] theorem opAdapterLoadDone_kept {s0 s : State} (h : Kept s0 s) (handle : W32) (image : List Byte) :
    Kept s0 (opAdapterLoadDone handle image s) := by
  unfold opAdapterLoadDone
  try simp only []
  repeat' split
  all_goals simp (maxDischargeDepth := 30) +contextual [h]
@[simp] theorem execAdapterLoadDone_kept {s0 s : State} (h : Kept s0 s) (adapter : AdapterImage) :
    KeptO s0 (execAdapterLoadDone adapter s) := by
  simp (maxDischargeDepth := 30) +contextual [execAdapterLoadDone, h]
@[simp] theorem opAdapterWithdraw_kept {s0 s : State} (h : Kept s0 s) (d : Desc) :
    Kept s0 (opAdapterWithdraw d s) := by
  unfold opAdapterWithdraw
  try simp only []
  repeat' first
    | assumption
    | (intro _)
    | (simp only [])
    | (simp (maxDischargeDepth := 30) +contextual [*]; done)
    | split
    | apply kept_foldl
    | apply kept_foldl_fst
    | apply kept_foldl_snd
    | apply plainCommand_kept
    | apply bad_kept
    | apply notCurrent_kept
    | apply doneWith_kept
    | apply commitReq_kept
    | apply endCreate_kept
    | (simp only [kept_mk, kept_fold])
@[simp] theorem execAdapterWithdraw_kept {s0 s : State} (h : Kept s0 s) (d : Desc) :
    KeptO s0 (execAdapterWithdraw d s) := by
  simp (maxDischargeDepth := 30) +contextual [execAdapterWithdraw, h]

end Sys2Proof.Machine
end

