-- ==== Sys2Proof/Laws/KeptHeadframe.lean ====
section
/-! SUPPORT. What the operations of Headframe.lean keep. -/

namespace Sys2Proof.Machine

@[simp] theorem extendLog_kept {s0 s : State} (h : Kept s0 s) (typ claim arg0 arg1 : Nat) (digest : List Byte) :
    Kept s0 (extendLog s typ claim arg0 arg1 digest) := by
  refine ⟨h.1, fun i => ?_⟩
  obtain ⟨⟨i1, i2, i3, i4, i5, ⟨i6, i7⟩, i8⟩, g⟩ := h.2 i
  refine ⟨⟨i1, i2, i3, i4, i5, ⟨?_, ?_⟩, i8⟩, g⟩
  · simp only [extendLog, List.length_drop]; omega
  · simp only [extendLog, List.length_drop, List.length_append, List.length_singleton]; omega
@[simp] theorem modDomain_kept {s0 s : State} (h : Kept s0 s) (d : Nat) (f : Domain → Domain) :
    Kept s0 (modDomain s d f) := by
  simp (maxDischargeDepth := 30) +contextual [modDomain, h]
@[simp] theorem switchDomain_kept {s0 s : State} (h : Kept s0 s) (p : Nat × Bool) :
    Kept s0 (switchDomain s p) := by
  simp (maxDischargeDepth := 30) +contextual [switchDomain, h]
@[simp] theorem switchGroup_kept {s0 s : State} (h : Kept s0 s) :
    Kept s0 (switchGroup s) := by
  simp (maxDischargeDepth := 30) +contextual [switchGroup, h]
@[simp] theorem switchDomains_kept {s0 s : State} (h : Kept s0 s) (ds : List (Nat × Bool)) :
    Kept s0 (switchDomains s ds) := by
  simp (maxDischargeDepth := 30) +contextual [switchDomains, h]
@[simp] theorem shed_kept {s0 s : State} (h : Kept s0 s) : Kept s0 (shed s) := by
  refine ⟨h.1, fun i => ?_⟩
  obtain ⟨⟨i1, i2, i3, ⟨i4, i5⟩, i6⟩, g⟩ := h.2 i
  refine ⟨⟨i1, i2, Nat.zero_le _, ⟨by simp [shed, i4], fun x hx => ?_⟩, i6⟩, g⟩
  simp only [shed, List.mem_map] at hx
  obtain ⟨y, -, e⟩ := hx
  exact e ▸ Nat.zero_le _
@[simp] theorem joinSpares_kept {s0 s : State} (h : Kept s0 s) :
    Kept s0 (joinSpares s) := by
  simp (maxDischargeDepth := 30) +contextual [joinSpares, h]
@[simp] theorem retire_kept {s0 s : State} (h : Kept s0 s) (u : UnitId) : Kept s0 (retire s u) := by
  unfold retire
  split
  · exact h
  · refine ⟨h.1, fun i => ?_⟩
    obtain ⟨i1, g1, g2, g3, g4⟩ := h.2 i
    exact ⟨i1, g1, g2, g3, fun x hx => List.mem_append_left _ (g4 x hx)⟩
@[simp] theorem flushDies_kept {s0 s : State} (h : Kept s0 s) (ok : Bool) :
    Kept s0 (flushDies s ok) := by
  simp (maxDischargeDepth := 30) +contextual [flushDies, h]
@[simp] theorem moduleFatal_kept {s0 s : State} (h : Kept s0 s) (cause : Nat) (u : Option UnitId) :
    Kept s0 (moduleFatal s cause u) := by
  simp (maxDischargeDepth := 30) +contextual [moduleFatal, h]
@[simp] theorem resend_kept {s0 s : State} (h : Kept s0 s) (c : Nat) (peer : Nat) (m : SentMsg) :
    Kept s0 (resend s c peer m) := by
  unfold resend
  try simp only []
  repeat' split
  all_goals simp (maxDischargeDepth := 30) +contextual [h]
@[simp] theorem resendFrom_kept {s0 s : State} (h : Kept s0 s) (l : Nat) :
    Kept s0 (resendFrom s l) := by
  unfold resendFrom
  try simp only []
  repeat' split
  all_goals simp (maxDischargeDepth := 30) +contextual [h]
@[simp] theorem linkDown_kept {s0 s : State} (h : Kept s0 s) (l st : Nat) (hst : st ≤ 6) : Kept s0 (linkDown s l st) := by
  unfold linkDown
  simp only []
  split
  · simp (maxDischargeDepth := 30) +contextual [h, hst]
  · simp (maxDischargeDepth := 30) +contextual [h, hst]
@[simp] theorem sendWaiting_kept {s0 s : State} (h : Kept s0 s) (c peer : Nat) : Kept s0 (sendWaiting s c peer) :=
  kept_foldl _ _ h fun _ m ht => resend_kept ht c peer m
@[simp] theorem linkIsUp_kept {s0 s : State} (h : Kept s0 s) (l : Nat) :
    Kept s0 (linkIsUp s l) := by
  unfold linkIsUp
  split
  · simp (maxDischargeDepth := 30) [h]
  · exact h
@[simp] theorem dropRemote_kept {s0 s : State} (h : Kept s0 s) (c : Nat) (p : RemoteWork → Bool) :
    Kept s0 (dropRemote s c p) := by
  simp (maxDischargeDepth := 30) +contextual [dropRemote, h]
@[simp] theorem peerLost_kept {s0 s : State} (h : Kept s0 s) (c : Nat) (peer : Nat) :
    Kept s0 (peerLost s c peer) := by
  simp (maxDischargeDepth := 30) +contextual [peerLost, h]
@[simp] theorem audit_kept {s0 s : State} (h : Kept s0 s) (u : UnitId) :
    Kept s0 (audit s u) := by
  simp (maxDischargeDepth := 30) +contextual [audit, h]
@[simp] theorem fencePage_kept {s0 s : State} (h : Kept s0 s) (q : PageKey × Page) :
    Kept s0 (fencePage s q) := by
  simp (maxDischargeDepth := 30) +contextual [fencePage, h]
@[simp] theorem fenceLode_kept {s0 s : State} (h : Kept s0 s) (l : Nat) :
    Kept s0 (fenceLode s l) := by
  simp (maxDischargeDepth := 30) +contextual [fenceLode, h]
@[simp] theorem recheck_kept {s0 s : State} (h : Kept s0 s) (fuel : Nat) (c : Nat) (detail : Nat) :
    Kept s0 (recheck fuel s c detail) := by
  induction fuel generalizing s with
  | zero => simp [recheck, h]
  | succ fuel ih =>
    unfold recheck
    try simp only []
    repeat' split
    all_goals simp (maxDischargeDepth := 30) +contextual [h, ih]
@[simp] theorem dropPeerWork_kept {s0 s : State} (h : Kept s0 s) (u : UnitId) :
    Kept s0 (dropPeerWork s u) := by
  simp (maxDischargeDepth := 30) +contextual [dropPeerWork, h]
@[simp] theorem dropPort_kept {s0 s : State} (h : Kept s0 s) (u : UnitId) :
    Kept s0 (dropPort s u) := by
  simp (maxDischargeDepth := 30) +contextual [dropPort, h]
@[simp] theorem fenceUnit_kept {s0 s : State} (h : Kept s0 s) (u : UnitId) (cause : Nat) :
    Kept s0 (fenceUnit s u cause) := by
  unfold fenceUnit
  try simp only []
  repeat' split
  all_goals simp (maxDischargeDepth := 30) +contextual [h]
@[simp] theorem moveRoster_kept {s0 s : State} (h : Kept s0 s) (k : RUnit) (r : RosterRun) (i : Nat) :
    Kept s0 (moveRoster s k r i) := by
  simp (maxDischargeDepth := 30) +contextual [moveRoster, h]
@[simp] theorem takePlace_kept {s0 s : State} (h : Kept s0 s) (c : Nat) (u : UnitId) (i : Nat) : Kept s0 (takePlace s c u i) := by
  unfold takePlace
  extract_lets s1
  have h1 : Kept s0 s1 := kept_foldl _ _ h fun _ p ht => moveRoster_kept ht p.1 p.2 i
  repeat' split
  all_goals simp (maxDischargeDepth := 30) [h1]
@[simp] theorem replaceUnit_kept {s0 s : State} (h : Kept s0 s) (u : UnitId) :
    Kept s0 (replaceUnit s u) := by
  unfold replaceUnit
  split
  · exact fenceUnit_kept h u 4
  · exact takePlace_kept (by simp (maxDischargeDepth := 30) [h]) _ _ _

end Sys2Proof.Machine
end

