-- ==== Sys2Proof/Laws/KeptClock.lean ====
section
/-! SUPPORT. What the operations of Clock.lean keep. -/

namespace Sys2Proof.Machine

@[simp] theorem passTime_kept {s0 s : State} (h : Kept s0 s) (u : UnitTime) :
    Kept s0 (passTime s u).2 := by
  simp (maxDischargeDepth := 30) +contextual [passTime, h]
@[simp] theorem passUnit_kept {s0 s : State} (h : Kept s0 s) (k : RUnit) :
    Kept s0 (passUnit s k) := by
  simp (maxDischargeDepth := 30) +contextual [passUnit, h]
@[simp] theorem passWait_kept {s0 s : State} (h : Kept s0 s) (c : Nat) :
    Kept s0 (passWait s c) := by
  simp (maxDischargeDepth := 30) +contextual [passWait, h]
@[simp] theorem passAll_kept {s0 s : State} (h : Kept s0 s) :
    Kept s0 (passAll s) := by
  simp (maxDischargeDepth := 30) +contextual [passAll, h]
@[simp] theorem passClock_kept {s0 s : State} (h : Kept s0 s) :
    Kept s0 (passClock s) := by
  simp (maxDischargeDepth := 30) +contextual [passClock, h]
@[simp] theorem passRead_kept {s0 s : State} (h : Kept s0 s) (off : Nat) :
    Kept s0 (passRead s off) := by
  simp (maxDischargeDepth := 30) +contextual [passRead, h]

end Sys2Proof.Machine
end

