-- ==== Sys2Proof/Laws/KeptClaims.lean ====
section
/-! SUPPORT. What the operations of Claims.lean keep. -/

namespace Sys2Proof.Machine

@[simp] theorem trainLink_kept {s0 s : State} (h : Kept s0 s) (l : Nat) :
    Kept s0 (trainLink s l) := by
  simp (maxDischargeDepth := 30) +contextual [trainLink, h]
@[simp] theorem beginStart_kept {s0 s : State} (h : Kept s0 s) (c : Nat) (o : Origin) :
    Kept s0 (beginStart s c o) := by
  unfold beginStart
  try simp only []
  repeat' split
  all_goals simp (maxDischargeDepth := 30) +contextual [h]
@[simp] theorem pinPage_kept {s0 s : State} (h : Kept s0 s) (k : PageKey) :
    Kept s0 (pinPage s k) := by
  unfold pinPage
  try simp only []
  repeat' split
  all_goals simp (maxDischargeDepth := 30) +contextual [h]
@[simp] theorem pinClaim_kept {s0 s : State} (h : Kept s0 s) (c : Nat) (g : ClaimCfg) :
    Kept s0 (pinClaim s c g) := by
  simp (maxDischargeDepth := 30) +contextual [pinClaim, h]
@[simp] theorem fillPolicers_kept {s0 s : State} (h : Kept s0 s) (c : Nat) (g : ClaimCfg) (sec : ShaperSec) :
    Kept s0 (fillPolicers s c g sec) := by
  simp (maxDischargeDepth := 30) +contextual [fillPolicers, h]
@[simp] theorem fillEgress_kept {s0 s : State} (h : Kept s0 s) (g : ClaimCfg) (sec : ShaperSec) :
    Kept s0 (fillEgress s g sec) := by
  simp (maxDischargeDepth := 30) +contextual [fillEgress, h]
@[simp] theorem startShaper_kept {s0 s : State} (h : Kept s0 s) (c : Nat) (g : ClaimCfg) :
    Kept s0 (startShaper s c g) := by
  unfold startShaper
  try simp only []
  repeat' split
  all_goals simp (maxDischargeDepth := 30) +contextual [h]
@[simp] theorem startGates_kept {s0 s : State} (h : Kept s0 s) (g : ClaimCfg) :
    Kept s0 (startGates s g) := by
  simp (maxDischargeDepth := 30) +contextual [startGates, h]
@[simp] theorem restartClaim_kept {s0 s : State} (h : Kept s0 s) (c : Nat) :
    Kept s0 (restartClaim s c) := by
  simp (maxDischargeDepth := 30) +contextual [restartClaim, h]
@[simp] theorem readyEmpty_kept {s0 s : State} (h : Kept s0 s) (c : Nat) (g : ClaimCfg) :
    Kept s0 (readyEmpty s c g) := by
  simp (maxDischargeDepth := 30) +contextual [readyEmpty, h]
@[simp] theorem finishStart_kept {s0 s : State} (h : Kept s0 s) (c : Nat) (o : Origin) :
    Kept s0 (finishStart s c o) := by
  unfold finishStart
  try simp only []
  repeat' split
  all_goals simp (maxDischargeDepth := 30) +contextual [h]
@[simp] theorem goStarts_kept {s0 s : State} (h : Kept s0 s) :
    Kept s0 (goStarts s) := by
  unfold goStarts
  try simp only []
  repeat' first
    | assumption
    | (intro _)
    | (simp only [])
    | (simp (maxDischargeDepth := 30) +contextual [*]; done)
    | split
    | apply kept_foldl
    | apply kept_foldl_fst
    | apply kept_foldl_snd
    | apply beginStart_kept
    | apply modClaim_kept
    | apply finishStart_kept
    | (simp only [kept_mk, kept_fold])
@[simp] theorem opClaimStart_kept {s0 s : State} (h : Kept s0 s) (m : MDesc) :
    Kept s0 (opClaimStart m s) := by
  simp (maxDischargeDepth := 30) +contextual [opClaimStart, h]
@[simp] theorem execClaimStart_kept {s0 s : State} (h : Kept s0 s) (m : MDesc) :
    KeptO s0 (execClaimStart m s) := by
  simp (maxDischargeDepth := 30) +contextual [execClaimStart, h]
@[simp] theorem sendLeaving_kept {s0 s : State} (h : Kept s0 s) (c : Nat) :
    Kept s0 (sendLeaving s c) := by
  simp (maxDischargeDepth := 30) +contextual [sendLeaving, h]
@[simp] theorem opClaimEnd_kept {s0 s : State} (h : Kept s0 s) (m : MDesc) :
    Kept s0 (opClaimEnd m s) := by
  simp (maxDischargeDepth := 30) +contextual [opClaimEnd, h]
@[simp] theorem execClaimEnd_kept {s0 s : State} (h : Kept s0 s) (m : MDesc) :
    KeptO s0 (execClaimEnd m s) := by
  simp (maxDischargeDepth := 30) +contextual [execClaimEnd, h]
@[simp] theorem writeBack_kept {s0 s : State} (h : Kept s0 s) (c : Nat) :
    Kept s0 (writeBack s c) := by
  unfold writeBack
  try simp only []
  repeat' first
    | assumption
    | (intro _)
    | (simp only [])
    | (simp (maxDischargeDepth := 30) +contextual [*]; done)
    | split
    | apply kept_foldl
    | apply kept_foldl_fst
    | apply kept_foldl_snd
    | apply issueAll_kept
    | apply modPages_kept
    | apply modLedger_kept
    | (simp only [kept_mk, kept_fold])
@[simp] theorem releaseClaim_kept {s0 s : State} (h : Kept s0 s) (c : Nat) :
    Kept s0 (releaseClaim s c) := by
  simp (maxDischargeDepth := 30) +contextual [releaseClaim, h]
@[simp] theorem finishEnd_kept {s0 s : State} (h : Kept s0 s) (c : Nat) : Kept s0 (finishEnd s c) := by
  unfold finishEnd
  split
  · extract_lets s1 s2 s3 s4 src s5 down s6
    have h3 : Kept s0 s3 := by simp (maxDischargeDepth := 30) +contextual [s1, s2, s3, h]
    have h4 : Kept s0 s4 := kept_foldl _ _ h3 fun t l ht => modLink_kept ht l _ (by simp)
    have h5 : Kept s0 s5 := h4
    have h6 : Kept s0 s6 := by simp (maxDischargeDepth := 30) +contextual [s6, h5]
    simp (maxDischargeDepth := 30) +contextual [h6]
  · exact h
@[simp] theorem setFenceSt_kept {s0 s : State} (h : Kept s0 s) (u : UnitId) (st : Nat) :
    Kept s0 (setFenceSt s u st) := by
  simp (maxDischargeDepth := 30) +contextual [setFenceSt, h]
@[simp] theorem opClaimEndDrained_kept {s0 s : State} (h : Kept s0 s) (claim : Nat) :
    Kept s0 (opClaimEndDrained claim s) := by
  simp (maxDischargeDepth := 30) +contextual [opClaimEndDrained, h]
@[simp] theorem execClaimEndDrained_kept {s0 s : State} (h : Kept s0 s) (claim : Nat) :
    KeptO s0 (execClaimEndDrained claim s) := by
  simp (maxDischargeDepth := 30) +contextual [execClaimEndDrained, h]
@[simp] theorem opSelftestRequest_kept {s0 s : State} (h : Kept s0 s) (d : Desc) :
    Kept s0 (opSelftestRequest d s) := by
  simp (maxDischargeDepth := 30) +contextual [opSelftestRequest, h]
@[simp] theorem execSelftestRequest_kept {s0 s : State} (h : Kept s0 s) (d : Desc) :
    KeptO s0 (execSelftestRequest d s) := by
  simp (maxDischargeDepth := 30) +contextual [execSelftestRequest, h]
@[simp] theorem opSelftestRun_kept {s0 s : State} (h : Kept s0 s) (cls : Nat) (idx : Nat) :
    Kept s0 (opSelftestRun cls idx s) := by
  unfold opSelftestRun
  extract_lets u idle src
  split
  · exact h
  · rename_i t _
    extract_lets start s2
    have hs : ∀ x, Kept s0 x → Kept s0 (start x) := fun x hx => setFenceSt_kept (by simp (maxDischargeDepth := 30) [hx]) _ _
    clear_value start idle
    split
    · exact h
    · split
      · refine modLink_kept (by simp (maxDischargeDepth := 30) [s2, src, h]) _ _ (by simp)
      · split
        · split
          · exact hs _ h
          · exact h
        · split
          · split
            · exact h
            · exact hs _ h
          · split
            · apply hs
              split
              · simp (maxDischargeDepth := 30) [src, h]
              · exact takePlace_kept (by simp (maxDischargeDepth := 30) [src, h]) _ _ _
            · exact h
@[simp] theorem execSelftestRun_kept {s0 s : State} (h : Kept s0 s) (cls : Nat) (idx : Nat) :
    KeptO s0 (execSelftestRun cls idx s) := by
  simp (maxDischargeDepth := 30) +contextual [execSelftestRun, h]
@[simp] theorem resetUnit_kept {s0 s : State} (h : Kept s0 s) (u : UnitId) :
    Kept s0 (resetUnit s u) := by
  unfold resetUnit
  try simp only []
  repeat' split
  all_goals simp (maxDischargeDepth := 30) +contextual [h]
@[simp] theorem rejoin_kept {s0 s : State} (h : Kept s0 s) (u : UnitId) :
    Kept s0 (rejoin s u) := by
  unfold rejoin
  try simp only []
  repeat' split
  all_goals simp (maxDischargeDepth := 30) +contextual [h]
@[simp] theorem fenceWaiters_kept {s0 s : State} (h : Kept s0 s) (u : UnitId) :
    Kept s0 (fenceWaiters s u) := by
  simp (maxDischargeDepth := 30) +contextual [fenceWaiters, h]
@[simp] theorem unfenceDone_kept {s0 s : State} (h : Kept s0 s) (u : UnitId) (o : Origin) (pass : Bool) :
    Kept s0 (unfenceDone s u o pass) := by
  unfold unfenceDone
  try simp only []
  repeat' split
  all_goals simp (maxDischargeDepth := 30) +contextual [h]
@[simp] theorem opSelftestDone_kept {s0 s : State} (h : Kept s0 s) (cls : Nat) (idx : Nat) (pass : Bool) :
    Kept s0 (opSelftestDone cls idx pass s) := by
  unfold opSelftestDone
  extract_lets u bad src s1 s2
  split
  · exact h
  · split
    · exact unfenceDone_kept h _ _ _
    · split
      · exact h
      · rename_i t _
        extract_lets s3 s4
        have h1 : Kept s0 s1 := by simp (maxDischargeDepth := 30) [s1, src, h]
        have h2 : Kept s0 s2 := by
          simp only [s2]
          repeat' split
          · exact modLink_kept h1 _ _ (by simp)
          · exact h1
          · exact setFenceSt_kept h1 _ _
        have h3 : Kept s0 s3 := by
          simp only [s3]
          repeat' split
          all_goals simp (maxDischargeDepth := 30) [h2]
        have h4 : Kept s0 s4 := by
          simp only [s4]
          split
          · simp (maxDischargeDepth := 30) [h3]
          · exact h3
        clear_value s4
        split
        · simp (maxDischargeDepth := 30) [h4]
        · exact h4
@[simp] theorem execSelftestDone_kept {s0 s : State} (h : Kept s0 s) (cls : Nat) (idx : Nat) (pass : Bool) :
    KeptO s0 (execSelftestDone cls idx pass s) := by
  simp (maxDischargeDepth := 30) +contextual [execSelftestDone, h]
@[simp] theorem opAditCalibration_kept {s0 s : State} (h : Kept s0 s) (link : Nat) :
    Kept s0 (opAditCalibration link s) := by
  simp (maxDischargeDepth := 30) +contextual [opAditCalibration, h]
@[simp] theorem execAditCalibration_kept {s0 s : State} (h : Kept s0 s) (link : Nat) :
    KeptO s0 (execAditCalibration link s) := by
  simp (maxDischargeDepth := 30) +contextual [execAditCalibration, h]
@[simp] theorem opDomainSwitchGroup_kept {s0 s : State} (h : Kept s0 s) :
    Kept s0 (opDomainSwitchGroup s) := by
  simp (maxDischargeDepth := 30) +contextual [opDomainSwitchGroup, h]
@[simp] theorem execDomainSwitchGroup_kept {s0 s : State} (h : Kept s0 s) :
    KeptO s0 (execDomainSwitchGroup s) := by
  simp (maxDischargeDepth := 30) +contextual [execDomainSwitchGroup, h]

end Sys2Proof.Machine
end

