-- ==== Sys2Proof/Laws/KeptImage.lean ====
section
/-! SUPPORT. What the operations of Image.lean keep. -/

namespace Sys2Proof.Machine

@[simp] theorem setJob_kept {s0 s : State} (h : Kept s0 s) (n : Nat) (j : Option LoadJob) :
    Kept s0 (setJob s n j) := by
  simp (maxDischargeDepth := 30) +contextual [setJob, h]
@[simp] theorem refuseJob_kept {s0 s : State} (h : Kept s0 s) (n : Nat) (j : LoadJob) (code : Nat) :
    Kept s0 (refuseJob s n j code) := by
  simp (maxDischargeDepth := 30) +contextual [refuseJob, h]
@[simp] theorem opImageLoad_kept {s0 s : State} (h : Kept s0 s) (m : MDesc) (header : List Byte) :
    Kept s0 (opImageLoad m header s) := by
  unfold opImageLoad
  try simp only []
  repeat' first
    | assumption
    | (intro _)
    | (simp only [])
    | (simp (maxDischargeDepth := 30) +contextual [*]; done)
    | split
    | apply kept_foldl
    | apply kept_foldl_fst
    | apply kept_foldl_snd
    | apply mgmtDesc_kept
    | apply done_kept
    | apply setJob_kept
    | apply hlGot_kept
    | apply refuseJob_kept
    | (simp only [kept_mk, kept_fold])
@[simp] theorem execImageLoad_kept {s0 s : State} (h : Kept s0 s) (m : MDesc) (header : List Byte) :
    KeptO s0 (execImageLoad m header s) := by
  simp (maxDischargeDepth := 30) +contextual [execImageLoad, h]
@[simp] theorem opImageAdjust_kept {s0 s : State} (h : Kept s0 s) (d : Desc) (header : List Byte) :
    Kept s0 (opImageAdjust d header s) := by
  unfold opImageAdjust
  try simp only []
  repeat' first
    | assumption
    | (intro _)
    | (simp only [])
    | (simp (maxDischargeDepth := 30) +contextual [*]; done)
    | split
    | apply kept_foldl
    | apply kept_foldl_fst
    | apply kept_foldl_snd
    | apply claimDesc_kept
    | apply bad_kept
    | apply refuseJob_kept
    | apply done_kept
    | apply setJob_kept
    | (simp only [kept_mk, kept_fold])
@[simp] theorem execImageAdjust_kept {s0 s : State} (h : Kept s0 s) (d : Desc) (header : List Byte) :
    KeptO s0 (execImageAdjust d header s) := by
  simp (maxDischargeDepth := 30) +contextual [execImageAdjust, h]
@[simp] theorem setLoadState_kept {s0 s : State} (h : Kept s0 s) (job : Nat) (st : Nat) :
    Kept s0 (setLoadState s job st) := by
  simp (maxDischargeDepth := 30) +contextual [setLoadState, h]
@[simp] theorem formDigest_kept {s0 s : State} (h : Kept s0 s) (job : Nat) (j : LoadJob) (image : List Byte) :
    Kept s0 (formDigest s job j image) := by
  simp (maxDischargeDepth := 30) +contextual [formDigest, h]
@[simp] theorem checkSignature_kept {s0 s : State} (h : Kept s0 s) (job : Nat) :
    Kept s0 (checkSignature s job) := by
  unfold checkSignature
  try simp only []
  repeat' split
  all_goals simp (maxDischargeDepth := 30) +contextual [h]
@[simp] theorem opImageVerifyDone_kept {s0 s : State} (h : Kept s0 s) (job : Nat) (image : List Byte) (verified : Bool) :
    Kept s0 (opImageVerifyDone job image verified s) := by
  unfold opImageVerifyDone
  try simp only []
  repeat' split
  all_goals simp (maxDischargeDepth := 30) +contextual [h]
@[simp] theorem execImageVerifyDone_kept {s0 s : State} (h : Kept s0 s) (job : Nat) (image : ReadImage) :
    KeptO s0 (execImageVerifyDone job image s) := by
  simp (maxDischargeDepth := 30) +contextual [execImageVerifyDone, h]
@[simp] theorem relayClaim_kept {s0 s : State} (h : Kept s0 s) (c : Nat) (g : ClaimCfg) :
    Kept s0 (relayClaim s c g) := by
  simp (maxDischargeDepth := 30) +contextual [relayClaim, h]
@[simp] theorem relay_kept {s0 s : State} (h : Kept s0 s) (cs : List (Option ClaimCfg)) :
    Kept s0 (relay s cs) := by
  unfold relay
  try simp only []
  repeat' first
    | assumption
    | (intro _)
    | (simp only [])
    | (simp (maxDischargeDepth := 30) +contextual [*]; done)
    | split
    | apply kept_foldl
    | apply kept_foldl_fst
    | apply kept_foldl_snd
    | apply relayClaim_kept
    | (simp only [kept_mk, kept_fold])
@[simp] theorem commitModule_kept {s0 s : State} (h : Kept s0 s) (j : LoadJob) (es : List Entry) (cfg : ModuleCfg) :
    Kept s0 (commitModule s j es cfg) := by
  unfold commitModule
  extract_lets claims plan free s1 src
  have h1 : Kept s0 s1 := relay_kept h _
  refine ⟨h1.1, fun i => ?_⟩
  obtain ⟨⟨i1, i2, i3⟩, g⟩ := h1.2 i
  refine ⟨⟨i1, ⟨by simp [claims], fun x hx => ?_⟩, i3⟩, g⟩
  simp only [claims, List.mem_map] at hx
  obtain ⟨y, -, e⟩ := hx
  split at e <;> exact e ▸ (by simp)
@[simp] theorem commitClaim_kept {s0 s : State} (h : Kept s0 s) (j : LoadJob) (es : List Entry) (cfg : ModuleCfg) :
    Kept s0 (commitClaim s j es cfg) := by
  unfold commitClaim
  try simp only []
  repeat' first
    | assumption
    | (intro _)
    | (simp only [])
    | (simp (maxDischargeDepth := 30) +contextual [*]; done)
    | split
    | apply kept_foldl
    | apply kept_foldl_fst
    | apply kept_foldl_snd
    | apply modClaim_kept
    | apply relay_kept
    | (simp only [kept_mk, kept_fold])
@[simp] theorem fillStreams_kept {s0 s : State} (h : Kept s0 s) (c : Nat) (sec : Option ShaperSec) :
    Kept s0 (fillStreams s c sec) := by
  simp (maxDischargeDepth := 30) +contextual [fillStreams, h]
@[simp] theorem shaperEffect_kept {s0 s : State} (h : Kept s0 s) (c : Nat) (g : ClaimCfg) :
    Kept s0 (shaperEffect s c g).1 := by
  unfold shaperEffect
  try simp only []
  repeat' split
  all_goals simp (maxDischargeDepth := 30) +contextual [h]
@[simp] theorem gateEffect_kept {s0 s : State} (h : Kept s0 s) (g : ClaimCfg) :
    Kept s0 (gateEffect s g).1 := by
  simp (maxDischargeDepth := 30) +contextual [gateEffect, h]
@[simp] theorem deltaEffects_kept {s0 s : State} (h : Kept s0 s) (c : Nat) (types : List Nat) :
    Kept s0 (deltaEffects s c types).1 := by
  unfold deltaEffects
  try simp only []
  repeat' split
  all_goals simp (maxDischargeDepth := 30) +contextual [h]
@[simp] theorem commitDelta_kept {s0 s : State} (h : Kept s0 s) (j : LoadJob) (es : List Entry) (cfg : ModuleCfg) :
    Kept s0 (commitDelta s j es cfg).1 := by
  unfold commitDelta
  try simp only []
  repeat' first
    | assumption
    | (intro _)
    | (simp only [])
    | (simp (maxDischargeDepth := 30) +contextual [*]; done)
    | split
    | apply kept_foldl
    | apply kept_foldl_fst
    | apply kept_foldl_snd
    | apply modClaim_kept
    | apply deltaEffects_kept
    | (simp only [kept_mk, kept_fold])
@[simp] theorem finishDelta_kept {s0 s : State} (h : Kept s0 s) (n : Nat) (j : LoadJob) (waits : List Effect) :
    Kept s0 (finishDelta s n j waits) := by
  simp (maxDischargeDepth := 30) +contextual [finishDelta, h]
@[simp] theorem logImage_kept {s0 s : State} (h : Kept s0 s) (j : LoadJob) :
    Kept s0 (logImage s j) := by
  simp (maxDischargeDepth := 30) +contextual [logImage, h]
@[simp] theorem commitJob_kept {s0 s : State} (h : Kept s0 s) (n : Nat) (j : LoadJob) (es : List Entry) (cfg : ModuleCfg) :
    Kept s0 (commitJob s n j es cfg) := by
  simp (maxDischargeDepth := 30) +contextual [commitJob, h]
@[simp] theorem opImageApplyDone_kept {s0 s : State} (h : Kept s0 s) (job : Nat) (image : List Byte) :
    Kept s0 (opImageApplyDone job image s) := by
  unfold opImageApplyDone
  split
  · exact h
  · split
    · exact h
    · extract_lets s1 base
      have h1 : Kept s0 s1 := hlGot_kept h _ _
      split
      · exact refuseJob_kept h1 _ _ _
      · split
        · exact refuseJob_kept h1 _ _ _
        · exact goStarts_kept (commitJob_kept h1 _ _ _ _)
@[simp] theorem execImageApplyDone_kept {s0 s : State} (h : Kept s0 s) (job : Nat) (image : List Byte) :
    KeptO s0 (execImageApplyDone job image s) := by
  simp (maxDischargeDepth := 30) +contextual [execImageApplyDone, h]

end Sys2Proof.Machine
end

