-- ==== Sys2Proof/Laws/KeptLamp.lean ====
section
/-! SUPPORT. What the operations of Lamp.lean keep. -/

namespace Sys2Proof.Machine

@[simp] theorem modLamp_kept {s0 s : State} (h : Kept s0 s) (c : Nat) (f : LampClaim → LampClaim) :
    Kept s0 (modLamp s c f) := by
  simp (maxDischargeDepth := 30) +contextual [modLamp, h]
@[simp] theorem lampLine_kept {s0 s : State} (h : Kept s0 s) (c : Nat) :
    Kept s0 (lampLine s c) := by
  simp (maxDischargeDepth := 30) +contextual [lampLine, h]
@[simp] theorem lampPump_kept {s0 s : State} (h : Kept s0 s) (fuel : Nat) (c : Nat) :
    Kept s0 (lampPump fuel s c) := by
  induction fuel generalizing s with
  | zero => simp [lampPump, h]
  | succ fuel ih =>
    unfold lampPump
    try simp only []
    repeat' split
    all_goals simp (maxDischargeDepth := 30) +contextual [h, ih]
@[simp] theorem lampRecord_kept {s0 s : State} (h : Kept s0 s) (k : RUnit) (req : Nat) (event : Nat) (cls : Nat) (instr : Nat) (step : Nat) (reason : Nat) (units : Nat) :
    Kept s0 (lampRecord s k req event cls instr step reason units) := by
  simp (maxDischargeDepth := 30) +contextual [lampRecord, h]
@[simp] theorem stallRecords_kept {s0 s : State} (n : Nat) (h : Kept s0 s) (k : RUnit) (req cls instr step : Nat) :
    Kept s0 (stallRecords n s k req cls instr step) := by
  induction n generalizing s with
  | zero => exact h
  | succ n ih => exact ih (lampRecord_kept (lampRecord_kept (takeFree_kept h) ..) ..)
@[simp] theorem traceCommand_kept {s0 s : State} (h : Kept s0 s) (k : RUnit) (x : RCmd) (instr : Nat) (units : Nat) :
    Kept s0 (traceCommand s k x instr units) := by
  simp (maxDischargeDepth := 30) +contextual [traceCommand, h]
@[simp] theorem opLampLineTimeout_kept {s0 s : State} (h : Kept s0 s) (claim : Nat) :
    Kept s0 (opLampLineTimeout claim s) := by
  simp (maxDischargeDepth := 30) +contextual [opLampLineTimeout, h]
@[simp] theorem execLampLineTimeout_kept {s0 s : State} (h : Kept s0 s) (claim : Nat) :
    KeptO s0 (execLampLineTimeout claim s) := by
  simp (maxDischargeDepth := 30) +contextual [execLampLineTimeout, h]
@[simp] theorem opWatchDumpWritten_kept {s0 s : State} (h : Kept s0 s) (claim arm : Nat) :
    Kept s0 (opWatchDumpWritten claim arm s) := by
  unfold opWatchDumpWritten
  split
  · exact h
  · split
    · exact h
    · split
      · exact h
      · extract_lets w s1 src s2 s3
        have h1 : Kept s0 s1 := putHost_kept h _ _
        have h2 : Kept s0 s2 := by simp only [s2, kept_mk, kept_fold]; exact h1
        have h3 : Kept s0 s3 := doneWith_kept h2 _ _
        split
        · exact goOn_kept h3 _
        · exact h3
@[simp] theorem execWatchDumpWritten_kept {s0 s : State} (h : Kept s0 s) (claim : Nat) (arm : Nat) :
    KeptO s0 (execWatchDumpWritten claim arm s) := by
  simp (maxDischargeDepth := 30) +contextual [execWatchDumpWritten, h]

end Sys2Proof.Machine
end

