-- ==== Sys2Proof/Laws/KeptHaulage.lean ====
section
/-! SUPPORT. What the operations of Haulage.lean keep. -/

namespace Sys2Proof.Machine

@[simp] theorem gatherParts_kept {s0 s : State} (h : Kept s0 s) (n : Nat) (w : BankWork) (out : List F32) :
    Kept s0 (gatherParts s n w out).2.2 := by
  unfold gatherParts
  try simp only []
  repeat' split
  all_goals simp (maxDischargeDepth := 30) +contextual [h]
@[simp] theorem bankDone_kept {s0 s : State} (h : Kept s0 s) (b : Nat) (slot : Option Nat) (w : BankWork) :
    Kept s0 (bankDone s b slot w) := by
  unfold bankDone
  try simp only []
  repeat' split
  all_goals simp (maxDischargeDepth := 30) +contextual [h]
@[simp] theorem lodeDone_kept {s0 s : State} (h : Kept s0 s) (lode : Nat) (w : BankWork) :
    Kept s0 (lodeDone s lode w) := by
  unfold lodeDone
  try simp only []
  repeat' split
  all_goals simp (maxDischargeDepth := 30) +contextual [h]
@[simp] theorem opUnitCommandComplete_kept {s0 s : State} (h : Kept s0 s) (claim : Nat) (engine : Nat) (unit : Nat) (units : Nat) (work : BankWork) :
    Kept s0 (opUnitCommandComplete claim engine unit units work s) := by
  unfold opUnitCommandComplete
  try simp only []
  repeat' split
  all_goals simp (maxDischargeDepth := 30) +contextual [h]
@[simp] theorem execUnitCommandComplete_kept {s0 s : State} (h : Kept s0 s) (claim : Nat) (engine : Nat) (unit : Nat) (units : Nat) (work : BankWork) :
    KeptO s0 (execUnitCommandComplete claim engine unit units work s) := by
  simp (maxDischargeDepth := 30) +contextual [execUnitCommandComplete, h]
@[simp] theorem refillPolicers_kept {s0 s : State} (h : Kept s0 s) (c : Nat) (sec : ShaperSec) :
    Kept s0 (refillPolicers s c sec) := by
  simp (maxDischargeDepth := 30) +contextual [refillPolicers, h]
@[simp] theorem refillStreams_kept {s0 s : State} (h : Kept s0 s) (c : Nat) (sec : ShaperSec) :
    Kept s0 (refillStreams s c sec) := by
  simp (maxDischargeDepth := 30) +contextual [refillStreams, h]
@[simp] theorem refillEgress_kept {s0 s : State} (h : Kept s0 s) (g : ClaimCfg) (sec : ShaperSec) :
    Kept s0 (refillEgress s g sec) := by
  simp (maxDischargeDepth := 30) +contextual [refillEgress, h]
@[simp] theorem opBucketRefill_kept {s0 s : State} (h : Kept s0 s) (claim : Nat) :
    Kept s0 (opBucketRefill claim s) := by
  unfold opBucketRefill
  try simp only []
  repeat' split
  all_goals simp (maxDischargeDepth := 30) +contextual [h]
@[simp] theorem execBucketRefill_kept {s0 s : State} (h : Kept s0 s) (claim : Nat) :
    KeptO s0 (execBucketRefill claim s) := by
  simp (maxDischargeDepth := 30) +contextual [execBucketRefill, h]
@[simp] theorem opGateWindowAdvance_kept {s0 s : State} (h : Kept s0 s) (link : Nat) :
    Kept s0 (opGateWindowAdvance link s) := by
  unfold opGateWindowAdvance
  try simp only []
  repeat' split
  all_goals simp (maxDischargeDepth := 30) +contextual [h]
@[simp] theorem execGateWindowAdvance_kept {s0 s : State} (h : Kept s0 s) (link : Nat) :
    KeptO s0 (execGateWindowAdvance link s) := by
  simp (maxDischargeDepth := 30) +contextual [execGateWindowAdvance, h]
@[simp] theorem opAditFrameEgress_kept {s0 s : State} (h : Kept s0 s) (link : Nat) (cls : Nat) :
    Kept s0 (opAditFrameEgress link cls s) := by
  unfold opAditFrameEgress
  try simp only []
  repeat' split
  all_goals simp (maxDischargeDepth := 30) +contextual [h]
@[simp] theorem execAditFrameEgress_kept {s0 s : State} (h : Kept s0 s) (link : Nat) (cls : Nat) :
    KeptO s0 (execAditFrameEgress link cls s) := by
  simp (maxDischargeDepth := 30) +contextual [execAditFrameEgress, h]

end Sys2Proof.Machine
end

