-- ==== Sys2Proof/Laws/KeptFaults.lean ====
section
/-! SUPPORT. What the operations of Faults.lean keep. -/

namespace Sys2Proof.Machine

@[simp] theorem opFence_kept {s0 s : State} (h : Kept s0 s) (m : MDesc) :
    Kept s0 (opFence m s) := by
  unfold opFence
  try simp only []
  repeat' first
    | assumption
    | (intro _)
    | (simp only [])
    | (simp (maxDischargeDepth := 30) +contextual [*]; done)
    | split
    | apply kept_foldl
    | apply kept_foldl_fst
    | apply kept_foldl_snd
    | apply mgmtDesc_kept
    | apply bad_kept
    | apply doneWith_kept
    | apply fenceUnit_kept
    | (simp only [kept_mk, kept_fold])
@[simp] theorem execFence_kept {s0 s : State} (h : Kept s0 s) (m : MDesc) :
    KeptO s0 (execFence m s) := by
  simp (maxDischargeDepth := 30) +contextual [execFence, h]
@[simp] theorem opUnfence_kept {s0 s : State} (h : Kept s0 s) (m : MDesc) :
    Kept s0 (opUnfence m s) := by
  unfold opUnfence
  try simp only []
  repeat' first
    | assumption
    | (intro _)
    | (simp only [])
    | (simp (maxDischargeDepth := 30) +contextual [*]; done)
    | split
    | apply kept_foldl
    | apply kept_foldl_fst
    | apply kept_foldl_snd
    | apply mgmtDesc_kept
    | apply bad_kept
    | apply setFenceSt_kept
    | apply switchDomain_kept
    | (simp only [kept_mk, kept_fold])
@[simp] theorem execUnfence_kept {s0 s : State} (h : Kept s0 s) (m : MDesc) :
    KeptO s0 (execUnfence m s) := by
  simp (maxDischargeDepth := 30) +contextual [execUnfence, h]
@[simp] theorem floorMiss_kept {s0 s : State} (h : Kept s0 s) (u : UnitId) :
    Kept s0 (floorMiss s u) := by
  simp (maxDischargeDepth := 30) +contextual [floorMiss, h]
@[simp] theorem opUnitFault_kept {s0 s : State} (h : Kept s0 s) (u : UnitId) (cause : Nat) :
    Kept s0 (opUnitFault u cause s) := by
  simp (maxDischargeDepth := 30) +contextual [opUnitFault, h]
@[simp] theorem execUnitFault_kept {s0 s : State} (h : Kept s0 s) (u : UnitId) (cause : Nat) :
    KeptO s0 (execUnitFault u cause s) := by
  simp (maxDischargeDepth := 30) +contextual [execUnitFault, h]
@[simp] theorem opGateHangTimeout_kept {s0 s : State} (h : Kept s0 s) (u : UnitId) :
    Kept s0 (opGateHangTimeout u s) := by
  simp (maxDischargeDepth := 30) +contextual [opGateHangTimeout, h]
@[simp] theorem execGateHangTimeout_kept {s0 s : State} (h : Kept s0 s) (u : UnitId) :
    KeptO s0 (execGateHangTimeout u s) := by
  simp (maxDischargeDepth := 30) +contextual [execGateHangTimeout, h]
@[simp] theorem correctedErrors_kept {s0 s : State} (h : Kept s0 s) (u : SramUse) (k : Nat) :
    Kept s0 (correctedErrors s u k) := by
  unfold correctedErrors
  try simp only []
  repeat' split
  all_goals simp (maxDischargeDepth := 30) +contextual [h]
@[simp] theorem poisonDumps_kept {s0 s : State} (h : Kept s0 s) (n : Nat) : Kept s0 (poisonDumps s n) := by
  unfold poisonDumps
  extract_lets mine
  split
  · simp (maxDischargeDepth := 30) [h]
  · exact h
@[simp] theorem endBySram_kept {s0 s : State} (h : Kept s0 s) (slot : BitVec 16) (u : UnitId) :
    Kept s0 (endBySram s slot u) := by
  simp (maxDischargeDepth := 30) +contextual [endBySram, h]
@[simp] theorem copyAgain_kept {s0 s : State} (h : Kept s0 s) (l : Nat) :
    Kept s0 (copyAgain s l) := by
  unfold copyAgain
  split <;> simp [h]
@[simp] theorem sramEffect_kept {s0 s : State} (h : Kept s0 s) (u : SramUse) :
    Kept s0 (sramEffect s u) := by
  unfold sramEffect
  try simp only []
  repeat' split
  all_goals simp (maxDischargeDepth := 30) +contextual [h]
@[simp] theorem opHubSramUe_kept {s0 s : State} (h : Kept s0 s) (u : SramUse) (corrected : Nat) :
    Kept s0 (opHubSramUe u corrected s) := by
  unfold opHubSramUe
  try simp only []
  repeat' split
  all_goals simp (maxDischargeDepth := 30) +contextual [h]
@[simp] theorem execHubSramUe_kept {s0 s : State} (h : Kept s0 s) (error : SramError) :
    KeptO s0 (execHubSramUe error s) := by
  simp (maxDischargeDepth := 30) +contextual [execHubSramUe, h]
@[simp] theorem opModuleFatalError_kept {s0 s : State} (h : Kept s0 s) (cause : Nat) (u : Option UnitId) :
    Kept s0 (opModuleFatalError cause u s) := by
  simp (maxDischargeDepth := 30) +contextual [opModuleFatalError, h]
@[simp] theorem execModuleFatalError_kept {s0 s : State} (h : Kept s0 s) (cause : Nat) (u : Option UnitId) :
    KeptO s0 (execModuleFatalError cause u s) := by
  simp (maxDischargeDepth := 30) +contextual [execModuleFatalError, h]
@[simp] theorem endPoisoned_kept {s0 s : State} (h : Kept s0 s) (x : Cmd) :
    Kept s0 (endPoisoned s x) := by
  unfold endPoisoned
  try simp only []
  repeat' split
  all_goals simp (maxDischargeDepth := 30) +contextual [h]
@[simp] theorem opCompanionReadPoison_kept {s0 s : State} (h : Kept s0 s) (target : PoisonTarget) :
    Kept s0 (opCompanionReadPoison target s) := by
  unfold opCompanionReadPoison
  try simp only []
  repeat' split
  all_goals simp (maxDischargeDepth := 30) +contextual [h]
@[simp] theorem execCompanionReadPoison_kept {s0 s : State} (h : Kept s0 s) (target : PoisonTarget) :
    KeptO s0 (execCompanionReadPoison target s) := by
  simp (maxDischargeDepth := 30) +contextual [execCompanionReadPoison, h]
@[simp] theorem opDieFailure_kept {s0 s : State} (h : Kept s0 s) (seam : Nat) (die : Nat) :
    Kept s0 (opDieFailure seam die s) := by
  simp (maxDischargeDepth := 30) +contextual [opDieFailure, h]
@[simp] theorem execDieFailure_kept {s0 s : State} (h : Kept s0 s) (seam : Nat) (die : Nat) :
    KeptO s0 (execDieFailure seam die s) := by
  simp (maxDischargeDepth := 30) +contextual [execDieFailure, h]
@[simp] theorem opSeamRecovery_kept {s0 s : State} (h : Kept s0 s) (die : Nat) :
    Kept s0 (opSeamRecovery die s) := by
  simp (maxDischargeDepth := 30) +contextual [opSeamRecovery, h]
@[simp] theorem execSeamRecovery_kept {s0 s : State} (h : Kept s0 s) (die : Nat) :
    KeptO s0 (execSeamRecovery die s) := by
  simp (maxDischargeDepth := 30) +contextual [execSeamRecovery, h]

end Sys2Proof.Machine
end

