-- ==== Sys2Proof/Laws/KeptPower.lean ====
section
/-! SUPPORT. What the operations of Power.lean keep. -/

namespace Sys2Proof.Machine

@[simp] theorem readDomains_kept {s0 s : State} (h : Kept s0 s) (r : PlanReading) :
    Kept s0 (readDomains s r) := by
  simp (maxDischargeDepth := 30) +contextual [readDomains, h]
@[simp] theorem takePlan_kept {s0 s : State} (h : Kept s0 s) :
    Kept s0 (takePlan s) := by
  simp (maxDischargeDepth := 30) +contextual [takePlan, h]
@[simp] theorem setSupplies_kept {s0 s : State} (h : Kept s0 s) :
    Kept s0 (setSupplies s) := by
  simp (maxDischargeDepth := 30) +contextual [setSupplies, h]
@[simp] theorem floorFlags_kept {s0 s : State} (h : Kept s0 s) :
    Kept s0 (floorFlags s) := by
  simp (maxDischargeDepth := 30) +contextual [floorFlags, h]
@[simp] theorem thermalState_kept {s0 s : State} (h : Kept s0 s) :
    Kept s0 (thermalState s) := by
  simp (maxDischargeDepth := 30) +contextual [thermalState, h]
@[simp] theorem floorMisses_kept {s0 s : State} (h : Kept s0 s) (r : PlanReading) :
    Kept s0 (floorMisses s r) := by
  unfold floorMisses
  try simp only []
  repeat' first
    | assumption
    | (intro _)
    | (simp only [])
    | (simp (maxDischargeDepth := 30) +contextual [*]; done)
    | split
    | apply kept_foldl
    | apply kept_foldl_fst
    | apply kept_foldl_snd
    | apply floorMiss_kept
    | (simp only [kept_mk, kept_fold])
@[simp] theorem opReplanPass_kept {s0 s : State} (h : Kept s0 s) (r : PlanReading) :
    Kept s0 (opReplanPass r s) := by
  simp (maxDischargeDepth := 30) +contextual [opReplanPass, h]
@[simp] theorem execReplanPass_kept {s0 s : State} (h : Kept s0 s) (r : PlanReading) :
    KeptO s0 (execReplanPass r s) := by
  simp (maxDischargeDepth := 30) +contextual [execReplanPass, h]
@[simp] theorem opReplan_kept {s0 s : State} (h : Kept s0 s) (m : MDesc) :
    Kept s0 (opReplan m s) := by
  simp (maxDischargeDepth := 30) +contextual [opReplan, h]
@[simp] theorem execReplan_kept {s0 s : State} (h : Kept s0 s) (m : MDesc) :
    KeptO s0 (execReplan m s) := by
  simp (maxDischargeDepth := 30) +contextual [execReplan, h]
@[simp] theorem opJunctionHot_kept {s0 s : State} (h : Kept s0 s) (domain : Nat) (celsius : Nat) :
    Kept s0 (opJunctionHot domain celsius s) := by
  simp (maxDischargeDepth := 30) +contextual [opJunctionHot, h]
@[simp] theorem execJunctionHot_kept {s0 s : State} (h : Kept s0 s) (domain : Nat) (celsius : Nat) :
    KeptO s0 (execJunctionHot domain celsius s) := by
  simp (maxDischargeDepth := 30) +contextual [execJunctionHot, h]
@[simp] theorem opThermalLimit_kept {s0 s : State} (h : Kept s0 s) (domain : Nat) :
    Kept s0 (opThermalLimit domain s) := by
  simp (maxDischargeDepth := 30) +contextual [opThermalLimit, h]
@[simp] theorem execThermalLimit_kept {s0 s : State} (h : Kept s0 s) (domain : Nat) :
    KeptO s0 (execThermalLimit domain s) := by
  simp (maxDischargeDepth := 30) +contextual [execThermalLimit, h]
@[simp] theorem opThermalShed_kept {s0 s : State} (h : Kept s0 s) (domain : Nat) :
    Kept s0 (opThermalShed domain s) := by
  simp (maxDischargeDepth := 30) +contextual [opThermalShed, h]
@[simp] theorem execThermalShed_kept {s0 s : State} (h : Kept s0 s) (domain : Nat) :
    KeptO s0 (execThermalShed domain s) := by
  simp (maxDischargeDepth := 30) +contextual [execThermalShed, h]
@[simp] theorem opCoolantInletRange_kept {s0 s : State} (h : Kept s0 s) (celsius : Nat) :
    Kept s0 (opCoolantInletRange celsius s) := by
  simp (maxDischargeDepth := 30) +contextual [opCoolantInletRange, h]
@[simp] theorem execCoolantInletRange_kept {s0 s : State} (h : Kept s0 s) (celsius : Nat) :
    KeptO s0 (execCoolantInletRange celsius s) := by
  simp (maxDischargeDepth := 30) +contextual [execCoolantInletRange, h]
@[simp] theorem opCoolantInletReturn_kept {s0 s : State} (h : Kept s0 s) (celsius : Nat) :
    Kept s0 (opCoolantInletReturn celsius s) := by
  simp (maxDischargeDepth := 30) +contextual [opCoolantInletReturn, h]
@[simp] theorem execCoolantInletReturn_kept {s0 s : State} (h : Kept s0 s) (celsius : Nat) :
    KeptO s0 (execCoolantInletReturn celsius s) := by
  simp (maxDischargeDepth := 30) +contextual [execCoolantInletReturn, h]
@[simp] theorem opSensorFault_kept {s0 s : State} (h : Kept s0 s) (inlet : Bool) :
    Kept s0 (opSensorFault inlet s) := by
  unfold opSensorFault
  try simp only []
  repeat' split
  all_goals simp (maxDischargeDepth := 30) +contextual [h]
@[simp] theorem execSensorFault_kept {s0 s : State} (h : Kept s0 s) (inlet : Bool) :
    KeptO s0 (execSensorFault inlet s) := by
  simp (maxDischargeDepth := 30) +contextual [execSensorFault, h]
@[simp] theorem opLeak_kept {s0 s : State} (h : Kept s0 s) :
    Kept s0 (opLeak s) := by
  simp (maxDischargeDepth := 30) +contextual [opLeak, h]
@[simp] theorem execLeak_kept {s0 s : State} (h : Kept s0 s) :
    KeptO s0 (execLeak s) := by
  simp (maxDischargeDepth := 30) +contextual [execLeak, h]
@[simp] theorem opInputLoss_kept {s0 s : State} (h : Kept s0 s) (millivolts : Nat) :
    Kept s0 (opInputLoss millivolts s) := by
  simp (maxDischargeDepth := 30) +contextual [opInputLoss, h]
@[simp] theorem execInputLoss_kept {s0 s : State} (h : Kept s0 s) (millivolts : Nat) :
    KeptO s0 (execInputLoss millivolts s) := by
  simp (maxDischargeDepth := 30) +contextual [execInputLoss, h]
@[simp] theorem opPinReadbackMismatch_kept {s0 s : State} (h : Kept s0 s) (alert : Bool) :
    Kept s0 (opPinReadbackMismatch alert s) := by
  simp (maxDischargeDepth := 30) +contextual [opPinReadbackMismatch, h]
@[simp] theorem execPinReadbackMismatch_kept {s0 s : State} (h : Kept s0 s) (alert : Bool) :
    KeptO s0 (execPinReadbackMismatch alert s) := by
  simp (maxDischargeDepth := 30) +contextual [execPinReadbackMismatch, h]

end Sys2Proof.Machine
end

