-- ==== Sys2Proof/Laws/KeptSecurity.lean ====
section
/-! SUPPORT. What the operations of Security.lean keep. -/

namespace Sys2Proof.Machine

@[simp] theorem keyStatus_kept {s0 s : State} (h : Kept s0 s) (code : Nat) :
    Kept s0 (keyStatus s code) := by
  simp (maxDischargeDepth := 30) +contextual [keyStatus, h]
theorem setKey_kept {s0 s : State} (h : Kept s0 s) (n : Nat) (k : KeySlot) (hk : k.st ≤ 2) (h2 : (s.sec.keys.getD n {}).st ≠ 2)
    (h1 : (s.sec.keys.getD n {}).st = 1 → k.key = (s.sec.keys.getD n {}).key ∧ (k.st = 1 ∨ k.st = 2)) : Kept s0 (setKey s n k) := by
  refine h.trans ⟨rfl, fun i => ?_⟩
  obtain ⟨i1, i2, i3, i4, ⟨i5, i6⟩, i7⟩ := i
  refine ⟨⟨i1, i2, i3, i4, ⟨by simp [setKey, i5], fun x hx => ?_⟩, i7⟩, fun j c hc => ?_, Nat.le_refl _, Nat.le_refl _, fun _ g => g⟩
  · rcases List.mem_or_eq_of_mem_set hx with hx | hx
    · exact i6 x hx
    · exact hx ▸ hk
  · obtain ⟨hl, -⟩ := List.getElem?_eq_some_iff.1 hc
    by_cases e : n = j
    · subst e
      have hd : s.sec.keys.getD n {} = c := by simp [List.getD_eq_getElem?_getD, hc]
      rw [hd] at h1 h2
      exact ⟨k, by simp [setKey, hl], h1, fun g => absurd g h2⟩
    · exact ⟨c, by simpa [setKey, List.getElem?_set, e] using hc, fun g => ⟨rfl, .inl g⟩, fun _ => rfl⟩
@[simp] theorem opKeyProgram_kept {s0 s : State} (h : Kept s0 s) (value : W64) : Kept s0 (opKeyProgram value s) := by
  unfold opKeyProgram
  extract_lets n key
  repeat' split
  all_goals try (simp [h]; done)
  rename_i h1 _
  have e : (s.sec.keys.getD n {}).st = 0 := by simpa using h1
  have g := setKey_kept h n ⟨1, key⟩ (by simp) (by omega) (by omega)
  simp [g]
@[simp] theorem execKeyProgram_kept {s0 s : State} (h : Kept s0 s) (value : W64) :
    KeptO s0 (execKeyProgram value s) := by
  simp (maxDischargeDepth := 30) +contextual [execKeyProgram, h]
@[simp] theorem opKeyRevoke_kept {s0 s : State} (h : Kept s0 s) (value : W64) : Kept s0 (opKeyRevoke value s) := by
  unfold opKeyRevoke
  extract_lets n k
  repeat' split
  all_goals try (simp [h]; done)
  rename_i h1 _
  have e : (s.sec.keys.getD n {}).st = 1 := by simpa [k] using h1
  have g := setKey_kept h n ⟨2, k.key⟩ (by simp) (by omega) (fun _ => ⟨rfl, .inr rfl⟩)
  simp [g]
@[simp] theorem execKeyRevoke_kept {s0 s : State} (h : Kept s0 s) (value : W64) :
    KeptO s0 (execKeyRevoke value s) := by
  simp (maxDischargeDepth := 30) +contextual [execKeyRevoke, h]
@[simp] theorem opAttest_kept {s0 s : State} (h : Kept s0 s) (m : MDesc) :
    Kept s0 (opAttest m s) := by
  simp (maxDischargeDepth := 30) +contextual [opAttest, h]
@[simp] theorem execAttest_kept {s0 s : State} (h : Kept s0 s) (m : MDesc) :
    KeptO s0 (execAttest m s) := by
  simp (maxDischargeDepth := 30) +contextual [execAttest, h]
@[simp] theorem opCounterFreeze_kept {s0 s : State} (h : Kept s0 s) (m : MDesc) :
    Kept s0 (opCounterFreeze m s) := by
  simp (maxDischargeDepth := 30) +contextual [opCounterFreeze, h]
@[simp] theorem execCounterFreeze_kept {s0 s : State} (h : Kept s0 s) (m : MDesc) :
    KeptO s0 (execCounterFreeze m s) := by
  simp (maxDischargeDepth := 30) +contextual [execCounterFreeze, h]
@[simp] theorem opReservedMgmtOpcode_kept {s0 s : State} (h : Kept s0 s) (m : MDesc) :
    Kept s0 (opReservedMgmtOpcode m s) := by
  simp (maxDischargeDepth := 30) +contextual [opReservedMgmtOpcode, h]
@[simp] theorem execReservedMgmtOpcode_kept {s0 s : State} (h : Kept s0 s) (m : MDesc) :
    KeptO s0 (execReservedMgmtOpcode m s) := by
  simp (maxDischargeDepth := 30) +contextual [execReservedMgmtOpcode, h]
@[simp] theorem debugRead_kept {s0 s : State} (h : Kept s0 s) (value : W64) :
    Kept s0 (debugRead value s) := by
  simp (maxDischargeDepth := 30) +contextual [debugRead, h]
@[simp] theorem opDebugRead_kept {s0 s : State} (h : Kept s0 s) (value : W64) :
    Kept s0 (opDebugRead value s) := by
  simp (maxDischargeDepth := 30) +contextual [opDebugRead, h]
@[simp] theorem execDebugRead_kept {s0 s : State} (h : Kept s0 s) (value : W64) :
    KeptO s0 (execDebugRead value s) := by
  simp (maxDischargeDepth := 30) +contextual [execDebugRead, h]
@[simp] theorem loadInstr_kept {s0 s : State} (h : Kept s0 s) (n : Nat) :
    Kept s0 (loadInstr s n) := by
  simp (maxDischargeDepth := 30) +contextual [loadInstr, h]
@[simp] theorem opJtagAttach_kept {s0 s : State} (h : Kept s0 s) (opcode : Byte) : Kept s0 (opJtagAttach opcode s) := by
  unfold opJtagAttach
  split
  · extract_lets n
    apply extendLog_kept
    refine h.trans ⟨rfl, fun i => ?_⟩
    obtain ⟨i1, i2, i3, i4, i5, i6, i7, i8⟩ := i
    have hn : n < 2 ^ 64 ∧ s.sec.attaches ≤ n := by simp only [n, satAdd]; omega
    exact ⟨⟨i1, i2, i3, i4, i5, i6, i7, hn.1⟩, fun _ k g => ⟨k, g, fun g => ⟨rfl, .inl g⟩, fun _ => rfl⟩, Nat.le_refl _, hn.2, fun _ g => g⟩
  · exact h
@[simp] theorem execJtagAttach_kept {s0 s : State} (h : Kept s0 s) (opcode : Byte) :
    KeptO s0 (execJtagAttach opcode s) := by
  simp (maxDischargeDepth := 30) +contextual [execJtagAttach, h]
@[simp] theorem opTestLogicReset_kept {s0 s : State} (h : Kept s0 s) :
    Kept s0 (opTestLogicReset s) := by
  simp (maxDischargeDepth := 30) +contextual [opTestLogicReset, h]
@[simp] theorem execTestLogicReset_kept {s0 s : State} (h : Kept s0 s) :
    KeptO s0 (execTestLogicReset s) := by
  simp (maxDischargeDepth := 30) +contextual [execTestLogicReset, h]
@[simp] theorem opBypass_kept {s0 s : State} (h : Kept s0 s) :
    Kept s0 (opBypass s) := by
  simp (maxDischargeDepth := 30) +contextual [opBypass, h]
@[simp] theorem execBypass_kept {s0 s : State} (h : Kept s0 s) :
    KeptO s0 (execBypass s) := by
  simp (maxDischargeDepth := 30) +contextual [execBypass, h]
@[simp] theorem opIdcode_kept {s0 s : State} (h : Kept s0 s) :
    Kept s0 (opIdcode s) := by
  simp (maxDischargeDepth := 30) +contextual [opIdcode, h]
@[simp] theorem execIdcode_kept {s0 s : State} (h : Kept s0 s) :
    KeptO s0 (execIdcode s) := by
  simp (maxDischargeDepth := 30) +contextual [execIdcode, h]
@[simp] theorem loadPins_kept {s0 s : State} (h : Kept s0 s) (n : Nat) :
    Kept s0 (loadPins s n) := by
  simp (maxDischargeDepth := 30) +contextual [loadPins, h]
@[simp] theorem opExtest_kept {s0 s : State} (h : Kept s0 s) :
    Kept s0 (opExtest s) := by
  simp (maxDischargeDepth := 30) +contextual [opExtest, h]
@[simp] theorem opClamp_kept {s0 s : State} (h : Kept s0 s) :
    Kept s0 (opClamp s) := by
  simp (maxDischargeDepth := 30) +contextual [opClamp, h]
@[simp] theorem opHighz_kept {s0 s : State} (h : Kept s0 s) :
    Kept s0 (opHighz s) := by
  simp (maxDischargeDepth := 30) +contextual [opHighz, h]
@[simp] theorem opSamplePreload_kept {s0 s : State} (h : Kept s0 s) :
    Kept s0 (opSamplePreload s) := by
  simp (maxDischargeDepth := 30) +contextual [opSamplePreload, h]
@[simp] theorem opLodeRead_kept {s0 s : State} (h : Kept s0 s) (value : W64) :
    Kept s0 (opLodeRead value s) := by
  simp (maxDischargeDepth := 30) +contextual [opLodeRead, h]
@[simp] theorem execExtest_kept {s0 s : State} (h : Kept s0 s) :
    KeptO s0 (execExtest s) := by
  simp (maxDischargeDepth := 30) +contextual [execExtest, h]
@[simp] theorem execClamp_kept {s0 s : State} (h : Kept s0 s) :
    KeptO s0 (execClamp s) := by
  simp (maxDischargeDepth := 30) +contextual [execClamp, h]
@[simp] theorem execHighz_kept {s0 s : State} (h : Kept s0 s) :
    KeptO s0 (execHighz s) := by
  simp (maxDischargeDepth := 30) +contextual [execHighz, h]
@[simp] theorem execSamplePreload_kept {s0 s : State} (h : Kept s0 s) :
    KeptO s0 (execSamplePreload s) := by
  simp (maxDischargeDepth := 30) +contextual [execSamplePreload, h]
@[simp] theorem execLodeRead_kept {s0 s : State} (h : Kept s0 s) (value : W64) :
    KeptO s0 (execLodeRead value s) := by
  simp (maxDischargeDepth := 30) +contextual [execLodeRead, h]

end Sys2Proof.Machine
end

