-- ==== Sys2Proof/Laws/KeptBringup.lean ====
section
/-! SUPPORT. What the operations of Bringup.lean keep. -/

namespace Sys2Proof.Machine

@[simp] theorem resetAll_kept {s0 s : State} (h : Kept s0 s) (kind : Nat) : Kept s0 (resetAll kind s) := by
  refine h.trans ⟨rfl, fun i => ?_⟩
  obtain ⟨i1, -, -, -, i5, -, i8⟩ := i
  have a1 : ∀ x ∈ ({} : State).claims, x.st ≤ 3 := by decide
  have a2 : ∀ x ∈ ({} : State).adit.links, x.st ≤ 6 := by decide
  exact ⟨⟨i1, ⟨rfl, a1⟩, Nat.zero_le _, ⟨rfl, a2⟩, i5, ⟨Nat.zero_le _, Nat.le_refl _⟩, i8⟩,
    fun _ k g => ⟨k, g, fun g => ⟨rfl, .inl g⟩, fun _ => rfl⟩, Nat.le_refl _, Nat.le_refl _, fun _ g => g⟩
@[simp] theorem readStraps_kept {s0 s : State} (h : Kept s0 s) (b : BringUp) :
    Kept s0 (readStraps b s) := by
  unfold readStraps
  try simp only []
  repeat' split
  all_goals simp (maxDischargeDepth := 30) +contextual [h]
@[simp] theorem measure_kept {s0 s : State} (h : Kept s0 s) (b : BringUp) :
    Kept s0 (measure b s) := by
  simp (maxDischargeDepth := 30) +contextual [measure, h]
@[simp] theorem logBoot_kept {s0 s : State} (h : Kept s0 s) : Kept s0 (logBoot s) := by
  unfold logBoot
  extract_lets n src s1
  have h1 : Kept s0 s1 := by
    apply extendLog_kept
    refine h.trans ⟨rfl, fun i => ?_⟩
    obtain ⟨i1, i2, i3, i4, i5, i6, i7, i8⟩ := i
    have hn : n < 2 ^ 64 ∧ s.sec.bootCount ≤ n := by simp only [n, satAdd]; omega
    exact ⟨⟨i1, i2, i3, i4, i5, i6, hn.1, i8⟩, fun _ k g => ⟨k, g, fun g => ⟨rfl, .inl g⟩, fun _ => rfl⟩, hn.2, Nat.le_refl _, fun _ g => g⟩
  simp [h1]
@[simp] theorem failUnit_kept {s0 s : State} (h : Kept s0 s) (u : UnitId) :
    Kept s0 (failUnit s u) := by
  simp (maxDischargeDepth := 30) +contextual [failUnit, h]
@[simp] theorem bringUp_kept {s0 s : State} (h : Kept s0 s) (b : BringUp) : Kept s0 (bringUp b s) := by
  unfold bringUp
  extract_lets s1 s2
  have h1 : Kept s0 s1 := readStraps_kept (measure_kept (logBoot_kept h) _) _
  have h2 : Kept s0 s2 := kept_foldl _ _ h1 fun t d ht => switchDomain_kept ht d
  have h3 : Kept s0 (takeFree s2).2 := takeFree_kept h2
  clear_value s2
  have h5 : ∀ x, Kept s0 x → Kept s0 (if b.leak then opLeak (b.failed.foldl failUnit x) else b.failed.foldl failUnit x) := by
    intro x hx
    have hf : Kept s0 (b.failed.foldl failUnit x) := kept_foldl _ _ hx fun t u ht => failUnit_kept ht u
    split
    · exact opLeak_kept hf
    · exact hf
  refine h5 _ (h3.trans ⟨rfl, fun i => ?_⟩)
  obtain ⟨i1, i2, -, i4⟩ := i
  exact ⟨⟨i1, i2, Nat.le_of_ble_eq_true rfl, i4⟩, FusesKept.refl _⟩
@[simp] theorem opResetNRelease_kept {s0 s : State} (h : Kept s0 s) (b : BringUp) :
    Kept s0 (opResetNRelease b s) := by
  simp (maxDischargeDepth := 30) +contextual [opResetNRelease, h]
@[simp] theorem execResetNRelease_kept {s0 s : State} (h : Kept s0 s) (b : BringUp) :
    KeptO s0 (execResetNRelease b s) := by
  simp (maxDischargeDepth := 30) +contextual [execResetNRelease, h]
@[simp] theorem opResetNAssert_kept {s0 s : State} (h : Kept s0 s) :
    Kept s0 (opResetNAssert s) := by
  simp (maxDischargeDepth := 30) +contextual [opResetNAssert, h]
@[simp] theorem execResetNAssert_kept {s0 s : State} (h : Kept s0 s) :
    KeptO s0 (execResetNAssert s) := by
  simp (maxDischargeDepth := 30) +contextual [execResetNAssert, h]
@[simp] theorem opHoldupEnd_kept {s0 s : State} (h : Kept s0 s) :
    Kept s0 (opHoldupEnd s) := by
  simp (maxDischargeDepth := 30) +contextual [opHoldupEnd, h]
@[simp] theorem execHoldupEnd_kept {s0 s : State} (h : Kept s0 s) :
    KeptO s0 (execHoldupEnd s) := by
  simp (maxDischargeDepth := 30) +contextual [execHoldupEnd, h]
@[simp] theorem opPowerOn_kept {s0 s : State} (h : Kept s0 s) (b : BringUp) :
    Kept s0 (opPowerOn b s) := by
  simp (maxDischargeDepth := 30) +contextual [opPowerOn, h]
@[simp] theorem execPowerOn_kept {s0 s : State} (h : Kept s0 s) (b : BringUp) :
    KeptO s0 (execPowerOn b s) := by
  simp (maxDischargeDepth := 30) +contextual [execPowerOn, h]
@[simp] theorem opSidebandBusHeld_kept {s0 s : State} (h : Kept s0 s) :
    Kept s0 (opSidebandBusHeld s) := by
  simp (maxDischargeDepth := 30) +contextual [opSidebandBusHeld, h]
@[simp] theorem execSidebandBusHeld_kept {s0 s : State} (h : Kept s0 s) :
    KeptO s0 (execSidebandBusHeld s) := by
  simp (maxDischargeDepth := 30) +contextual [execSidebandBusHeld, h]
@[simp] theorem opI3cBusFree_kept {s0 s : State} (h : Kept s0 s) :
    Kept s0 (opI3cBusFree s) := by
  simp (maxDischargeDepth := 30) +contextual [opI3cBusFree, h]
@[simp] theorem execI3cBusFree_kept {s0 s : State} (h : Kept s0 s) :
    KeptO s0 (execI3cBusFree s) := by
  simp (maxDischargeDepth := 30) +contextual [execI3cBusFree, h]
@[simp] theorem opI3cDynamicAddress_kept {s0 s : State} (h : Kept s0 s) (addr : Byte) :
    Kept s0 (opI3cDynamicAddress addr s) := by
  simp (maxDischargeDepth := 30) +contextual [opI3cDynamicAddress, h]
@[simp] theorem execI3cDynamicAddress_kept {s0 s : State} (h : Kept s0 s) (addr : Byte) :
    KeptO s0 (execI3cDynamicAddress addr s) := by
  simp (maxDischargeDepth := 30) +contextual [execI3cDynamicAddress, h]
@[simp] theorem mctpAnswer_kept {s0 s : State} (h : Kept s0 s) (cmd : Nat) (code : Nat) (body : List Byte) :
    Kept s0 (mctpAnswer s cmd code body) := by
  simp (maxDischargeDepth := 30) +contextual [mctpAnswer, h]
@[simp] theorem opSetEndpointId_kept {s0 s : State} (h : Kept s0 s) (eid : Byte) :
    Kept s0 (opSetEndpointId eid s) := by
  simp (maxDischargeDepth := 30) +contextual [opSetEndpointId, h]
@[simp] theorem execSetEndpointId_kept {s0 s : State} (h : Kept s0 s) (eid : Byte) :
    KeptO s0 (execSetEndpointId eid s) := by
  simp (maxDischargeDepth := 30) +contextual [execSetEndpointId, h]
@[simp] theorem opGetEndpointId_kept {s0 s : State} (h : Kept s0 s) :
    Kept s0 (opGetEndpointId s) := by
  simp (maxDischargeDepth := 30) +contextual [opGetEndpointId, h]
@[simp] theorem execGetEndpointId_kept {s0 s : State} (h : Kept s0 s) :
    KeptO s0 (execGetEndpointId s) := by
  simp (maxDischargeDepth := 30) +contextual [execGetEndpointId, h]
@[simp] theorem opGetMctpVersionSupport_kept {s0 s : State} (h : Kept s0 s) :
    Kept s0 (opGetMctpVersionSupport s) := by
  simp (maxDischargeDepth := 30) +contextual [opGetMctpVersionSupport, h]
@[simp] theorem execGetMctpVersionSupport_kept {s0 s : State} (h : Kept s0 s) :
    KeptO s0 (execGetMctpVersionSupport s) := by
  simp (maxDischargeDepth := 30) +contextual [execGetMctpVersionSupport, h]
@[simp] theorem opGetMessageTypeSupport_kept {s0 s : State} (h : Kept s0 s) :
    Kept s0 (opGetMessageTypeSupport s) := by
  simp (maxDischargeDepth := 30) +contextual [opGetMessageTypeSupport, h]
@[simp] theorem execGetMessageTypeSupport_kept {s0 s : State} (h : Kept s0 s) :
    KeptO s0 (execGetMessageTypeSupport s) := by
  simp (maxDischargeDepth := 30) +contextual [execGetMessageTypeSupport, h]
@[simp] theorem opGetVendorDefinedMessageSupport_kept {s0 s : State} (h : Kept s0 s) :
    Kept s0 (opGetVendorDefinedMessageSupport s) := by
  simp (maxDischargeDepth := 30) +contextual [opGetVendorDefinedMessageSupport, h]
@[simp] theorem execGetVendorDefinedMessageSupport_kept {s0 s : State} (h : Kept s0 s) :
    KeptO s0 (execGetVendorDefinedMessageSupport s) := by
  simp (maxDischargeDepth := 30) +contextual [execGetVendorDefinedMessageSupport, h]

end Sys2Proof.Machine
end

