-- ==== Sys2Proof/Laws/KeptHoistlink.lean ====
section
/-! SUPPORT. What the operations of Hoistlink.lean keep. -/

namespace Sys2Proof.Machine

/-- Hoistlink in another legal STATE. -/
theorem kept_hl {s0 s : State} (h : Kept s0 s) (x : HlState) (b : BootState) (hx : x.st ≤ 5) : Kept s0 { s with hl := x, boot := b } := by
  refine h.trans ⟨rfl, fun i => ?_⟩
  obtain ⟨i1, i2, -, i4⟩ := i
  exact ⟨⟨i1, i2, hx, i4⟩, FusesKept.refl _⟩
theorem hlDown_kept {s0 s : State} (h : Kept s0 s) (st : Nat) (hs : st ≤ 5) : Kept s0 (hlDown s st) :=
  faultEvent_kept (kept_hl h _ s.boot hs) _ _
@[simp] theorem hlRetrain_kept {s0 s : State} (h : Kept s0 s) : Kept s0 (hlRetrain s) := by
  unfold hlRetrain
  split
  · exact faultEvent_kept (kept_hl h _ s.boot (Nat.le_of_ble_eq_true rfl)) _ _
  · exact h
@[simp] theorem hlResume_kept {s0 s : State} (h : Kept s0 s) :
    Kept s0 (hlResume s) := by
  simp (maxDischargeDepth := 30) +contextual [hlResume, h]
@[simp] theorem hlTrain_kept {s0 s : State} (h : Kept s0 s) (t : HlTrain) : Kept s0 (hlTrain t s) := by
  unfold hlTrain
  extract_lets lanes src hl fails first h1 h2 clock src2 s1
  have hf : ∀ (x : HlState) (st : Nat), st ≤ 5 → Kept s0 (fails x st) := by
    intro x st hst
    simp only [fails]
    split
    · exact faultEvent_kept (kept_hl h _ s.boot hst) _ _
    · exact kept_hl h _ s.boot hst
  split
  · exact hf _ _ (Nat.le_of_ble_eq_true rfl)
  · split
    · exact hf _ _ (Nat.le_of_ble_eq_true rfl)
    · have e : h2.st = 2 := by simp only [h2]; split <;> rfl
      have g : Kept s0 s1 := kept_hl h _ _ (by omega)
      split
      · exact hlResume_kept g
      · exact g
@[simp] theorem opHlTraining_kept {s0 s : State} (h : Kept s0 s) (t : HlTrain) :
    Kept s0 (opHlTraining t s) := by
  simp (maxDischargeDepth := 30) +contextual [opHlTraining, h]
@[simp] theorem execHlTraining_kept {s0 s : State} (h : Kept s0 s) (t : HlTrain) :
    KeptO s0 (execHlTraining t s) := by
  simp (maxDischargeDepth := 30) +contextual [execHlTraining, h]
@[simp] theorem opHlTrainRetry_kept {s0 s : State} (h : Kept s0 s) (t : HlTrain) :
    Kept s0 (opHlTrainRetry t s) := by
  simp (maxDischargeDepth := 30) +contextual [opHlTrainRetry, h]
@[simp] theorem execHlTrainRetry_kept {s0 s : State} (h : Kept s0 s) (t : HlTrain) :
    KeptO s0 (execHlTrainRetry t s) := by
  simp (maxDischargeDepth := 30) +contextual [execHlTrainRetry, h]
@[simp] theorem opHlFlitCrcFail_kept {s0 s : State} (h : Kept s0 s) :
    Kept s0 (opHlFlitCrcFail s) := by
  unfold opHlFlitCrcFail
  try simp only []
  repeat' split
  all_goals simp (maxDischargeDepth := 30) +contextual [h]
@[simp] theorem execHlFlitCrcFail_kept {s0 s : State} (h : Kept s0 s) :
    KeptO s0 (execHlFlitCrcFail s) := by
  simp (maxDischargeDepth := 30) +contextual [execHlFlitCrcFail, h]
@[simp] theorem opHlRetrain_kept {s0 s : State} (h : Kept s0 s) :
    Kept s0 (opHlRetrain s) := by
  simp (maxDischargeDepth := 30) +contextual [opHlRetrain, h]
@[simp] theorem execHlRetrain_kept {s0 s : State} (h : Kept s0 s) :
    KeptO s0 (execHlRetrain s) := by
  simp (maxDischargeDepth := 30) +contextual [execHlRetrain, h]
@[simp] theorem opHlLaneFail_kept {s0 s : State} (h : Kept s0 s) (lane : Nat) : Kept s0 (opHlLaneFail lane s) := by
  unfold opHlLaneFail
  simp only []
  split
  · exact h
  · split
    · exact hlDown_kept h 4 (by omega)
    · simp (maxDischargeDepth := 9) [h]
@[simp] theorem execHlLaneFail_kept {s0 s : State} (h : Kept s0 s) (lane : Nat) :
    KeptO s0 (execHlLaneFail lane s) := by
  simp (maxDischargeDepth := 30) +contextual [execHlLaneFail, h]
@[simp] theorem opHlRefclkLoss_kept {s0 s : State} (h : Kept s0 s) (partnerGood : Bool) : Kept s0 (opHlRefclkLoss partnerGood s) := by
  unfold opHlRefclkLoss
  simp only []
  split
  · exact h
  · split
    · simp (maxDischargeDepth := 9) [h]
    · split
      · exact hlDown_kept (by simp only [kept_mk, kept_fold]; exact h) 0 (by omega)
      · exact kept_hl h _ _ (Nat.zero_le _)
@[simp] theorem execHlRefclkLoss_kept {s0 s : State} (h : Kept s0 s) (partnerGood : Bool) :
    KeptO s0 (execHlRefclkLoss partnerGood s) := by
  simp (maxDischargeDepth := 30) +contextual [execHlRefclkLoss, h]
@[simp] theorem opHlCompanionStateLoss_kept {s0 s : State} (h : Kept s0 s) :
    Kept s0 (opHlCompanionStateLoss s) := by
  simp (maxDischargeDepth := 30) +contextual [opHlCompanionStateLoss, h]
@[simp] theorem execHlCompanionStateLoss_kept {s0 s : State} (h : Kept s0 s) :
    KeptO s0 (execHlCompanionStateLoss s) := by
  simp (maxDischargeDepth := 30) +contextual [execHlCompanionStateLoss, h]
@[simp] theorem creditReturn_kept {s0 s : State} (h : Kept s0 s) (vc : Nat) (count : Nat) :
    Kept s0 (creditReturn s vc count) := by
  simp (maxDischargeDepth := 30) +contextual [creditReturn, h]
@[simp] theorem opHlCreditReturn_kept {s0 s : State} (h : Kept s0 s) (vc : Nat) (count : Nat) :
    Kept s0 (opHlCreditReturn vc count s) := by
  simp (maxDischargeDepth := 30) +contextual [opHlCreditReturn, h]
@[simp] theorem execHlCreditReturn_kept {s0 s : State} (h : Kept s0 s) (vc : Nat) (count : Nat) :
    KeptO s0 (execHlCreditReturn vc count s) := by
  simp (maxDischargeDepth := 30) +contextual [execHlCreditReturn, h]

end Sys2Proof.Machine
end

