-- ==== Sys2Proof/Laws/KeptRegisters.lean ====
section
/-! SUPPORT. What the operations of Registers.lean keep. -/

namespace Sys2Proof.Machine

@[simp] theorem noteMgmt_kept {s0 s : State} (h : Kept s0 s) (code : Nat) (off : Nat) :
    Kept s0 (noteMgmt s code off) := by
  simp (maxDischargeDepth := 30) +contextual [noteMgmt, h]
@[simp] theorem writeLampCtl_kept {s0 s : State} (h : Kept s0 s) (c : Nat) (v : Nat) :
    Kept s0 (writeLampCtl s c v) := by
  simp (maxDischargeDepth := 30) +contextual [writeLampCtl, h]
@[simp] theorem writeHeadframe_kept {s0 s : State} (h : Kept s0 s) (rel : Nat) (v : Nat) :
    Kept s0 (writeHeadframe s rel v) := by
  simp (maxDischargeDepth := 30) +contextual [writeHeadframe, h]
@[simp] theorem writeHoistlink_kept {s0 s : State} (h : Kept s0 s) (rel : Nat) (v : Nat) :
    Kept s0 (writeHoistlink s rel v) := by
  simp (maxDischargeDepth := 30) +contextual [writeHoistlink, h]
@[simp] theorem writeEngines_kept {s0 s : State} (h : Kept s0 s) (page : Nat) (rel : Nat) (v : Nat) :
    Kept s0 (writeEngines s page rel v) := by
  simp (maxDischargeDepth := 30) +contextual [writeEngines, h]
@[simp] theorem writeCage_kept {s0 s : State} (h : Kept s0 s) (rel : Nat) (v : Nat) :
    Kept s0 (writeCage s rel v) := by
  simp (maxDischargeDepth := 30) +contextual [writeCage, h]
@[simp] theorem writeHaulage_kept {s0 s : State} (h : Kept s0 s) (page : Nat) (rel : Nat) (v : Nat) :
    Kept s0 (writeHaulage s page rel v) := by
  simp (maxDischargeDepth := 30) +contextual [writeHaulage, h]
@[simp] theorem writeTrace_kept {s0 s : State} (h : Kept s0 s) (rel : Nat) (v : Nat) :
    Kept s0 (writeTrace s rel v) := by
  unfold writeTrace
  repeat' split
  all_goals simp (maxDischargeDepth := 30) +contextual [h]
@[simp] theorem writeSecurity_kept {s0 s : State} (h : Kept s0 s) (rel : Nat) (v : Nat) :
    Kept s0 (writeSecurity s rel v) := by
  simp (maxDischargeDepth := 30) +contextual [writeSecurity, h]
@[simp] theorem writeBank_kept {s0 s : State} (h : Kept s0 s) (b : Nat) (rel : Nat) (v : Nat) :
    Kept s0 (writeBank s b rel v) := by
  simp (maxDischargeDepth := 30) +contextual [writeBank, h]
@[simp] theorem writeSeamDie_kept {s0 s : State} (h : Kept s0 s) (n : Nat) (rel : Nat) (v : Nat) :
    Kept s0 (writeSeamDie s n rel v) := by
  simp (maxDischargeDepth := 30) +contextual [writeSeamDie, h]
@[simp] theorem adRetrain_kept {s0 s : State} (h : Kept s0 s) (l : Nat) :
    Kept s0 (adRetrain s l) := by
  simp (maxDischargeDepth := 30) +contextual [adRetrain, h]
@[simp] theorem retrainLink_kept {s0 s : State} (h : Kept s0 s) (l : Nat) :
    Kept s0 (retrainLink s l) := by
  simp (maxDischargeDepth := 30) +contextual [retrainLink, h]
@[simp] theorem writeGroup_kept {s0 s : State} (h : Kept s0 s) (g : Nat) (rel : Nat) (v : Nat) :
    Kept s0 (writeGroup s g rel v) := by
  simp (maxDischargeDepth := 30) +contextual [writeGroup, h]
@[simp] theorem writeReg_kept {s0 s : State} (h : Kept s0 s) (off v : Nat) : Kept s0 (writeReg s off v) := by
  unfold writeReg
  extract_lets rel page
  clear_value rel page
  repeat' with_reducible refine (kept_ite _).2 ⟨fun _ => ?_, fun _ => ?_⟩
  all_goals first
    | exact h
    | exact writeHeadframe_kept h _ _
    | exact writeHoistlink_kept h _ _
    | exact writeEngines_kept h _ _ _
    | exact writeCage_kept h _ _
    | exact writeHaulage_kept h _ _ _
    | exact writeTrace_kept h _ _
    | exact writeSecurity_kept h _ _
    | exact writeBank_kept h _ _ _
    | exact writeSeamDie_kept h _ _ _
    | exact writeGroup_kept h _ _ _
    | simpa only [kept_mk, kept_fold] using h
@[simp] theorem mgmtWrite_kept {s0 s : State} (h : Kept s0 s) (width : Nat) (off : Nat) (v : Nat) :
    Kept s0 (mgmtWrite s width off v).2 := by
  simp (maxDischargeDepth := 30) +contextual [mgmtWrite, h]
@[simp] theorem mgmtRead_kept {s0 s : State} (h : Kept s0 s) (width : Nat) (off : Nat) :
    Kept s0 (mgmtRead s width off).2.2 := by
  unfold mgmtRead
  try simp only []
  repeat' split
  all_goals simp (maxDischargeDepth := 30) +contextual [h]
@[simp] theorem opRegisterWrite_kept {s0 s : State} (h : Kept s0 s) (offset : BitVec 26) (width : Nat) (value : Option W64) :
    Kept s0 (opRegisterWrite offset width value s) := by
  unfold opRegisterWrite
  try simp only []
  repeat' split
  all_goals simp (maxDischargeDepth := 30) +contextual [h]
@[simp] theorem execRegisterWrite_kept {s0 s : State} (h : Kept s0 s) (offset : BitVec 26) (width : Nat) (value : Option W64) :
    KeptO s0 (execRegisterWrite offset width value s) := by
  simp (maxDischargeDepth := 30) +contextual [execRegisterWrite, h]
@[simp] theorem opMgmtAccessTimeout_kept {s0 s : State} (h : Kept s0 s) (offset : BitVec 26) :
    Kept s0 (opMgmtAccessTimeout offset s) := by
  simp (maxDischargeDepth := 30) +contextual [opMgmtAccessTimeout, h]
@[simp] theorem execMgmtAccessTimeout_kept {s0 s : State} (h : Kept s0 s) (offset : BitVec 26) :
    KeptO s0 (execMgmtAccessTimeout offset s) := by
  simp (maxDischargeDepth := 30) +contextual [execMgmtAccessTimeout, h]
@[simp] theorem sidebandAnswer_kept {s0 s : State} (h : Kept s0 s) (code : Nat) (data : Nat) :
    Kept s0 (sidebandAnswer s code data) := by
  simp (maxDischargeDepth := 30) +contextual [sidebandAnswer, h]
@[simp] theorem opRead8_kept {s0 s : State} (h : Kept s0 s) (offset : W32) :
    Kept s0 (opRead8 offset s) := by
  simp (maxDischargeDepth := 30) +contextual [opRead8, h]
@[simp] theorem execRead8_kept {s0 s : State} (h : Kept s0 s) (offset : W32) :
    KeptO s0 (execRead8 offset s) := by
  simp (maxDischargeDepth := 30) +contextual [execRead8, h]
@[simp] theorem opWrite8_kept {s0 s : State} (h : Kept s0 s) (offset : W32) (value : W64) :
    Kept s0 (opWrite8 offset value s) := by
  simp (maxDischargeDepth := 30) +contextual [opWrite8, h]
@[simp] theorem execWrite8_kept {s0 s : State} (h : Kept s0 s) (offset : W32) (value : W64) :
    KeptO s0 (execWrite8 offset value s) := by
  simp (maxDischargeDepth := 30) +contextual [execWrite8, h]
@[simp] theorem opMgmt_kept {s0 s : State} (h : Kept s0 s) (a : MgmtAccess) :
    Kept s0 (opMgmt a s) := by
  unfold opMgmt
  try simp only []
  repeat' split
  all_goals simp (maxDischargeDepth := 30) +contextual [h]
@[simp] theorem execMgmt_kept {s0 s : State} (h : Kept s0 s) (a : MgmtAccess) :
    KeptO s0 (execMgmt a s) := by
  simp (maxDischargeDepth := 30) +contextual [execMgmt, h]

end Sys2Proof.Machine
end

