-- ==== Sys2Proof/Laws/KeptAditLinks.lean ====
section
/-! SUPPORT. What the operations of AditLinks.lean keep. -/

namespace Sys2Proof.Machine

@[simp] theorem trainFails_kept {s0 s : State} (h : Kept s0 s) (l st : Nat) (f : AditLink → AditLink) (hs : st ≤ 6)
    (hf : ∀ x : AditLink, x.st ≤ 6 → (f x).st ≤ 6) : Kept s0 (trainFails s l st f) := modLink_kept (linkDown_kept h l st hs) l f hf
@[simp] theorem notePeer_kept {s0 s : State} (h : Kept s0 s) (c : Nat) (i : AdIdentity) :
    Kept s0 (notePeer s c i) := by
  simp (maxDischargeDepth := 30) +contextual [notePeer, h]
@[simp] theorem adIdentify_kept {s0 s : State} (h : Kept s0 s) (c l : Nat) (i : AdIdentity) (note : AditLink → AditLink)
    (hn : ∀ x : AditLink, x.st ≤ 6 → (note x).st ≤ 6) :
    Kept s0 (adIdentify s c l i note) := by
  unfold adIdentify
  extract_lets x code same up grant clock s1
  split
  · exact trainFails_kept h l 6 _ (by omega) fun x hx => hn x hx
  · refine linkIsUp_kept (notePeer_kept ?_ c i) l
    exact modLink_kept (by simp (maxDischargeDepth := 30) [h]) l _ fun y _ => by simp only [grant, up]; split <;> simp
@[simp] theorem adTrain_kept {s0 s : State} (h : Kept s0 s) (c : Nat) (l : Nat) (t : AdTrain) :
    Kept s0 (adTrain s c l t) := by
  unfold adTrain
  extract_lets lanes note
  split
  · exact trainFails_kept h l 4 _ (by omega) fun x hx => hx
  · split
    · exact trainFails_kept h l 5 _ (by omega) fun x hx => hx
    · exact adIdentify_kept h c l _ _ fun x hx => hx
@[simp] theorem adRetry_kept {s0 s : State} (h : Kept s0 s) (c : Nat) (l : Nat) (t : AdTrain) : Kept s0 (adRetry s c l t) := by
  unfold adRetry
  extract_lets x
  split
  · exact adIdentify_kept h c l _ _ fun x hx => hx
  · exact adTrain_kept h c l t
@[simp] theorem trainIn_kept {s0 s : State} (h : Kept s0 s) (l : Nat) (t : AdTrain) (sts : List Nat) :
    Kept s0 (trainIn l t sts s) := by
  unfold trainIn
  try simp only []
  repeat' split
  all_goals simp (maxDischargeDepth := 30) +contextual [h]
@[simp] theorem opAdTraining_kept {s0 s : State} (h : Kept s0 s) (link : Nat) (t : AdTrain) :
    Kept s0 (opAdTraining link t s) := by
  simp (maxDischargeDepth := 30) +contextual [opAdTraining, h]
@[simp] theorem execAdTraining_kept {s0 s : State} (h : Kept s0 s) (link : Nat) (t : AdTrain) :
    KeptO s0 (execAdTraining link t s) := by
  simp (maxDischargeDepth := 30) +contextual [execAdTraining, h]
@[simp] theorem opAdTrainRetry_kept {s0 s : State} (h : Kept s0 s) (link : Nat) (t : AdTrain) :
    Kept s0 (opAdTrainRetry link t s) := by
  simp (maxDischargeDepth := 30) +contextual [opAdTrainRetry, h]
@[simp] theorem execAdTrainRetry_kept {s0 s : State} (h : Kept s0 s) (link : Nat) (t : AdTrain) :
    KeptO s0 (execAdTrainRetry link t s) := by
  simp (maxDischargeDepth := 30) +contextual [execAdTrainRetry, h]
@[simp] theorem opAdRetrain_kept {s0 s : State} (h : Kept s0 s) (link : Nat) :
    Kept s0 (opAdRetrain link s) := by
  simp (maxDischargeDepth := 30) +contextual [opAdRetrain, h]
@[simp] theorem execAdRetrain_kept {s0 s : State} (h : Kept s0 s) (link : Nat) :
    KeptO s0 (execAdRetrain link s) := by
  simp (maxDischargeDepth := 30) +contextual [execAdRetrain, h]
@[simp] theorem opAdFlitCrcFail_kept {s0 s : State} (h : Kept s0 s) (link : Nat) (again : Bool) (corrected : Nat) :
    Kept s0 (opAdFlitCrcFail link again corrected s) := by
  simp (maxDischargeDepth := 30) +contextual [opAdFlitCrcFail, h]
@[simp] theorem execAdFlitCrcFail_kept {s0 s : State} (h : Kept s0 s) (flit : BadFlit) :
    KeptO s0 (execAdFlitCrcFail flit s) := by
  simp (maxDischargeDepth := 30) +contextual [execAdFlitCrcFail, h]
@[simp] theorem opAdLaneFail_kept {s0 s : State} (h : Kept s0 s) (link : Nat) (lane : Nat) :
    Kept s0 (opAdLaneFail link lane s) := by
  simp (maxDischargeDepth := 30) +contextual [opAdLaneFail, h]
@[simp] theorem execAdLaneFail_kept {s0 s : State} (h : Kept s0 s) (link : Nat) (lane : Nat) :
    KeptO s0 (execAdLaneFail link lane s) := by
  simp (maxDischargeDepth := 30) +contextual [execAdLaneFail, h]
@[simp] theorem opAdRefclkLoss_kept {s0 s : State} (h : Kept s0 s) (partnerGood : Bool) :
    Kept s0 (opAdRefclkLoss partnerGood s) := by
  simp (maxDischargeDepth := 30) +contextual [opAdRefclkLoss, h]
@[simp] theorem execAdRefclkLoss_kept {s0 s : State} (h : Kept s0 s) (partnerGood : Bool) :
    KeptO s0 (execAdRefclkLoss partnerGood s) := by
  simp (maxDischargeDepth := 30) +contextual [execAdRefclkLoss, h]
@[simp] theorem returnCredits_kept {s0 s : State} (h : Kept s0 s) (c : Nat) (l : Nat) (cls : Nat) (i : AdIdentity) (m : AdMsg) (ack : Bool) :
    Kept s0 (returnCredits s c l cls i m ack) := by
  simp (maxDischargeDepth := 30) +contextual [returnCredits, h]
@[simp] theorem takeMsg_kept {s0 s : State} (h : Kept s0 s) (l cls : Nat) (m : AdMsg) (act : State → Nat → State)
    (ha : ∀ t c, Kept s0 t → Kept s0 (act t c)) : Kept s0 (takeMsg s l cls m act) := by
  unfold takeMsg
  split
  · exact h
  · split
    · exact h
    · split
      · exact modLink_kept (returnCredits_kept h _ _ _ _ _ _) _ _ (fun _ hx => hx)
      · extract_lets p s1
        have h1 : Kept s0 s1 := returnCredits_kept h _ _ _ _ _ _
        split
        · exact h1
        · exact ha _ _ (modGang_kept h1 _ _)
@[simp] theorem answerMsg_kept {s0 s : State} (h : Kept s0 s) (c : Nat) (cls : Nat) (m : AdMsg) (payload : List Byte) :
    Kept s0 (answerMsg s c cls m payload) := by
  simp (maxDischargeDepth := 30) +contextual [answerMsg, h]
@[simp] theorem serveQuery_kept {s0 s : State} (h : Kept s0 s) (l : Nat) (m : AdMsg) (epoch : Nat) (c : Nat) :
    Kept s0 (serveQuery s l m epoch c) := by
  unfold serveQuery
  try simp only []
  repeat' split
  all_goals simp (maxDischargeDepth := 30) +contextual [h]
@[simp] theorem serveFetch_kept {s0 s : State} (h : Kept s0 s) (m : AdMsg) (c : Nat) :
    Kept s0 (serveFetch s m c) := by
  unfold serveFetch
  try simp only []
  repeat' split
  all_goals simp (maxDischargeDepth := 30) +contextual [h]
@[simp] theorem serveScatter_kept {s0 s : State} (h : Kept s0 s) (m : AdMsg) (c : Nat) :
    Kept s0 (serveScatter s m c) := by
  simp (maxDischargeDepth := 30) +contextual [serveScatter, h]
@[simp] theorem serveWork_kept {s0 s : State} (h : Kept s0 s) (l : Nat) (cls : Nat) (m : AdMsg) (epoch : Nat) :
    Kept s0 (serveWork s l cls m epoch) := by
  simp (maxDischargeDepth := 30) +contextual [serveWork, h]
@[simp] theorem serveHeld_kept {s0 s : State} (h : Kept s0 s) :
    Kept s0 (serveHeld s) := by
  simp (maxDischargeDepth := 30) +contextual [serveHeld, h]
@[simp] theorem recvWork_kept {s0 s : State} (h : Kept s0 s) (l : Nat) (cls : Nat) (m : AdMsg) :
    Kept s0 (recvWork s l cls m) := by
  simp (maxDischargeDepth := 30) +contextual [recvWork, h]
@[simp] theorem opQuery_kept {s0 s : State} (h : Kept s0 s) (link : Nat) (m : AdMsg) :
    Kept s0 (opQuery link m s) := by
  simp (maxDischargeDepth := 30) +contextual [opQuery, h]
@[simp] theorem opFetch_kept {s0 s : State} (h : Kept s0 s) (link : Nat) (m : AdMsg) :
    Kept s0 (opFetch link m s) := by
  simp (maxDischargeDepth := 30) +contextual [opFetch, h]
@[simp] theorem opScatter_kept {s0 s : State} (h : Kept s0 s) (link : Nat) (m : AdMsg) :
    Kept s0 (opScatter link m s) := by
  simp (maxDischargeDepth := 30) +contextual [opScatter, h]
@[simp] theorem execQuery_kept {s0 s : State} (h : Kept s0 s) (link : Nat) (m : AdMsg) :
    KeptO s0 (execQuery link m s) := by
  simp (maxDischargeDepth := 30) +contextual [execQuery, h]
@[simp] theorem execFetch_kept {s0 s : State} (h : Kept s0 s) (link : Nat) (m : AdMsg) :
    KeptO s0 (execFetch link m s) := by
  simp (maxDischargeDepth := 30) +contextual [execFetch, h]
@[simp] theorem execScatter_kept {s0 s : State} (h : Kept s0 s) (link : Nat) (m : AdMsg) :
    KeptO s0 (execScatter link m s) := by
  simp (maxDischargeDepth := 30) +contextual [execScatter, h]
@[simp] theorem opCancel_kept {s0 s : State} (h : Kept s0 s) (link : Nat) (m : AdMsg) :
    Kept s0 (opCancel link m s) := by
  simp (maxDischargeDepth := 30) +contextual [opCancel, h]
@[simp] theorem execCancel_kept {s0 s : State} (h : Kept s0 s) (link : Nat) (m : AdMsg) :
    KeptO s0 (execCancel link m s) := by
  simp (maxDischargeDepth := 30) +contextual [execCancel, h]
@[simp] theorem countLate_kept {s0 s : State} (h : Kept s0 s) (c : Nat) :
    Kept s0 (countLate s c) := by
  unfold countLate
  try simp only []
  repeat' first
    | assumption
    | (intro _)
    | (simp only [])
    | (simp (maxDischargeDepth := 30) +contextual [*]; done)
    | split
    | apply kept_foldl
    | apply kept_foldl_fst
    | apply kept_foldl_snd
    | apply modGang_kept
    | (simp only [kept_mk, kept_fold])
@[simp] theorem homeMsg_kept {s0 s : State} (h : Kept s0 s) (l cls ask : Nat) (m : AdMsg) (act : State → Nat → Req → Await → State)
    (ha : ∀ t n r a, Kept s0 t → Kept s0 (act t n r a)) : Kept s0 (homeMsg s l cls ask m act) := by
  unfold homeMsg
  refine takeMsg_kept h _ _ _ _ fun t c ht => ?_
  extract_lets n asked ad s1
  split
  · exact countLate_kept ht c
  · split
    · exact countLate_kept ht c
    · have h1 : Kept s0 s1 := by simp only [s1, kept_mk]; exact ht
      clear_value s1 ad asked
      split
      · exact commitReq_kept (modLink_kept h1 _ _ (by simp)) _ _ _
      · split
        · exact ht
        · exact ha _ _ _ _ h1
@[simp] theorem opAnswer_kept {s0 s : State} (h : Kept s0 s) (link : Nat) (m : AdMsg) :
    Kept s0 (opAnswer link m s) := by
  unfold opAnswer
  try simp only []
  repeat' first
    | assumption
    | (intro _)
    | (simp only [])
    | (simp (maxDischargeDepth := 30) +contextual [*]; done)
    | split
    | apply kept_foldl
    | apply kept_foldl_fst
    | apply kept_foldl_snd
    | apply homeMsg_kept
    | apply modSearch_kept
    | (simp only [kept_mk, kept_fold])
@[simp] theorem execAnswer_kept {s0 s : State} (h : Kept s0 s) (link : Nat) (m : AdMsg) :
    KeptO s0 (execAnswer link m s) := by
  simp (maxDischargeDepth := 30) +contextual [execAnswer, h]
@[simp] theorem opReply_kept {s0 s : State} (h : Kept s0 s) (link : Nat) (m : AdMsg) :
    Kept s0 (opReply link m s) := by
  simp (maxDischargeDepth := 30) +contextual [opReply, h]
@[simp] theorem execReply_kept {s0 s : State} (h : Kept s0 s) (link : Nat) (m : AdMsg) :
    KeptO s0 (execReply link m s) := by
  simp (maxDischargeDepth := 30) +contextual [execReply, h]
@[simp] theorem opLiveness_kept {s0 s : State} (h : Kept s0 s) (link : Nat) :
    Kept s0 (opLiveness link s) := by
  unfold opLiveness
  try simp only []
  repeat' split
  all_goals simp (maxDischargeDepth := 30) +contextual [h]
@[simp] theorem execLiveness_kept {s0 s : State} (h : Kept s0 s) (link : Nat) :
    KeptO s0 (execLiveness link s) := by
  simp (maxDischargeDepth := 30) +contextual [execLiveness, h]
@[simp] theorem opLinkFrame_kept {s0 s : State} (h : Kept s0 s) (link : Nat) (credits : List Nat) (acked : List W32) :
    Kept s0 (opLinkFrame link credits acked s) := by
  unfold opLinkFrame
  try simp only []
  repeat' split
  all_goals simp (maxDischargeDepth := 30) +contextual [h]
@[simp] theorem execLinkFrame_kept {s0 s : State} (h : Kept s0 s) (link : Nat) (credits : List Nat) (acked : List W32) :
    KeptO s0 (execLinkFrame link credits acked s) := by
  simp (maxDischargeDepth := 30) +contextual [execLinkFrame, h]
@[simp] theorem opClass7Frame_kept {s0 s : State} (h : Kept s0 s) (link : Nat) :
    Kept s0 (opClass7Frame link s) := by
  unfold opClass7Frame
  try simp only []
  repeat' split
  all_goals simp (maxDischargeDepth := 30) +contextual [h]
@[simp] theorem execClass7Frame_kept {s0 s : State} (h : Kept s0 s) (link : Nat) :
    KeptO s0 (execClass7Frame link s) := by
  simp (maxDischargeDepth := 30) +contextual [execClass7Frame, h]
@[simp] theorem opPeerLossTimeout_kept {s0 s : State} (h : Kept s0 s) (claim : Nat) (peer : Nat) :
    Kept s0 (opPeerLossTimeout claim peer s) := by
  simp (maxDischargeDepth := 30) +contextual [opPeerLossTimeout, h]
@[simp] theorem execPeerLossTimeout_kept {s0 s : State} (h : Kept s0 s) (claim : Nat) (peer : Nat) :
    KeptO s0 (execPeerLossTimeout claim peer s) := by
  simp (maxDischargeDepth := 30) +contextual [execPeerLossTimeout, h]
@[simp] theorem opLeavingNotice_kept {s0 s : State} (h : Kept s0 s) (claim : Nat) (peer : Nat) :
    Kept s0 (opLeavingNotice claim peer s) := by
  simp (maxDischargeDepth := 30) +contextual [opLeavingNotice, h]
@[simp] theorem execLeavingNotice_kept {s0 s : State} (h : Kept s0 s) (claim : Nat) (peer : Nat) :
    KeptO s0 (execLeavingNotice claim peer s) := by
  simp (maxDischargeDepth := 30) +contextual [execLeavingNotice, h]

end Sys2Proof.Machine
end

