-- ==== Sys2Proof/WellFormed.lean ====
section
/-! DEFINITION. Which commands are well formed: their operands lie in the ranges the spec gives the things they name. What
`exec` does with an ill-formed command is defined too; the rows of the table spell only well-formed ones. -/

namespace Sys2Proof

/-- A claim of R40. -/
def claimWf (c : Nat) : Bool := decide (c < 4)

/-- A ring of R68. -/
def RingSel.wf : RingSel → Bool
  | .claim c r => claimWf c && decide (r < 256)
  | .mgmt => true

/-- A descriptor line of R71: 128 bytes from a ring of a claim. -/
def Desc.wf (d : Desc) : Bool := claimWf d.claim && decide (d.ring < 256) && d.line.length == 128

/-- A descriptor line of the management ring. -/
def MDesc.wf (m : MDesc) : Bool := m.line.length == 128

/-- The units of a class of R419. -/
def unitsOf (cls : Nat) : Nat :=
  if cls = 0 then 136 else if cls = 1 then 12 else if cls = 2 || cls = 3 then 64
  else if 4 ≤ cls && cls ≤ 0xC then 8 else if cls = 0xD then 48
  else if cls = 0xE then 17 else if cls = 0xF then 8 else if cls = 0x11 then 1 else 0

/-- A unit of R419. -/
def UnitId.wf (u : UnitId) : Bool := decide (u.idx < unitsOf u.cls)

/-- A page of a pool of R41. -/
def PageKey.wf (k : PageKey) : Bool := claimWf k.claim && decide (1 ≤ k.kind) && decide (k.kind ≤ 5)

/-- A descriptor of an Adit message (R387). -/
def AdMsg.wf (m : AdMsg) : Bool :=
  decide (m.src < 256) && decide (m.dst < 256) && decide (m.step < 256) && decide (m.home < 256) && decide (m.tenant < 65536)
    && decide (m.object < 65536)

/-- An identity of R385. -/
def AdIdentity.wf (i : AdIdentity) : Bool := decide (i.link < 48) && decide (i.claim < 4)

/-- The operand of a line of hub SRAM (R418). -/
def SramUse.wf : SramUse → Bool
  | .crusherTable v k _ => decide (v < 8) && decide (k < 3)
  | .selectorLane i => decide (i < 8)
  | .grammar c n => claimWf c && decide (n < 64)
  | .staging g _ => decide (g < 8)
  | .feeder b _ => decide (b < 17)
  | .rowCache c l _ => claimWf c && decide (l < 64)
  | .pageBuffer l => decide (l < 12)
  | .strandBuffer _ => true
  | .journal d => decide (d < 4)

/-- What poison reached (R480). -/
def PoisonTarget.wf : PoisonTarget → Bool
  | .request _ => true
  | .command r _ => r.wf
  | .image j => decide (j < 5)

/-- A reading of a re-planning pass covers the 80 domains (R398, R403). -/
def PlanReading.wf (r : PlanReading) : Bool := r.domains.length == 80

/-- What a bring-up measures names units of the module. -/
def BringUp.wf (b : BringUp) : Bool := b.failed.all UnitId.wf

/-- An Adit link, a Seam, a seam die. -/
def linkWf (l : Nat) : Bool := decide (l < 48)
def seamWf (i : Nat) : Bool := decide (i < 64)
def dieWf (d : Nat) : Bool := decide (d < 4)

/-- The well-formed commands. -/
def Instr.wf : Instr → Bool
  | .watchLineInvalidate w _ l => w.ring.wf && l.length == 128
  | .cplHeadAdvance r _ => r.wf
  | .ringEnable _ rcb => rcb.length == 128
  | .ringDrainComplete r _ => r.wf
  | .runRecipe d | .abort d | .prefixRelease d | .adapterWithdraw d | .pitPublish d | .cagePin d | .cageEvict d | .cageLoad d
  | .watchArm d | .selftestRequest d | .reservedOpcode d => d.wf
  | .prefixCreate d _ | .pitInsert d _ | .pitDelete d _ | .ledgerRowWrite d _ | .ledgerSwap d _ | .searchOnly d _
  | .flatScan d _ => d.wf
  | .adapterPublish d h => d.wf && h.length == 64
  | .imageAdjust d h => d.wf && h.length == 64
  | .imageLoad m h => m.wf && h.length == 64
  | .claimStart m | .claimEnd m | .fence m | .unfence m | .replan m | .attest m | .counterFreeze m | .reservedMgmtOpcode m => m.wf
  | .imageVerifyDone j _ | .imageApplyDone j _ => decide (j < 5)
  | .epochRecordDurable c _ | .sweepRecordRepair c _ _ _ | .sweepFree c _ | .hotNodeWindowEnd c _ _ => claimWf c
  | .ledgerSwapFlip c l | .binMigrateDone c l => claimWf c && decide (l < 64)
  | .claimEndDrained c | .searchStart c | .kvReservationGrant c | .bucketRefill c | .sketchHalving c | .binLoadWindowEnd c
  | .stagingBufferGrant c | .lampLineTimeout c => claimWf c
  | .frameAllocate c k => claimWf c && decide (1 ≤ k) && decide (k ≤ 5)
  | .unitCommandComplete c e u _ _ => claimWf c && decide (e ≤ 10) && decide (u < 64)
  | .gatherBatch c l p _ | .scatterBatch c l p _ => claimWf c && decide (l < 64) && decide (p < 8)
  | .coalescerEntryLeave u c l _ => decide (u < 2) && claimWf c && decide (l < 64)
  | .pageBufferGrant l => decide (l < 12)
  | .pageLoadDone l => l.page.wf
  | .pageLoadUe p | .lodeDramUe p | .loadDeadlineExpire _ p => p.wf
  | .writebackGranuleAck p g => p.wf && decide (g < 512)
  | .pageReadDone s _ _ | .readRebuildDone s _ _ | .pageProgramDone s _ | .programFail s _ | .collectionCopyDurable s _ => seamWf s
  | .stripeFill s g | .eraseDone s g _ => seamWf s && decide (g < 2)
  | .eraseFail s g _ d => seamWf s && decide (g < 2) && decide (d < 16)
  | .dieFailure s d => seamWf s && decide (d < 16)
  | .journalStripeProgram d | .checkpointStart d | .checkpointDone d | .seamRecovery d => dieWf d
  | .hlLaneFail l => decide (l < 16)
  | .hlCreditReturn v _ => decide (v < 3)
  | .companionReadPoison t => t.wf
  | .registerWrite _ w _ => decide (w ≤ 64)
  | .adTraining l t | .adTrainRetry l t => linkWf l && t.ident.wf
  | .adRetrain l | .liveness l | .class7Frame l | .aditCalibration l | .gateWindowAdvance l => linkWf l
  | .adFlitCrcFail f => linkWf f.link
  | .adLaneFail l n => linkWf l && decide (n < 4)
  | .aditFrameEgress l c => linkWf l && decide (c < 8)
  | .linkFrame l cs _ => linkWf l && decide (cs.length ≤ 7)
  | .query l m | .answer l m | .fetch l m | .reply l m | .scatter l m | .cancel l m => linkWf l && m.wf
  | .peerLossTimeout c p | .leavingNotice c p => claimWf c && decide (p < 32)
  | .replanPass r => r.wf
  | .selftestRun c i | .selftestDone c i _ => UnitId.wf ⟨c, i⟩
  | .powerOn b | .resetNRelease b => b.wf
  | .junctionHot d _ | .thermalLimit d | .thermalShed d => decide (d < 80)
  | .gateHangTimeout u => u.wf
  | .unitFault u c => u.wf && [2, 3, 4, 5, 8].contains c
  | .hubSramUe e => e.use.wf
  | .watchDumpWritten c a => claimWf c && decide (a < 64)
  | .keyProgram v => bits2 v 5 4 == 1
  | .keyRevoke v => bits2 v 5 4 == 2
  | .moduleFatalError c u => decide (1 ≤ c) && decide (c ≤ 8) && (u.map UnitId.wf).getD true
  | .snoopResponse _ | .streamHeadAdvance _ _ | .completionRecordWrite _ | .ringDisable _ | .prefixPrefillDone _
  | .adapterLoadDone _ | .tokenizeStep _ _ _ | .encodeStep _ _ _ | .strandRound _ _ | .strandHandoff _ _ | .labelScan _ _
  | .searchMerge _ | .featuresStep _ _ | .assay1Step _ _ | .assay2Step _ _ _ | .packStep _ _ _ | .prefillChunk _
  | .verifyStep _ _ _ | .attentionPartialMerge _ _ | .writeResultStep _ _ | .retireRelease _ | .detokenizeBatch _
  | .streamShaperGrant _ | .hlTraining _ | .hlTrainRetry _ | .hlFlitCrcFail | .hlRetrain | .hlRefclkLoss _
  | .hlCompanionStateLoss | .mgmtAccessTimeout _ | .adRefclkLoss _ | .domainSwitchGroup | .inputLoss _ | .resetNAssert
  | .coolantInletRange _ | .sensorFault _ | .leak | .pinReadbackMismatch _ | .sidebandBusHeld | .read8 _ | .write8 _ _
  | .setEndpointId _ | .getEndpointId | .getMctpVersionSupport | .getMessageTypeSupport | .getVendorDefinedMessageSupport
  | .debugRead _ | .jtagAttach _ | .bypass | .idcode | .extest | .samplePreload | .clamp | .highz | .mgmt _ | .lodeRead _
  | .holdupEnd | .coolantInletReturn _ | .testLogicReset | .i3cBusFree | .i3cDynamicAddress _ => true
where
  /-- A field of a written value. -/
  bits2 (v : W64) (hi lo : Nat) : Nat := (v.toNat >>> lo) % 2 ^ (hi + 1 - lo)

end Sys2Proof
end

