-- ==== Sys2Proof/Tests/Slice0.lean ====
section
/-! SUPPORT. Tests: the well-formedness checks, worked cases of the manual, and for each statement a state and operands that
meet its hypotheses. -/

namespace Sys2Proof.Machine.Tests

set_option Elab.async false

/-! ### A small block: running, Hoistlink UP, claim 0 RUNNING with small sections -/

/-- The claim's own section: all of the module. -/
def ownT : ClaimSec :=
  { gangMember := true, gangModuleId := 0, gangSize := 2, bankMask := 3, lodeMask := 3, arrayFloor := 8, seamMask := 3
    aditMask := 1, crusher := 1, selector := 1, timber := 1, packer := 1, assay := 1, gather := 3, face := 1, cage := 1
    haulage := 1, staging := 1, rowCache := 1, subRings := 2, cplRings := 2, slotFirst := 0, slotBlocks := 1
    adapterFirst := 0, adapterCount := 2, tenantMap := List.replicate 512 0xFF, raw := [] }

/-- Three tokens: two bytes and an EOS. -/
def vocabT : VocabSec :=
  { byteBase := 0, eos := 2, toks := [⟨0, [0x61], 0x3FFFF, false, false⟩, ⟨1, [0x62], 0x3FFFF, false, false⟩, ⟨2, [], 0x3FFFF, true, false⟩]
    stopsets := [] }

def modelT : ModelSec :=
  { kind := 0, vocab := 0, weightFormat := 3, layers := 1, dModel := 64, ffnDim := 64, qHeads := 1, kvHeads := 1, headDim := 64
    kvFormat := 0, pair := none, seqLimit := 128, crossover := 0, decodePass := 1, prefillChunk := 16, draftLen := 0
    adapterMaxRank := 0, embedLedger := 0, pool := 0, outDim := 2, ropeBase := 0, normEps := 0, kvScale := 0x3F800000
    frame0 := none, frame1 := none, frame2 := none, weightBytes := 0, weightDigest := [] }

def stepT (typ : Nat) (d0 d1 : Option Nat) : StepRec := ⟨typ, d0, d1, [0, 0, 0, 0, 0, 0, 0]⟩

def recipeT : RecipeSec :=
  { streams := true, encVocab := none, genVocab := some 0, genModel := some 0, draftModel := none, encModel := some 1
    rerankModel := none, pit := some 0, ledger := some 0, grammar := none, template := none, policeCost := 0
    maxNewTokens := 4, maxInputTokens := 16, filterBudget := 0, steps := [stepT 1 none none] }

def regionT (f n : Nat) : Region := ⟨f, n⟩

def pitT : PitSec :=
  { vecFormat := 0, metric := 0, dim := 4, degree := 4, recordSlots := 8, levels := 1, upperDegree := 4, runVocab0 := none
    runVocab1 := none, labelCount := 0, shards := 1, shardIndex := 0, seamMask := 3, flatThreshold := 0, defaultBeam := 4
    defaultStrands := 1, expandWidth := 1, upperChannel := 0, upperFirst := 0, upperBytes := 0, shardModules := 1
    chans := List.replicate 64 ⟨regionT 0 8, regionT 8 8, regionT 16 8, regionT 24 8⟩ }

def ledgerT : LedgerSec :=
  { key := 0, resident := false, scatter := true, pit := none, vocab := none, hotThreshold := 4, maxRows := 16
    maxRowBytes := 8, seamMask := 1, areas := [], formulas := [] }

def cfgT : ClaimCfg :=
  { own := ownT, pools := [(1, 64), (2, 64), (3, 64), (4, 64), (5, 64), (0x10, 16)], roster := none
    recipes := [(0, ⟨true, 0, recipeT, 0⟩)], vocabs := [(0, ⟨true, 0, vocabT, 0⟩)], merges := [], classes := [], grammars := []
    templates := [], pits := [(0, ⟨false, 0, pitT, 0⟩)], ledgers := [(0, ⟨false, 0, ledgerT, 0⟩)], models := [(0, ⟨true, 0, modelT, 0⟩)]
    shaper := none, gates := none, watch := none }

/-- An ENABLED ring of 16 lines. -/
def ringT (base rcb : Nat) : Ring :=
  { st := 1, base := base, lines := 16, cplRing := 0, rcb := rcb, n := 0, head := 0, v := 0, fetched := [] }

/-- The block, with one ring pair of claim 0 and the management pair. -/
def blockT : State :=
  { boot := { stage := 3, resetN := true, strapValid := true }
    claims := [{ st := 2, cfg := some cfgT }, {}, {}, {}]
    hl := { st := 2, laneMask := 0xFFFF, chosen := 1, vc := hlCredits
            rings := [(⟨0, false, 0⟩, ringT 4096 0), (⟨0, true, 0⟩, ringT 8192 128), (⟨4, false, 0⟩, ringT 16384 256)
                      , (⟨4, true, 0⟩, ringT 20480 384)] }
    flash := { dies := [{ st := 2 }, {}, {}, {}] }
    power := { domains := List.replicate 80 { on := true } }
    sec := { keys := [] } }

/-- A descriptor line: opcode, handle, and its bytes from 16 on. -/
def lineT (op req : Nat) (rest : List Byte) : List Byte :=
  leBytes 1 op ++ [1, 1, 0] ++ leBytes 4 req ++ List.replicate 8 0 ++ padTo 112 rest

/-- A line of claim 0, and of the management ring. -/
def descT (op req : Nat) (rest : List Byte) : Desc := { claim := 0, ring := 0, poison := false, line := lineT op req rest }
def mdescT (op : Nat) (rest : List Byte) : MDesc := { poison := false, line := lineT op 0xFFFFFFFF rest }

/-- The origin of the line, and the state once it is taken. -/
def originT (c op req : Nat) : Origin :=
  { claim := c, ring := 0, index := 0, opcode := op, req := req, cookie := 0, tenant := 0, cpl := 0 }
def takenT (s : State) (c : Nat) (line : List Byte) : State :=
  ((takeLine (if c < 4 then takeTurn s c 0 else s) ⟨c, false, 0⟩ false line).map (·.2)).getD s

/-- A request of recipe 0 in slot 0, with its first step issued. -/
def reqT : Req :=
  { claim := 0, tenant := 0, opcode := 1, origin := originT 0 1 0, desc := {}
    bind := { recipeNo := some 0, recipe := some recipeT }, steps := [{ st := 1 }] }

/-- The block with a request in slot 0. -/
def withReq (r : Req) : State := { blockT with slots := [(0, { gen := 0, occ := some r })] }

/-- The block with the sections of claim 0 changed. -/
def withCfg (g : ClaimCfg) : State := { blockT with claims := [{ st := 2, cfg := some g }, {}, {}, {}] }

set_option maxRecDepth 10000

/-! ### Well-formedness: an ill-formed command for each check -/

theorem test_wf_rings : (Instr.watchLineInvalidate ⟨.claim 4 0, false⟩ false (lineT 1 0 [])).wf = false
    ∧ (Instr.watchLineInvalidate ⟨.claim 0 256, false⟩ false (lineT 1 0 [])).wf = false
    ∧ (Instr.watchLineInvalidate ⟨.mgmt, false⟩ false []).wf = false ∧ (Instr.ringEnable 0 []).wf = false
    ∧ (Instr.watchLineInvalidate ⟨.claim 3 255, true⟩ false (lineT 1 0 [])).wf = true := by decide +kernel
theorem test_wf_descriptors : (Instr.runRecipe { claim := 4, ring := 0, poison := false, line := lineT 1 0 [] }).wf = false
    ∧ (Instr.runRecipe { claim := 0, ring := 256, poison := false, line := lineT 1 0 [] }).wf = false
    ∧ (Instr.runRecipe { claim := 0, ring := 0, poison := false, line := [] }).wf = false
    ∧ (Instr.imageLoad (mdescT 0x80 []) []).wf = false ∧ (Instr.fence { poison := false, line := [] }).wf = false
    ∧ (Instr.adapterPublish (descT 5 0 []) []).wf = false ∧ (Instr.runRecipe (descT 1 0 [])).wf = true := by decide +kernel
theorem test_wf_jobs_and_stores : (Instr.imageVerifyDone 5 ⟨[], false⟩).wf = false ∧ (Instr.epochRecordDurable 4 0).wf = false
    ∧ (Instr.ledgerSwapFlip 0 64).wf = false ∧ (Instr.frameAllocate 0 0).wf = false ∧ (Instr.frameAllocate 0 6).wf = false
    ∧ (Instr.gatherBatch 0 0 8 ⟨none, []⟩).wf = false ∧ (Instr.coalescerEntryLeave 2 0 0 0).wf = false
    ∧ (Instr.searchStart 4).wf = false := by decide +kernel
theorem test_wf_pages_and_seams : (Instr.pageLoadDone ⟨⟨0, 6, 0, 0⟩, []⟩).wf = false ∧ (Instr.writebackGranuleAck ⟨0, 1, 0, 0⟩ 512).wf = false
    ∧ (Instr.pageBufferGrant 12).wf = false ∧ (Instr.pageReadDone 64 0 .clean).wf = false ∧ (Instr.stripeFill 0 2).wf = false
    ∧ (Instr.eraseFail 0 0 0 16).wf = false ∧ (Instr.dieFailure 0 16).wf = false ∧ (Instr.seamRecovery 4).wf = false := by decide +kernel
theorem test_wf_units_and_links : (Instr.unitCommandComplete 0 11 0 1 .none).wf = false ∧ (Instr.hlLaneFail 16).wf = false
    ∧ (Instr.hlCreditReturn 3 1).wf = false ∧ (Instr.registerWrite 0 65 none).wf = false ∧ (Instr.adRetrain 48).wf = false
    ∧ (Instr.adLaneFail 0 4).wf = false ∧ (Instr.aditFrameEgress 0 8).wf = false ∧ (Instr.peerLossTimeout 0 32).wf = false
    ∧ (Instr.linkFrame 0 [0, 0, 0, 0, 0, 0, 0, 0] []).wf = false := by decide +kernel
theorem test_wf_module_events : (Instr.replanPass ⟨[], 0, 0, 0, 0⟩).wf = false ∧ (Instr.selftestRun 0 136).wf = false
    ∧ (Instr.junctionHot 80 100).wf = false ∧ (Instr.gateHangTimeout ⟨1, 12⟩).wf = false ∧ (Instr.unitFault ⟨1, 0⟩ 1).wf = false
    ∧ (Instr.hubSramUe ⟨.crusherTable 8 0 0, 0⟩).wf = false ∧ (Instr.hubSramUe ⟨.grammar 0 64, 0⟩).wf = false
    ∧ (Instr.hubSramUe ⟨.staging 8 0, 0⟩).wf = false ∧ (Instr.hubSramUe ⟨.feeder 17 0, 0⟩).wf = false
    ∧ (Instr.hubSramUe ⟨.rowCache 4 0 0, 0⟩).wf = false ∧ (Instr.hubSramUe ⟨.pageBuffer 12, 0⟩).wf = false
    ∧ (Instr.hubSramUe ⟨.journal 4, 0⟩).wf = false ∧ (Instr.watchDumpWritten 0 64).wf = false ∧ (Instr.keyProgram 0).wf = false
    ∧ (Instr.keyRevoke 0x10).wf = false ∧ (Instr.moduleFatalError 0 none).wf = false ∧ (Instr.moduleFatalError 9 none).wf = false
    ∧ (Instr.companionReadPoison (.image 5)).wf = false := by decide +kernel

/-! ### What the statements' hypotheses are met by -/

theorem wit_LinesAreTakenInRingOrder : hostWf blockT.host = true ∧ kget blockT.hl.rings ⟨0, false, 0⟩ = some (ringT 4096 0)
    ∧ (takeLine blockT ⟨0, false, 0⟩ false (lineT 1 0 [])).isSome = true := by decide +kernel
theorem wit_PhaseAlternatesByPass : kget blockT.hl.rings ⟨0, false, 0⟩ = some (ringT 4096 0)
    ∧ (ringT 4096 0).st = 1 ∧ (ringT 4096 0).fetched = [] ∧ 1 ≤ cplFree blockT 0 (ringT 4096 0).cplRing
    ∧ hlCan blockT (ringVc 0) 0 = true := by decide +kernel
theorem wit_RecordsAreWrittenInTheirRing :
    kget blockT.hl.rings ⟨(originT 0 1 0).claim, true, (originT 0 1 0).cpl⟩ = some (ringT 8192 128) ∧ hostWf blockT.host = true
    ∧ recordGoes blockT { o := originT 0 1 0, status := 0 } = true
    ∧ recordGoes { blockT with hl := { blockT.hl with st := 1 } } { o := originT 0 1 0, status := 0 } = false := by decide +kernel
theorem wit_EveryStepKeepsTheInvariant : BlockInv State.reset ∧ step State.reset = .next State.reset := by
  refine ⟨⟨by decide +kernel, by decide +kernel, by decide +kernel, by decide +kernel, ⟨rfl, ?_⟩, by decide +kernel, by decide +kernel⟩, rfl⟩
  intro k hk
  simp only [State.reset, List.mem_cons, List.not_mem_nil, or_false] at hk
  rcases hk with h | h | h | h | h | h | h | h <;> rw [h] <;> decide

/-- A submission control block of 16 lines at 65536, with completion ring 0. -/
def rcbT : List Byte := leBytes 8 65536 ++ leBytes 4 16 ++ [1, 0] ++ leBytes 2 0 ++ List.replicate 112 0
theorem wit_RingEnableChecksTheRcb : reach blockT = true ∧ bits (0x4001 : W64).toNat 15 14 = 1
    ∧ ringCmdTarget 0x4001 = some ⟨0, false, 1⟩ ∧ ringEnableCode (hlGot blockT 2 1) ⟨0, false, 1⟩ rcbT = 0
    ∧ ringCmdTarget 0x4000 = some ⟨0, false, 0⟩ ∧ ringEnableCode (hlGot blockT 2 1) ⟨0, false, 0⟩ rcbT ≠ 0
    ∧ ringCmdTarget 0x7C02 = none := by decide +kernel
theorem wit_WatchTakesANewLineOrMarksItSpurious : (ringT 4096 0).st = 1 ∧ (lineT 1 0 []).length = 128 ∧ admits blockT = true
    ∧ kget blockT.hl.rings (ringIdOf (.claim 0 0) false) = some (ringT 4096 0) ∧ hlCan blockT (ringVc 0) 0 = true
    ∧ byteAt (lineT 1 0 []) 2 % 2 = phaseAt ((ringT 4096 0).cap false) ((ringT 4096 0).n.toNat + 0)
    ∧ ringTakes blockT ⟨0, false, 0⟩ = true ∧ 1 ≤ cplFree blockT 0 0
    ∧ cplFree { blockT with hl := { blockT.hl with rings := kdel blockT.hl.rings ⟨0, true, 0⟩ } } 0 0 = 0
    ∧ byteAt (List.replicate 128 0) 2 % 2 ≠ phaseAt ((ringT 4096 0).cap false) 0 := by decide +kernel
theorem wit_SnoopsAreAnsweredAndHeadsAreRead : blockT.boot.resetN = true ∧ linkUp blockT = true ∧ reach blockT = true
    ∧ hlCan blockT (ringVc 0) 0 = true
    ∧ kget blockT.hl.rings (ringIdOf (.claim 0 0) true) = some (ringT 8192 128) := by decide +kernel
/-- A ring that drains with nothing of it under way. -/
def drainT : Ring := { ringT 4096 0 with st := 2 }
theorem wit_RingsDrainBeforeTheyAreDisabled : bits (0x8000 : W64).toNat 15 14 = 2 ∧ ringCmdTarget 0x8000 = some ⟨0, false, 0⟩
    ∧ ringInRange blockT ⟨0, false, 0⟩ = true ∧ reach blockT = true ∧ kget blockT.hl.rings ⟨0, false, 0⟩ = some (ringT 4096 0)
    ∧ (ringT 4096 0).st = 1 ∧ drained ⟨0, false, 0⟩ drainT = true ∧ drainT.st = 2
    ∧ kget (modRing blockT ⟨0, false, 0⟩ (fun _ => drainT)).hl.rings (ringIdOf (.claim 0 0) false) = some drainT := by decide +kernel

/-- A request with a token stream of 16 lines whose END record is due, and one that has committed. -/
def streamT : Req := { reqT with desc := { streamBase := 65536, streamLines := 16 }, stream := { endSt := 1, granted := true } }
def endedT : Req := { reqT with commit := some 0 }
theorem wit_StreamHeadLetsADueEndRecordOut : reach (withReq streamT) = true ∧ reqOf (withReq streamT) 0 = some streamT ∧ streamT.hasStream = true
    ∧ streamT.stream.held = [] ∧ streamT.stream.endSt = 1
    ∧ streamGoes (setSlot (hlGot (withReq streamT) 1 1) 0 { slotOf (withReq streamT) 0 with occ := some streamT }) streamT = true
    ∧ reqOf (withReq { streamT with stream := {} }) 0 = some { streamT with stream := {} } := by decide +kernel
theorem wit_RetireReleasesWhatARequestHolds : alive (withReq endedT) = true ∧ reqOf (withReq endedT) 0 = some endedT
    ∧ endedT.commit.isSome = true ∧ endedT.released = false ∧ endedT.bind.pfx = none ∧ endedT.bind.adapter = none
    ∧ endedT.hasStream = false ∧ inEngines (withReq endedT) 0 = false
    ∧ inEngines { withReq endedT with haul := { blockT.haul with
      rosters := [(⟨0, 0, 0⟩, { queue := [⟨some 0, 0, 0⟩] })] } } 0 = true := by decide +kernel
theorem wit_CompletionFreesTheSlotWithANewGeneration : reqOf (withReq { endedT with released := true }) 0 = some { endedT with released := true }
    ∧ reach (withReq { endedT with released := true }) = true ∧ endedT.tail = [] ∧ ({ endedT with released := true } : Req).hasStream = false
    ∧ (∀ a ∈ (withReq endedT).watch.arms, a.slot ≠ 0) := by decide +kernel

/-- ABORT of the request in slot 0, at a state with it. -/
def abortS (r : Req) : State := takenT (withReq r) 0 (descT 2 0 []).line
theorem wit_AbortCommitsARunningRequest : LineTaken (withReq reqT) (descT 2 0 []) 2 (originT 0 2 0) (abortS reqT)
    ∧ commonZero (descT 2 0 []).line = true ∧ zeroAt (descT 2 0 []).line 16 112 = true
    ∧ tenantOk (abortS reqT) 0 0 = true ∧ targetOf (abortS reqT) 0 0 = some (0, reqT) ∧ reqT.commit = none
    ∧ LineTaken (withReq endedT) (descT 2 0 []) 2 (originT 0 2 0) (abortS endedT)
    ∧ targetOf (abortS endedT) 0 0 = some (0, endedT) ∧ endedT.commit.isSome = true
    ∧ LineTaken blockT (descT 2 0 []) 2 (originT 0 2 0) (takenT blockT 0 (descT 2 0 []).line)
    ∧ targetOf (takenT blockT 0 (descT 2 0 []).line) 0 0 = none := by
  unfold LineTaken; decide +kernel

/-- A watch name of recipe 0 and a WATCH_ARM of it. -/
def watchCfgT : ClaimCfg := { cfgT with watch := some ⟨true, 0, [⟨[], 0, 0, 1, 0⟩], 0⟩ }
def watchT : State := { withCfg watchCfgT with slots := [(0, { gen := 0, occ := some reqT })] }
def watchLineT : List Byte := leBytes 2 0 ++ leBytes 4 0 ++ [0, 0] ++ leBytes 8 65536 ++ leBytes 4 64
theorem wit_WatchArmIsAdded :
    let d := descT 0xF 0 watchLineT
    let s1 := takenT watchT 0 d.line
    LineAccepted watchT d 0xF (originT 0 0xF 0) s1 ∧ zeroAt d.line 22 2 = true ∧ zeroAt d.line 36 92 = true
    ∧ targetOf s1 0 0 = some (0, reqT) ∧ ((cfgOf s1 0).bind (·.watch)).map (·.sec) = some [⟨[], 0, 0, 1, 0⟩]
    ∧ fld d.line 16 2 = 0 ∧ watchStepOk s1 reqT ⟨[], 0, 0, 1, 0⟩ (fld d.line 18 4) = true ∧ 64 ≤ fld d.line 32 4
    ∧ (s1.watch.arms.filter (fun a => a.claim == 0)).length < 64 ∧ (s1.watch.arms.filter (armOf s1 0)).length < 4 := by
  unfold LineAccepted LineTaken; decide +kernel
theorem wit_ReservedOpcodesAreRefused :
    LineTaken blockT (descT 0x14 0 []) 0x14 (originT 0 0x14 0) (takenT blockT 0 (descT 0x14 0 []).line)
    ∧ LineTaken blockT (descT 0x7F 0 []) 0x7F (originT 0 0x7F 0) (takenT blockT 0 (descT 0x7F 0 []).line)
    ∧ LineTaken blockT (descT 0x80 0 []) 0x80 (originT 0 0x80 0) (takenT blockT 0 (descT 0x80 0 []).line)
    ∧ (claimOf blockT 0).st = 2 ∧ admits blockT = true
    ∧ takeLine blockT ⟨4, false, 0⟩ false (mdescT 1 []).line
      = some (originT 4 1 0xFFFFFFFF, takenT blockT 4 (mdescT 1 []).line) := by
  unfold LineTaken; decide +kernel

/-- RUN_RECIPE of recipe 0 without a prefix and without a stream. -/
def runLineT : List Byte := List.replicate 16 0 ++ List.replicate 8 0xFF ++ List.replicate 36 0 ++ List.replicate 4 0xFF
theorem wit_RunRecipeAdmitsARequest :
    let d := descT 1 0 runLineT
    let s1 := takenT blockT 0 d.line
    LineAccepted blockT d 1 (originT 0 1 0) s1 ∧ runRecipeZero d.line = true ∧ slotRefusal s1 (originT 0 1 0) = none
    ∧ cfgOf s1 0 = some cfgT ∧ secOf cfgT.recipes (byteAt d.line 28) = some recipeT ∧ runFields s1 0 recipeT d.line = none
    ∧ fld d.line 32 8 = 0xFFFFFFFFFFFFFFFF ∧ (recipeT.genModel.bind (modelOf s1 0)).map (·.adapterMaxRank) = some 0
    ∧ debitPolicer s1 0 0 recipeT.policeCost = some s1 := by
  unfold LineAccepted LineTaken; decide +kernel
theorem wit_RunRecipeIsRefusedByStatus :
    LineAccepted blockT (descT 1 1024 []) 1 (originT 0 1 1024) (takenT blockT 0 (descT 1 1024 []).line)
    ∧ slotIn (takenT blockT 0 (descT 1 1024 []).line) 0 (1024 % 65536) = false
    ∧ slotIn blockT 0 1023 = true ∧ slotIn blockT 0 0 = true
    ∧ LineAccepted (withReq reqT) (descT 1 0 []) 1 (originT 0 1 0) (takenT (withReq reqT) 0 (descT 1 0 []).line)
    ∧ (slotOf (takenT (withReq reqT) 0 (descT 1 0 []).line) 0).occ.isSome = true
    ∧ LineAccepted blockT (descT 1 65536 []) 1 (originT 0 1 65536) (takenT blockT 0 (descT 1 65536 []).line)
    ∧ (slotOf blockT 0).gen.toNat ≠ 65536 / 65536 ∧ runRecipeZero (descT 1 0 []).line = true := by
  unfold LineAccepted LineTaken; decide +kernel

/-- SEARCH_ONLY and FLAT_SCAN of pit 0 with K 1 and no label. -/
def searchLineT : List Byte := leBytes 2 0 ++ leBytes 2 1 ++ [0, 0, 0, 0] ++ List.replicate 8 0 ++ List.replicate 4 0xFF
def queryT : List Byte := List.replicate 16 0
theorem wit_SearchRequestsAreAdmitted :
    let d (op : Nat) := descT op 0 searchLineT
    let s1 := takenT blockT 0 (d 0x10).line
    LineAccepted blockT (d 0x10) 0x10 (originT 0 0x10 0) s1
    ∧ LineAccepted blockT (d 0x11) 0x11 (originT 0 0x11 0) (takenT blockT 0 (d 0x11).line)
    ∧ slotRefusal s1 (originT 0 0x10 0) = none ∧ pitSecOf s1 0 (fld (d 0x10).line 16 2) = some pitT
    ∧ fld (d 0x10).line 18 2 = 1 ∧ fld (d 0x10).line 32 4 = 0xFFFFFFFF ∧ (queryValues pitT.dim queryT).2 = false
    ∧ zeroAt (d 0x10).line 22 2 = true ∧ zeroAt (d 0x11).line 20 4 = true ∧ zeroAt (d 0x10).line 52 76 = true
    ∧ fld (descT 0x10 0 (leBytes 2 0 ++ leBytes 2 1024)).line 18 2 = 1024 := by
  unfold LineAccepted LineTaken; decide +kernel

/-- PREFIX_CREATE on model 0 with two tokens, and the prefix it makes, built. -/
def prefixLineT : List Byte := List.replicate 8 0 ++ leBytes 4 2 ++ [0, 0, 0xFF, 0xFF]
def lastT : Nat := 0xFFFFFFFF
theorem wit_PrefixCreateRegistersAPrefix :
    let d := descT 3 lastT prefixLineT
    let s1 := takenT blockT 0 d.line
    let ts := prefixTokens none (fld d.line 24 4) [0, 0, 0, 0, 1, 0, 0, 0]
    LineAccepted blockT d 3 (originT 0 3 lastT) s1 ∧ zeroAt d.line 29 1 = true ∧ zeroAt d.line 36 92 = true
    ∧ fld d.line 30 2 = 0xFFFF ∧ modelOf s1 0 (byteAt d.line 28) = some modelT ∧ ts = [0, 1]
    ∧ (∀ t ∈ ts, t < vocabSize s1 0 modelT.vocab)
    ∧ (s1.face.prefixes.filter (fun p => p.2.claim == 0)).length < 512 * ownOf s1 0 (·.slotBlocks)
    ∧ (prefixPages s1 0 0 7 2).length = 1 ∧ 1 ≤ prefixRoom s1 0 := by
  unfold LineAccepted LineTaken; decide +kernel

def pfxT : PrefixRec := { claim := 0, tenant := 0, model := 0, len := 2, adapter := none, refs := 1, released := false }
/-- The K and V rows of the first two positions. -/
def kvT : List KvRow := [⟨0, 0, List.replicate 64 0, List.replicate 64 0⟩, ⟨0, 1, List.replicate 64 0, List.replicate 64 0⟩]
def createT : Cmd :=
  { o := originT 0 3 lastT, body := .prefixCreate 0 none [0, 1] 7, begun := true, needs := [], count := 0, total := 0 }
def pfxStateT : State := { blockT with
  face := { blockT.face with prefixes := [(7, pfxT)], models := [((0, 0), 2)] }, cmds := [createT]
  cage := { blockT.cage with pages := [(⟨0, 4, 7, 0⟩, { st := .resident, frame := some (0, 0) })] } }
theorem wit_PrefixesAreBuiltAndReleased :
    let d := descT 4 lastT (leBytes 8 7)
    let s := { pfxStateT with cmds := [] }
    pfxStateT.cmds.find? (·.creates 7) = some createT ∧ kgetD pfxStateT.face.models (0, 0) 0 = 2
    ∧ alive pfxStateT = true ∧ prefixPages pfxStateT 0 0 7 2 = [⟨0, 4, 7, 0⟩] ∧ isResident pfxStateT ⟨0, 4, 7, 0⟩ = true
    ∧ prefixModels pfxStateT 0 0 = [(0, modelT)] ∧ (∀ k ∈ prefixUses pfxStateT 0 0 none [0, 1], isResident pfxStateT k = true)
    ∧ looksReady pfxStateT 0 (prefixLooks pfxStateT 0 0 [0, 1]) = true ∧ prefixGiven pfxStateT 0 0 2 kvT = true
    ∧ kgetD ({ pfxStateT.face with models := [((0, 0), 3)] } : FaceState).models (0, 0) 0 = 3
    ∧ LineAccepted s d 4 (originT 0 4 lastT) (takenT s 0 d.line) ∧ zeroAt d.line 24 104 = true
    ∧ (prefixOf (takenT s 0 d.line) 0 0 (fld d.line 16 8)).isSome = true
    ∧ LineAccepted blockT d 4 (originT 0 4 lastT) (takenT blockT 0 d.line)
    ∧ prefixOf (takenT blockT 0 d.line) 0 0 (fld d.line 16 8) = none := by
  unfold LineAccepted LineTaken; decide +kernel

/-- A model that takes adapters of rank up to 4, the header of one of rank 4 on its FFN matrices, and a version of it. -/
def modelAT : ModelSec := { modelT with adapterMaxRank := 4 }
def cfgAT : ClaimCfg := { cfgT with models := [(0, ⟨true, 0, modelAT, 0⟩)] }
def aBytesT : Nat := adapterBytes modelAT 4 0 1
def aHeadT : List Byte := [4, 0, 1, 0] ++ leBytes 2 1 ++ List.replicate 58 0
def verT : AdapterVer :=
  { claim := 0, tenant := 0, model := 0, rank := 4, source := 65536, bytes := aBytesT, current := false, refs := 1 }
def publishT : Cmd :=
  { o := originT 0 5 lastT, body := .adapterPublish 0, begun := true, needs := [], count := 0, total := 0 }
def verStateT : State := { withCfg cfgAT with
  face := { blockT.face with adapters := [(0, { gen := 1, ver := some verT })] }
  cage := { blockT.cage with pages := [(⟨0, 3, 16384, 0⟩, { st := .resident, frame := some (0, 0) })] } }
theorem wit_AdapterPublishQueuesTheImage :
    let d := descT 5 lastT (leBytes 8 65536 ++ leBytes 8 aBytesT ++ [0, 4])
    let s1 := takenT (withCfg cfgAT) 0 d.line
    LineAccepted (withCfg cfgAT) d 5 (originT 0 5 lastT) s1 ∧ zeroAt d.line 34 94 = true
    ∧ modelOf s1 0 (byteAt d.line 32) = some modelAT ∧ byteAt d.line 33 = 4
    ∧ adapterHeaderOk modelAT 4 (fld d.line 24 8) aHeadT = true
    ∧ (List.range (ownOf s1 0 (·.adapterCount))).find?
      (fun i => (kgetD s1.face.adapters (ownOf s1 0 (·.adapterFirst) + i) {}).ver.isNone) = some 0
    ∧ (fld d.line 24 8 - 128 + 65535) / 65536 = 1 ∧ 1 ≤ poolPages s1 0 3 - fencedFrames s1 0 3 := by
  unfold LineAccepted LineTaken; decide +kernel
theorem wit_AdapterVersionsBecomeCurrentAndAreWithdrawn :
    let s := { verStateT with cmds := [publishT] }
    let d0 := descT 6 lastT (leBytes 4 16384)
    let d1 := descT 6 lastT (leBytes 4 16384 ++ [1])
    s.cmds.find? (·.publishes s 16384) = some publishT ∧ adapterOf s 16384 = some verT ∧ objectPages s 0 3 16384 = 1
    ∧ isResident s ⟨0, 3, 16384, 0⟩ = true ∧ dataUp s 0 = true ∧ (List.replicate aBytesT (0 : Byte)).length = verT.bytes
    ∧ LineAccepted verStateT d0 6 (originT 0 6 lastT) (takenT verStateT 0 d0.line) ∧ zeroAt d0.line 21 107 = true
    ∧ LineAccepted verStateT d1 6 (originT 0 6 lastT) (takenT verStateT 0 d1.line) ∧ zeroAt d1.line 21 107 = true
    ∧ adapterOf (takenT verStateT 0 d0.line) (fld d0.line 16 4) = some verT ∧ byteAt d1.line 20 = 1
    ∧ createsOf (takenT verStateT 0 d1.line) 16384 = [] := by
  unfold LineAccepted LineTaken; decide +kernel

theorem wit_PitCommandsAreTakenAndBegin :
    let d (op : Nat) := descT op lastT (leBytes 2 0 ++ List.replicate 6 0 ++ leBytes 8 65536 ++ leBytes 4 1)
    let p := descT 9 lastT (leBytes 2 0)
    let s1 := takenT blockT 0 (d 7).line
    LineAccepted blockT (d 7) 7 (originT 0 7 lastT) s1 ∧ LineAccepted blockT (d 8) 8 (originT 0 8 lastT) (takenT blockT 0 (d 8).line)
    ∧ LineAccepted blockT p 9 (originT 0 9 lastT) (takenT blockT 0 p.line) ∧ zeroAt p.line 18 110 = true
    ∧ (pitSecOf s1 0 (fld (d 7).line 16 2)).isSome = true ∧ zeroAt (d 7).line 18 6 = true ∧ zeroAt (d 7).line 36 92 = true
    ∧ fld (d 8).line 32 4 = 1 ∧ s1.cmds = [] ∧ dataUp s1 0 = true
    ∧ cmdFence s1 { o := originT 0 7 lastT, body := .pitPublish 0, begun := false, needs := [], count := 0, total := 0 } = none := by
  unfold LineAccepted LineTaken; decide +kernel
theorem wit_EpochRecordAdvancesP : alive blockT = true ∧
    let x : Cmd := { o := originT 0 9 lastT, body := .pitPublish 0, begun := true, needs := [], count := 0, total := 0 }
    ({ blockT with cmds := [x] } : State).cmds.find?
      (fun x => x.begun && x.needs.isEmpty && x.o.claim == 0 && x.body == .pitPublish 0) = some x := by decide +kernel

/-- Claim 0 with a ledger that is not a SCATTER ledger, and a swap of it that has begun. -/
def cfgPT : ClaimCfg := { cfgT with ledgers := [(0, ⟨false, 0, { ledgerT with scatter := false }, 0⟩)] }
theorem wit_LedgerCommandsAreTakenAndBegin :
    let w := descT 0xA lastT ([0] ++ List.replicate 7 0 ++ leBytes 8 65536 ++ leBytes 4 1)
    let x := descT 0xB lastT ([0] ++ List.replicate 7 0 ++ leBytes 8 65536 ++ leBytes 8 64)
    let s := withCfg cfgPT
    LineAccepted s w 0xA (originT 0 0xA lastT) (takenT s 0 w.line) ∧ LineAccepted s x 0xB (originT 0 0xB lastT) (takenT s 0 x.line)
    ∧ ledgerSecOf (takenT s 0 w.line) 0 (byteAt w.line 16) = some { ledgerT with scatter := false }
    ∧ zeroAt w.line 17 7 = true ∧ zeroAt w.line 36 92 = true ∧ zeroAt x.line 17 7 = true ∧ zeroAt x.line 40 88 = true
    ∧ fld w.line 32 4 = 1 ∧ (takenT s 0 w.line).cmds = [] ∧ dataUp (takenT s 0 w.line) 0 = true ∧ dataUp (takenT s 0 x.line) 0 = true
    ∧ cmdFence s { o := originT 0 0xB lastT, body := .ledgerSwap 0 [], begun := false, needs := [], count := 0, total := 0 } = none := by
  unfold LineAccepted LineTaken; decide +kernel
def swapT : Cmd := { o := originT 0 0xB lastT, body := .ledgerSwap 0 [], begun := true, needs := [], count := 0, total := 64 }
def swapStateT : State := { blockT with
  cmds := [swapT], store := { blockT.store with ledgers := [((0, 0), { layout := some ledgerT, st := 4 })] } }
theorem wit_SwapFlipMakesTheNewTableActive :
    swapStateT.cmds.find? (·.swaps 0 0) = some swapT ∧ swapT.body = .ledgerSwap 0 [] ∧ (ledgerOf swapStateT 0 0).st = 4
    ∧ alive swapStateT = true ∧ ledgerQuiet swapStateT 0 0 = true := by
  decide +kernel

/-- The first page of ledger 0, and a state that holds it RESIDENT with a command pin. -/
def lpageT : PageKey := ⟨0, 5, 0, 0⟩
def lpageStateT : State := { blockT with cage := { blockT.cage with
  pages := [(lpageT, { st := .resident, frame := some (0, 0), cmd := 1, valid := 2 ^ 512 - 1 })] } }
def cageLineT (op mode : Nat) : Desc := descT op lastT (leBytes 8 (5 * 2 ^ 56) ++ leBytes 4 1 ++ leBytes 1 mode)
theorem wit_CageCommandsActOnTheNamedPages :
    let a := cageLineT 0xC 0
    let b := cageLineT 0xC 1
    let s1 := takenT lpageStateT 0 a.line
    LineAccepted lpageStateT a 0xC (originT 0 0xC lastT) s1
    ∧ LineAccepted lpageStateT b 0xC (originT 0 0xC lastT) (takenT lpageStateT 0 b.line)
    ∧ namedPages s1 0 0 (fld a.line 16 8) (fld a.line 24 4) = some [lpageT] ∧ byteAt a.line 23 = 5 ∧ byteAt b.line 28 = 1
    ∧ cagePinZero b.line = true ∧ isQuarantined s1 lpageT = false ∧ 8 * 1 ≤ 7 * poolPages s1 0 5
    ∧ ((poolOf s1 0 5).filter (fun q => decide (0 < q.2.cmd))).map (·.1) = [lpageT] := by
  unfold LineAccepted LineTaken; decide +kernel
theorem wit_CageCommandsLoadAndEvict :
    let a := cageLineT 0xE 0
    let b := cageLineT 0xD 0
    let s := { lpageStateT with cage := { lpageStateT.cage with pages := [(lpageT, { st := .resident, frame := some (0, 0) })] } }
    LineAccepted s a 0xE (originT 0 0xE lastT) (takenT s 0 a.line) ∧ LineAccepted s b 0xD (originT 0 0xD lastT) (takenT s 0 b.line)
    ∧ zeroAt a.line 28 4 = true ∧ zeroAt a.line 40 88 = true ∧ fld a.line 32 8 = 0 ∧ zeroAt b.line 28 100 = true
    ∧ namedPages (takenT s 0 b.line) 0 0 (fld b.line 16 8) (fld b.line 24 4) = some [lpageT]
    ∧ isBusy (takenT s 0 b.line) lpageT = false ∧ isQuarantined (takenT s 0 a.line) lpageT = false := by
  unfold LineAccepted LineTaken; decide +kernel

/-! ### Stores, the Cage and the Seams -/

/-- The block with a state of ledger 0, and with one of pit 0. -/
def withLedger (l : LedgerStore) : State := { blockT with store := { blockT.store with ledgers := [((0, 0), l)] } }
def withPit (p : PitStore) : State := { blockT with store := { blockT.store with pits := [((0, 0), p)] } }
def gatherT : State := withLedger { live := { hdr := { rows := 8, rowBytes := 8, fmt := 3, elements := 2 } } }
def portBatchT : PortBatch := { claim := 0, ledger := 0, port := 1, rows := [1], pairs := [] }
theorem wit_BatchesLookUpAndAddRows : alive gatherT = true ∧ claimRuns gatherT 0 = true ∧ portOk gatherT 0 1 = true
    ∧ ledgerOpen gatherT 0 0 = true ∧ gatherT.store.batches = [] ∧ [1, 2, 1].length ≤ 65536
    ∧ (running { gatherT with slots := [(0, { gen := 0, occ := some reqT })] } (0#16).toNat).map (·.claim) = some 0
    ∧ (let p := withLedger { st := 4 }
       ledgerOpen p 0 0 = false ∧ portOk p 0 1 = true ∧ claimRuns p 0 = true ∧ ledgerSecOf p 0 0 = some ledgerT)
    ∧ portBatchT.claim = 0 ∧ portBatchT.port = 1 ∧ portBatchT.unsent = true ∧ (ledgerSecOf gatherT 0 0).isSome = true
    ∧ scatters gatherT 0 0 = true ∧ scatters { gatherT with store := { blockT.store with ledgers := [] } } 0 0 = false := by decide +kernel
theorem wit_WindowEntriesLeaveAndSketchesHalve :
    let e : CoalEnt := { claim := 0, ledger := 0, row := 5, attached := 1 }
    let s := { gatherT with store := { gatherT.store with windows := [[e], []] }
                            cage := { blockT.cage with pages := [(lpageT, { st := .resident, frame := some (0, 0) })] } }
    alive s = true ∧ (s.store.windows.getD 0 []).filter (·.isFor 0 0 5) = [e] ∧ isResident s (rowKey s 0 0 5) = true
    ∧ 4194304 ≤ (gatherOf { gatherT with store := { gatherT.store with gather := [{ lookups := 4194304 }, {}, {}, {}] } } 0).lookups := by
  decide +kernel
theorem wit_BinsAreCountedAndMigrate :
    4194304 ≤ (gatherOf { gatherT with store := { gatherT.store with gather := [{ fetches := 4194304 }, {}, {}, {}] } } 0).fetches
    ∧ (let s (n : Nat) := { withCfg { cfgT with pools := [(5, n)] } with
         store := { blockT.store with ledgers := [((0, 0), { moves := [(3, 1)] })] }
         cage := { blockT.cage with pages := [(⟨0, 5, 0, 3⟩, { st := .resident, frame := some (0, 0) })] } }
       alive (s 64) = true ∧ (ledgerOf (s 64) 0 0).moves = [(3, 1)] ∧ (ledgerOf (s 1) 0 0).moves = [(3, 1)]
       ∧ binPages (s 64) 0 0 3 1 = [⟨0, 5, 0, 3⟩] ∧ unitOk (s 64) 1 1 = true
       ∧ heldOn (s 64) 0 5 1 + 1 ≤ poolShare (s 64) 0 5 1 ∧ 1 ≤ freeFrames (s 64) 0 5
       ∧ binPages (s 1) 0 0 3 1 ≠ [] ∧ poolShare (s 1) 0 5 1 < heldOn (s 1) 0 5 1 + 1
       ∧ binPages (withLedger { moves := [(3, 1)] }) 0 0 3 1 = []) := by decide +kernel
def sweepT (left : List (Nat × Nat)) : State := withPit { sweep := some ⟨1, 0, left, [(0, 2)]⟩ }
theorem wit_SweepsRepairThenFree : alive (sweepT []) = true ∧ (pitOf (sweepT [(0, 1)]) 0 0).sweep = some ⟨1, 0, [(0, 1)], [(0, 2)]⟩
    ∧ pitSecOf (sweepT [(0, 1)]) 0 0 = some pitT ∧ (pitOf (sweepT []) 0 0).sweep = some ⟨1, 0, [], [(0, 2)]⟩ := by decide +kernel
theorem wit_HotWindowsReplicateAndMigrate : alive (withPit {}) = true ∧ pitSecOf (withPit {}) 0 0 = some pitT ∧ pitT.seamMask.testBit 1 = true
    ∧ 16777216 ≤ kgetD (pitOf (withPit { reads := [(1, 16777216)] }) 0 0).reads 1 0 := by decide +kernel

/-- The block with pages, and with page 0 of ledger 0 in a state. -/
def withPages (ps : KMap PageKey Page) (as : List PageKey) : State := { blockT with cage := { blockT.cage with pages := ps, allocs := as } }
def withPage (p : Page) : State := withPages [(lpageT, p)] []
/-- A pool whose 64 frames are held: pages 1 to 64, RESIDENT, and page 0 waiting; those of Lode 0 only, or of both. -/
def fullPoolT (own : ClaimSec) : State :=
  { withCfg { cfgT with own := own, pools := [(5, 1)] } with cage := { blockT.cage with
    pages := [(lpageT, { st := .unloaded }), (⟨0, 5, 0, 1⟩, { st := .resident, frame := some (0, 0) })], allocs := [lpageT] } }
/-- A full MODEL pool whose page has no lower copy: its write-back keeps the frame. -/
def dirtyT : PageKey × Page := (⟨0, 2, 0, 1⟩, { st := .resident, frame := some (0, 0), valid := 1 })
def dirtyPoolT : State :=
  { withCfg { cfgT with own := { ownT with lodeMask := 1 }, pools := [(2, 1), (0x10, 4)] } with cage := { blockT.cage with
    pages := [(⟨0, 2, 0, 0⟩, { st := .unloaded }), dirtyT], allocs := [⟨0, 2, 0, 0⟩] } }
theorem wit_FramesAreAllocatedInOrder :
    let s := withPages [(lpageT, { st := .unloaded })] [lpageT]
    let f := fullPoolT { ownT with lodeMask := 1 }
    let v : PageKey × Page := (⟨0, 5, 0, 1⟩, { st := .resident, frame := some (0, 0) })
    alive s = true ∧ heldFrames s 0 5 ≤ poolPages s 0 5 - fencedFrames s 0 5
    ∧ s.cage.allocs.find? (fun k => k.claim == 0 && k.kind == 5) = some lpageT ∧ pageOf s lpageT = some { st := .unloaded }
    ∧ placeFor s lpageT = some 0
    ∧ heldFrames f 0 5 ≤ poolPages f 0 5 - fencedFrames f 0 5 ∧ placeFor f lpageT = none ∧ leaving f 0 5 = 0
    ∧ victimOf f 0 5 = some v ∧ placeFor (demote f v) lpageT = some 0
    ∧ heldFrames dirtyPoolT 0 2 ≤ poolPages dirtyPoolT 0 2 - fencedFrames dirtyPoolT 0 2 ∧ leaving dirtyPoolT 0 2 = 0
    ∧ dirtyPoolT.cage.allocs.find? (fun k => k.claim == 0 && k.kind == 2) = some ⟨0, 2, 0, 0⟩
    ∧ victimOf dirtyPoolT 0 2 = some dirtyT ∧ placeFor dirtyPoolT ⟨0, 2, 0, 0⟩ = none
    ∧ placeFor (demote dirtyPoolT dirtyT) ⟨0, 2, 0, 0⟩ = none := by
  decide +kernel
def demotingT (dirty : Nat) (cancel : Bool) : Page := { st := .demoting, frame := some (0, 0), dirty := dirty, cancel := cancel }
theorem wit_WriteBackEndsAndDeadlinesExpire : alive blockT = true ∧ linkUp blockT = true ∧ dataUp (withPage (demotingT 3 false)) 0 = true
    ∧ pageOf (withPage (demotingT 3 false)) lpageT = some (demotingT 3 false)
    ∧ nextGranule (demotingT 3 false) = some 0 ∧ nextGranule { demotingT 3 false with dirty := 3 - 2 ^ 0 } = some 1
    ∧ nextGranule { demotingT 1 false with dirty := 1 - 2 ^ 0 } = none ∧ nextGranule (demotingT 1 true) = some 0
    ∧ (running { withPage { st := .promoting, waiters := [.request 0 500] } with slots := [(0, { gen := 0, occ := some reqT })] } 0).isSome = true
    ∧ Waiter.request 0 500 ∈ ({ st := .promoting, waiters := [.request 0 500] } : Page).waiters := by decide +kernel
def promotingT (fails : Nat) : Page := { st := .promoting, frame := some (0, 0), fails := fails }
theorem wit_PageLoadsEndResidentOrInvalid : pageOf (withPage (promotingT 1)) lpageT = some (promotingT 1)
    ∧ alive (withPage (promotingT 1)) = true ∧ (promotingT 2).copying = false ∧ lpageT.kind = 5 ∧ dataUp (withPage (promotingT 0)) 0 = true
    ∧ (promotingT 0).src ≠ .alternate := by decide +kernel
theorem wit_DramErrorsAndPageBuffers : alive blockT = true ∧ buffersOn blockT 0 < 512 ∧
    pageOf (withPages [(⟨0, 1, 0, 0⟩, { st := .resident, frame := some (0, 0) })] []) ⟨0, 1, 0, 0⟩
      = some { st := .resident, frame := some (0, 0) }
    ∧ droppable ⟨0, 1, 0, 0⟩ { st := .resident, frame := some (0, 0) } = false
    ∧ hasLower lpageT { st := .resident, frame := some (0, 0) } = true ∧ dirtyOf lpageT { st := .resident, frame := some (0, 0) } = 0
    ∧ dirtyOf lpageT { st := .resident, frame := some (0, 0), dirty := 1 } ≠ 0
    ∧ ({ blockT with cage := { blockT.cage with lodes := lmod blockT.cage.lodes 0 (fun d => { d with waiting := [0] }) } } : State).cage.lodes[0]?
      = some { waiting := [0] } := by decide +kernel

/-- The block with a Seam in a state. -/
def withSeam (v : SeamSt) : State := { blockT with flash := { blockT.flash with seams := [(0, v)] } }
def placeT : FlashPlace := ⟨0, 5, 0⟩
theorem wit_NandReadsDecodeRetryOrRebuild :
    seamOk (withSeam { map := [(7, ⟨1, placeT, 3⟩)] }) 0 = true
    ∧ kget (seamOf (withSeam { map := [(7, ⟨1, placeT, 3⟩)] }) 0).map 7 = some ⟨1, placeT, 3⟩
    ∧ dieLost (withSeam { map := [(7, ⟨1, placeT, 3⟩)] }) 0 placeT = false
    ∧ seamOk (withSeam { map := [(7, ⟨1, placeT, 3⟩)], rebuilds := [7], dgs := [{ dead := 1 }, {}] }) 0 = true
    ∧ dieLost (withSeam { map := [(7, ⟨1, placeT, 3⟩)], dgs := [{ dead := 1 }, {}] }) 0 placeT = true
    ∧ (seamOf (withSeam { map := [(7, ⟨1, placeT, 3⟩)], rebuilds := [7], dgs := [{ dead := 1 }, {}] }) 0).rebuilds.contains 7 = true := by
  decide +kernel
def programT : State := withSeam { queue := [(3, ⟨1, 7, placeT, false, 0⟩)], dgs := [{ sbs := [(5, ⟨1, 0, 1, [], false⟩)] }, {}] }
def fillT : State := withSeam { dgs := [{ sbs := [(5, ⟨1, 0, 1, [], false⟩)] }, { sbs := [(5, ⟨1, 0, 1, [], false⟩)] }] }
theorem wit_ProgramsCompleteFillOrFail : dieFinishes programT 0 = true
    ∧ kget (seamOf programT 0).queue 3 = some ⟨1, 7, placeT, false, 0⟩ ∧ mayProgram programT 0 ⟨1, 7, placeT, false, 0⟩ = true
    ∧ dieRuns fillT 0 = true ∧ openSb ((seamOf fillT 0).dgs.getD 0 {}) = some 5
    ∧ kgetD ((seamOf fillT 0).dgs.getD 0 {}).sbs 5 ⟨1, 0, 0, [], false⟩ = ⟨1, 0, 1, [], false⟩ := by decide +kernel
def collectT : State := withSeam { map := [(7, ⟨1, placeT, 3⟩)], copies := [(⟨7, 9, ⟨1, 6, 0⟩⟩, placeT)]
                                   dgs := [{ sbs := [(8, ⟨2, 0, 0, [], false⟩)], victim := some 8 }, {}] }
theorem wit_CollectionErasesAndMovesPages : dieRuns collectT 0 = true ∧ ((seamOf collectT 0).dgs.getD 0 {}).victim = some 8
    ∧ emptied (seamOf collectT 0) 0 8 = true ∧ 3 / 8 = 0 ∧ retiring collectT 0 0 8 = false
    ∧ (seamOf collectT 0).copies.find? (fun c => c.1.lpn == 7) = some (⟨7, 9, ⟨1, 6, 0⟩⟩, placeT)
    ∧ kget (seamOf collectT 0).map 7 = some ⟨1, placeT, 3⟩ := by decide +kernel
theorem wit_DieFailureDegradesTheSeam : dieRuns (withSeam {}) 0 = true ∧ ((seamOf (withSeam {}) 0).dgs.getD 0 {}).dead = 0
    ∧ groupHolds (seamOf (modSeam (smErr (withSeam {}) 0 0x20) 0 (fun v => { v with
      dgs := lmod v.dgs 0 (fun g => { g with dead := 2 })})) 0) 0 = true
    ∧ ((seamOf (withSeam { dgs := [{ dead := 4 }, {}] }) 0).dgs.getD 0 {}).dead.testBit 1 = false
    ∧ (4 : Nat) ≠ 0 := by decide +kernel
theorem wit_DieFailureHasAGroup : 1 / 8 < dieGroups := by unfold dieGroups; split <;> decide
theorem wit_JournalAndCheckpointsGoOn :
    let d : SeamDie := { st := 2, journal := 32, todo := [0, 1] }
    let s := { blockT with flash := { blockT.flash with dies := [d, {}, {}, {}] } }
    let put := fun (d : SeamDie) => { blockT with flash := { blockT.flash with dies := [d, {}, {}, {}] } }
    let t := put { d with ckpt := some 0 }
    let due := dieOf (put { d with todo := [], spanPages := 1073741824 }) 0
    (dieOf s 0).st = 2 ∧ 0 < (dieOf s 0).journal ∧ (dieOf s 0).todo = [0, 1] ∧ (dieOf s 0).ckpt = none ∧ ckptWaits (dieOf s 0) = false
    ∧ due.todo = [] ∧ due.spanPages = 1073741824 ∧ (dieOf (put { d with syncs := [.ckptStart 3] }) 0).syncs = [.ckptStart 3]
    ∧ (dieOf (put { d with syncs := [.ckptEnd] }) 0).syncs = [.ckptEnd] ∧ 0 < (put d).flash.dies.length
    ∧ (dieOf t 0).st = 2 ∧ (dieOf t 0).ckpt.isSome = true ∧ ckptWaits (dieOf t 0) = false := by decide +kernel
theorem wit_CheckpointsAreDue : ckptDue { st := 2, journal := 32, spanPages := 1073741824 } = true := by simp [ckptDue]
theorem wit_RecoveryBringsADieUp :
    (dieOf { blockT with flash := { blockT.flash with dies := [{ st := 1 }, {}, {}, {}] } } 0).st = 1 := by decide +kernel

/-! ### Faults, images, claims, security and power -/

/-- A management line of a unit. -/
def unitLineT (op : Nat) : MDesc := mdescT op [1, 2, 0]
theorem wit_UnitsAreFencedAndUnfenced :
    let s (st cause : Nat) : State := { blockT with hf := { blockT.hf with fences := [(⟨1, 2⟩, { st := st, cause := cause })] } }
    let o (op : Nat) := originT 4 op lastT
    namedUnit (fld (unitLineT 0x83).line 16 4) = some ⟨1, 2⟩ ∧ unitZero (unitLineT 0x84).line = true
    ∧ MgmtAccepted blockT (unitLineT 0x83) 0x83 (o 0x83) (takenT blockT 4 (unitLineT 0x83).line) ∧ fenceSt blockT ⟨1, 2⟩ = 0
    ∧ MgmtAccepted blockT (unitLineT 0x84) 0x84 (o 0x84) (takenT blockT 4 (unitLineT 0x84).line)
    ∧ MgmtAccepted (s 2 1) (unitLineT 0x84) 0x84 (o 0x84) (takenT (s 2 1) 4 (unitLineT 0x84).line) ∧ fenceSt (s 2 1) ⟨1, 2⟩ = 2
    ∧ ((kget (s 2 8).hf.fences ⟨1, 2⟩).map (·.cause)).getD 0 = 8
    ∧ kget (s 2 1).hf.unfences ⟨1, 2⟩ = none := by
  unfold MgmtAccepted; decide +kernel
theorem wit_FaultsFenceRetireOrLatch : alive blockT = true ∧ (⟨1, 11⟩ : UnitId).idx < unitCount 1 ∧ (⟨0, 135⟩ : UnitId).idx < unitCount 0
    ∧ fenceSt blockT ⟨0, 135⟩ ≠ 2 ∧ (1 : Nat) ≠ 0 ∧ fenceSt blockT ⟨1, 11⟩ ≠ 2
    ∧ fenceSt { blockT with hf := { blockT.hf with fences := [(⟨1, 11⟩, { st := 2 })] } } ⟨1, 11⟩ = 2 := by decide +kernel
theorem wit_SramErrorsUseSpareLines : sramOwner blockT (.strandBuffer 0) = none ∧ (sramOwner blockT (.pageBuffer 1)).map (·.1) = some ⟨1, 1⟩
    ∧ (sramOwner blockT (.pageBuffer 1)).map (·.2.2) = some 2048 ∧ alive blockT = true
    ∧ (let used (s : State) (k : UnitId) := kgetD (sramEffect (correctedErrors s (.pageBuffer 1) 3) (.pageBuffer 1)).hf.sramUsed k 0
       (sramOwner blockT (.pageBuffer 1)).map (fun x => decide (used blockT x.2.1 < 2048)) = some true
       ∧ (sramOwner blockT (.pageBuffer 1)).map (fun x => decide (2048 ≤
         used { blockT with hf := { blockT.hf with sramUsed := [(x.2.1, 2048)] } } x.2.1)) = some true)
    ∧ (running (withReq reqT) 0).isSome = true := by decide +kernel
theorem wit_PoisonedReadsEndTheirReader : alive pfxStateT = true ∧ linkUp pfxStateT = true
    ∧ pfxStateT.cmds.find? (fun x => x.o.claim == (ringIdOf (.claim 0 0) false).claim && x.o.ring == (ringIdOf (.claim 0 0) false).idx
      && x.o.index == (0#32).toNat) = some createT := by decide +kernel

/-- The header of a CLAIM image of claim 0 with one entry, of a section type that is skipped, and the image. -/
def imgHeadT : List Byte :=
  leBytes 4 0x524F504A ++ [1, 0, 1, 0, 1, 0, 1, 0, 64, 0, 0, 0] ++ leBytes 8 260 ++ leBytes 8 9 ++ List.replicate 32 0
def imgT : List Byte :=
  imgHeadT ++ [0x40, 2, 0, 1] ++ leBytes 4 0 ++ leBytes 8 128 ++ List.replicate 16 0 ++ List.replicate 164 0
/-- The code of a check, 0 where it passes. -/
def codeT {α : Type} (x : Chk α) : Nat := match x with | .ok _ => 0 | .error c => c
/-- A load of it between its passes. -/
def jobT (phase len : Nat) : LoadJob :=
  { origin := originT 4 0x80 lastT, mgmt := true, phase := phase, kind := 1, claim := 0, len := len, imageId := 9
    header := imgHeadT, d1 := [], sig := [], keySlot := 0, waits := [] }
def withLoad (j : LoadJob) (ks : List KeySlot) : State :=
  { blockT with hf := { blockT.hf with load := some j }, sec := { blockT.sec with keys := ks } }
/-- No claim running, and claim 0 LOADED. -/
def loadedT : State := { blockT with claims := [{ st := 1, cfg := some cfgT }, {}, {}, {}] }
theorem wit_ImagesAreTakenOneAtATime :
    let m := mdescT 0x80 (List.replicate 8 0 ++ leBytes 8 260)
    let bad := withLoad (jobT 1 260) []
    let d := descT 0x12 lastT (List.replicate 8 0 ++ leBytes 8 260)
    MgmtAccepted loadedT m 0x80 (originT 4 0x80 lastT) (takenT loadedT 4 m.line) ∧ zeroAt m.line 32 96 = true
    ∧ fld m.line 24 8 = 260 ∧ codeT (step2 (takenT loadedT 4 m.line) none (padTo 64 imgHeadT) 260) = 0
    ∧ codeT (step2 (takenT loadedT 4 m.line) none (padTo 64 []) 260) = cdMagic
    ∧ MgmtAccepted bad m 0x80 (originT 4 0x80 lastT) (takenT bad 4 m.line) ∧ (takenT bad 4 m.line).hf.load.isSome = true
    ∧ LineAccepted blockT d 0x12 (originT 0 0x12 lastT) (takenT blockT 0 d.line) ∧ zeroAt d.line 32 96 = true
    ∧ (claimOf (takenT blockT 0 d.line) 0).adjust = none
    ∧ (claimOf (takenT blockT 0 d.line) 0).st ≠ 3
    ∧ codeT (step2 (takenT blockT 0 d.line) (some 0) (padTo 64 []) 260) = cdMagic := by
  unfold MgmtAccepted LineAccepted LineTaken; decide +kernel
theorem wit_AdjustmentsWaitOrAreRefused :
    let d := descT 0x12 lastT (List.replicate 8 0 ++ leBytes 8 260)
    let e := { blockT with claims := [{ st := 3, cfg := some cfgT }, {}, {}, {}] }
    let b := { blockT with claims := [{ st := 2, cfg := some cfgT, adjust := some (jobT 1 260) }, {}, {}, {}] }
    LineTaken e d 0x12 (originT 0 0x12 lastT) (takenT e 0 d.line) ∧ (claimOf (takenT e 0 d.line) 0).st = 3
    ∧ tenantOk (takenT e 0 d.line) 0 0 = true ∧ commonZero d.line = true
    ∧ LineTaken b d 0x12 (originT 0 0x12 lastT) (takenT b 0 d.line) ∧ (claimOf (takenT b 0 d.line) 0).adjust.isSome = true
    ∧ tenantOk (takenT b 0 d.line) 0 0 = true := by
  unfold LineTaken; decide +kernel
/-- A DELTA of claim 0 against its image 0, ADJ_SEQ 1, passes step 2. -/
def deltaHeadT : List Byte :=
  leBytes 4 0x524F504A ++ [1, 0, 1, 0, 2, 0, 1, 0, 64, 0, 0, 0] ++ leBytes 8 260 ++ leBytes 8 0 ++ [1, 0] ++ List.replicate 30 0
theorem wit_ImagesAreAdjusted : codeT (step2 (takenT blockT 0 (descT 0x12 lastT []).line) (some 0) (padTo 64 deltaHeadT) 260) = 0 := by
  decide +kernel

/-- A public key under which (e, e) signs the digest e of the one byte 1: the point with x = e less the base point. -/
def keyT : List Byte :=
  beBytes 66 0x15404d46b562c78fe7338b1eb9e22493b65198ca890d59fdab4b2733849774c7a401dd66f836a61fb0a08a0dafc7a3585c7f37e2aa1d18ec12b3a58c8232bad5ea6
  ++ beBytes 66 0x77f2590e238888142c8015b81e66fe539c30d320198e4e08387c8fd668d48191ff4c29e762e90b5014840ceeca69201dab09e9799874e2e9d2f43b5fbd516ef52e
def sigT : List Byte := beBytes 66 (beNat (sha512 [1])) ++ beBytes 66 (beNat (sha512 [1]))
theorem wit_SignatureVerifies : ecdsaVerify keyT (sha512 [1]) sigT = true := by decide +kernel
theorem wit_ImagesAreVerified :
    let im := [1] ++ sigT
    let v : LoadJob := { jobT 4 133 with d1 := sha512 [1], sig := sigT }
    let s (st : Nat) := withLoad (jobT 1 133) [⟨st, keyT⟩]
    reach (s 1) = true ∧ hlCan (s 1) 2 5 = true ∧ jobOf (withLoad v []) 4 = some v ∧ v.phase = 4 ∧
    jobOf (s 1) 4 = some (jobT 1 133) ∧ im.length = 133 ∧ im.take (133 - 132) = [1] ∧ im.drop (133 - 132) = sigT
    ∧ verifySlot (s 1) 1 (sha512 [1]) sigT = some 0 ∧ verifySlot (s 2) 1 (sha512 [1]) sigT = none
    ∧ verifySlot (s 2) 2 (sha512 [1]) sigT = some 0 := by decide +kernel
theorem wit_ImagesAreCommitted :
    let j := jobT 2 260
    let s := withLoad j []
    reach s = true ∧ hlCan s 2 5 = true ∧ jobOf s 4 = some j ∧ codeT (baseRules s (some 0) 0 0 1) = 0 ∧ imgT.length = j.len ∧ imgT.take 64 = j.header ∧ j.kind ≠ 2
    ∧ codeT (shadowCfg (hlGot s 2 (granules imgT.length)) j imgT) = 0
    ∧ codeT (shadowCfg (hlGot s 2 (granules imgT.length)) j (imgHeadT ++ List.replicate 196 0)) = cdUnknown := by decide +kernel

def claimLineT (op : Nat) : MDesc := mdescT op [0]
theorem wit_ClaimsStartAndEnd :
    let o (op : Nat) := originT 4 op lastT
    let l (op : Nat) := (claimLineT op).line
    let e := { blockT with claims := [{ st := 3, cfg := some cfgT }, {}, {}, {}] }
    MgmtAccepted loadedT (claimLineT 0x81) 0x81 (o 0x81) (takenT loadedT 4 (l 0x81)) ∧ claimFieldZero (l 0x81) = true
    ∧ (claimOf loadedT 0).starting = none ∧ loadHolds (takenT loadedT 4 (l 0x81)) 0 = false
    ∧ loadHolds (withLoad (jobT 1 260) []) 0 = true ∧ (claimOf blockT 0).st = 2
    ∧ MgmtAccepted blockT (claimLineT 0x82) 0x82 (o 0x82) (takenT blockT 4 (l 0x82))
    ∧ MgmtAccepted e (claimLineT 0x82) 0x82 (o 0x82) (takenT e 4 (l 0x82)) ∧ (claimOf (takenT e 4 (l 0x82)) 0).st = 3
    ∧ MgmtAccepted loadedT (claimLineT 0x82) 0x82 (o 0x82) (takenT loadedT 4 (l 0x82)) ∧ (claimOf loadedT 0).st = 1 := by
  unfold MgmtAccepted; decide +kernel
def endingT : State := { blockT with claims := [{ st := 3, cfg := some cfgT, ending := some (originT 4 0x82 lastT) }, {}, {}, {}] }
theorem wit_DrainedClaimsReturnToLoaded : alive endingT = true ∧ (claimOf endingT 0).st = 3 ∧ requests endingT = [] ∧ endingT.cmds = []
    ∧ (claimOf endingT 0).adjust = none ∧ endingT.watch.arms = [] ∧ testsLeft endingT 0 = false
    ∧ (releaseClaim endingT 0).power.deferred = [] := by decide +kernel

theorem wit_LogKeepsTheMostRecentEntries :
    let s := extendLog State.reset 5 0xF 0 0 []
    s.sec.log.length < 4096 ∧ s.sec.log.length ≤ s.sec.logCount ∧ s.sec.logCount < 2 ^ 64 ∧ firstSeq s = 0
    ∧ (List.replicate 4096 ([] : List Byte)).length = 4096 := by decide +kernel
theorem wit_ReplanFreezeAndAttest :
    let m (op : Nat) (r : List Byte) := mdescT op r
    let t (op : Nat) (r : List Byte) := takenT blockT 4 (m op r).line
    MgmtAccepted blockT (m 0x85 []) 0x85 (originT 4 0x85 lastT) (t 0x85 []) ∧ zeroAt (m 0x85 []).line 16 112 = true
    ∧ MgmtAccepted blockT (m 0x87 []) 0x87 (originT 4 0x87 lastT) (t 0x87 [])
    ∧ MgmtAccepted blockT (m 0x86 [2]) 0x86 (originT 4 0x86 lastT) (t 0x86 [2]) ∧ attestZero (m 0x86 [2]).line = true
    ∧ fld (m 0x86 [2]).line 20 4 < 96 ∧ 96 ≤ fld (m 0x86 ([2, 0, 0, 0] ++ leBytes 4 4096)).line 20 4
    ∧ byteAt (m 0x86 [1]).line 16 = 1 := by
  unfold MgmtAccepted; decide +kernel

/-- The key of slot 1 staged in the key registers, with claim 0 ABSENT. -/
def stagedT (ks : List KeySlot) : State :=
  { blockT with claims := [{}, {}, {}, {}]
                sec := { blockT.sec with keys := ks, keyData := (chunks 17 8 (keyT ++ [0, 0, 0, 0])).map (fun c => BitVec.ofNat 64 (leNat c)) } }
theorem wit_KeysAreProgrammedAndRevoked :
    let s := stagedT [⟨1, []⟩, {}, ⟨1, []⟩, {}, {}, {}, {}, {}]
    let t := stagedT [⟨1, []⟩, {}, {}, {}, {}, {}, {}, {}]
    mgmtUp s = true ∧ bits (0x11 : W64).toNat 5 4 = 1 ∧ bits (0x11 : W64).toNat 2 0 = 1 ∧ keysLocked s = false
    ∧ (s.sec.keys.getD 1 {}).st = 0 ∧ stagedKey s = keyT
    ∧ ecOn (beNat (slice keyT 0 66)) (beNat (slice keyT 66 66)) = true
    ∧ bits (0x10 : W64).toNat 5 4 = 1 ∧ (s.sec.keys.getD 0 {}).st ≠ 0 ∧ bits (0x20 : W64).toNat 5 4 = 2
    ∧ (s.sec.keys.filter (fun k => k.st == 1)).length ≠ 1 ∧ keysLocked t = false
    ∧ (t.sec.keys.filter (fun k => k.st == 1)).length = 1 ∧ keysLocked blockT = true := by decide +kernel
theorem wit_DebugReadsAreLogged : mgmtUp blockT = true ∧ bits (0x100 : W64).toNat 13 8 = 1 ∧ bits (0x100 : W64).toNat 3 0 = 0
    ∧ bits (0x100 : W64).toNat 63 34 + 1 ≤ lodeGranules ∧ bits (0x10C : W64).toNat 3 0 = 12
    ∧ tapOn { blockT with sec := { blockT.sec with tap := { attached := true, instr := 0 } } } = true := by decide +kernel
theorem wit_TapInstructionsAreLoaded : blockT.boot.resetN = true ∧ blockT.boot.stage = 3 ∧ blockT.sec.tap.attached = false
    ∧ (∀ c, c < 4 → claimRuns loadedT c = false) ∧ claimRuns blockT 0 = true := by decide +kernel
theorem wit_PowerPassesAndThermalEvents : alive blockT = true ∧ (planInForce blockT).hotC < 200 ∧ blockT.power.inlet ≠ 0xFF := by
  decide +kernel

/-! ### The steps of requests -/

/-- A request whose step 0 is complete with a result and whose step 1, of a type with its words, is issued. -/
def workT (typ : Nat) (ws : List Nat) (res : StepSt) : Req :=
  { reqT with
    bind := { reqT.bind with recipe := some { recipeT with
      encVocab := some 0, encModel := some 0, rerankModel := some 0, steps := [stepT 1 none none, ⟨typ, some 0, none, ws⟩] } }
    steps := [{ res with st := 2 }, { st := 1 }] }
/-- The block with that request and model 0 READY. -/
def workS (r : Req) : State := { withReq r with face := { blockT.face with models := [((0, 0), 2)] } }
/-- A list of two entries of pit 0. -/
def listT : RList :=
  { k := 2, ents := [⟨0, 0x3F800000, 0, 0, 0⟩, ⟨1, 0x3F000000, 0, 1, 0⟩], flags := 0, epoch := 0, ties := 0, dups := 0, visited := 2 }
def withList : StepSt := { list := some listT }

/-- A request that tokenizes two bytes, with room for 16 tokens or for one. -/
def tokT (limit : Nat) : Req :=
  { reqT with
    desc := { inputBytes := 2 }
    bind := { reqT.bind with recipe := some { recipeT with
      encVocab := some 0, steps := [⟨1, none, none, [0, 0, limit, 0, 0, 0, 0]⟩] } } }
theorem wit_TokenizeEncodesTheInput :
    ((issued (withReq (tokT 0)) 0 0 1).map (·.1)) = some (tokT 0) ∧ (issued (withReq (tokT 1)) 0 0 1).isSome = true
    ∧ vocabOf (withReq (tokT 0)) 0 0 = some vocabT ∧ [(0x61 : Byte), 0x62].length = (tokT 0).desc.inputBytes
    ∧ readsBad (withReq (tokT 0)) 0 (tokenizeLines vocabT none none false [0x61, 0x62]) = false ∧ dataUp (withReq (tokT 0)) 0 = true
    ∧ dataUp { withReq (tokT 0) with hl := { blockT.hl with st := 3 } } 0 = false
    ∧ (truncTokens 16 0 (tokenize vocabT none none false [0x61, 0x62]).1).2 = false
    ∧ (truncTokens 1 0 (tokenize vocabT none none false [0x61, 0x62]).1).2 = true
    ∧ (tokenizeLines vocabT none none false [0x61, 0x62]).any (fun k => readsBad { withReq (tokT 0) with eng := { blockT.eng with
      badLines := [(0, k)] } } 0 (tokenizeLines vocabT none none false [0x61, 0x62])) = true := by decide +kernel
theorem wit_EncodeProducesTheVector :
    let r := workT 2 [0, 0, 0, 0, 0, 0, 0] { tokens := [1] }
    let e := workT 2 [0, 0, 0, 0, 0, 0, 0] {}
    (issued (workS r) 0 1 2).map (·.1) = some r ∧ (issued (workS e) 0 1 2).map (·.1) = some e
    ∧ r.bind.recipe.bind (fun q => encModelOf q ⟨2, some 0, none, [0, 0, 0, 0, 0, 0, 0]⟩) = some 0
    ∧ modelOf (workS r) 0 0 = some modelT ∧ encodeTokens r ⟨2, some 0, none, [0, 0, 0, 0, 0, 0, 0]⟩ = [1]
    ∧ encodeTokens e ⟨2, some 0, none, [0, 0, 0, 0, 0, 0, 0]⟩ = []
    ∧ (runGate (workS r) 0 0 0 modelT [1]).2 = true ∧ (runGate (workS e) 0 0 0 modelT []).2 = true := by decide +kernel
/-- The state in which that step runs; weights of zeros: with finite states the output is zeros, with infinite ones it is NaN. -/
def encS : State := (runGate (workS (workT 2 [0, 0, 0, 0, 0, 0, 0] { tokens := [1] })) 0 0 0 modelT [1]).1
theorem nan32_isNan : isNan32 nan32 = true := by
  have h := Nat.mod_lt Config.nanPayload (show 0 < 2 ^ 23 - 1 by decide)
  unfold isNan32 nan32
  generalize Config.nanPayload % (2 ^ 23 - 1) = p at h
  have e : ∀ x : F32, x.toNat % 2 ^ 23 ≠ 0 → (x.toNat >>> 23) % 2 ^ 8 = 2 ^ 8 - 1 → (dec32 x).isNan = true := by
    intro x h1 h2
    unfold dec32 decIeee
    simp only []
    rw [if_pos h2, if_neg h1]; rfl
  apply e
  · cases Config.nanSign <;> simp only [BitVec.toNat_ofNat, if_true, if_false, Bool.false_eq_true] <;> omega
  · cases Config.nanSign <;> simp only [BitVec.toNat_ofNat, Nat.shiftRight_eq_div_pow, if_true, if_false, Bool.false_eq_true] <;> omega
theorem infiniteStatesGiveNan : projected encS 0 0 modelT (pooled modelT [List.replicate 64 0x7F80]) [0] = [nan32, nan32] := by rfl
theorem wit_EncodeOutputIsFiniteOrNot :
    (encodeOut false (projected encS 0 0 modelT (pooled modelT [List.replicate 64 0]) [0])).2 = false
    ∧ (encodeOut false (projected encS 0 0 modelT (pooled modelT [List.replicate 64 0x7F80]) [0])).2 = true := by
  refine ⟨by decide +kernel, ?_⟩
  rw [infiniteStatesGiveNan]; simp [encodeOut, nan32_isNan]

/-- A walk of pit 0 for step 1 of slot 0, and the block with it. -/
def searchT : Search :=
  { owner := .request 0 1, claim := 0, pit := 0, epoch := 0, query := ⟨[0, 0, 0, 0], 0, 0⟩, k := 1, beam := 4, nStrands := 1
    width := 1, limit := 8, label := none, budget := 8, flat := false }
def withSearch (x : Search) : State :=
  { workS (workT 3 [0, 0, 0, 0, 0, 0, 0] {}) with drift := { blockT.drift with searches := [(5, x)] } }
theorem wit_SearchesStartWithAllTheirBuffers :
    let s := withSearch searchT
    let f := withSearch { searchT with nStrands := 33 }
    s.drift.searches.find? (fun q => q.2.claim == 0 && !q.2.started) = some (5, searchT) ∧ pitSecOf s 0 0 = some pitT
    ∧ unitOk s 0x11 0 = true ∧ buffersUsed s 0 + 1 ≤ buffersOf s 0 ∧ buffersOf f 0 < buffersUsed f 0 + 33 := by decide +kernel
def strandT (e : Nat) (l : List WalkEnt) : Strand :=
  { engine := e, waiting := false, list := l, results := [], filter := [], visits := 0, done := false, hit := false }
def walkEntT : WalkEnt := { loc := ⟨1, 0, none⟩, est := 0, initial := true, resolved := false, expanded := false }
def startedT (t : Strand) : Search := { searchT with started := true, strands := [t], buffers := 1 }
theorem wit_StrandsWalkAndHandOff :
    let x (e : Nat) (l : List WalkEnt) := startedT (strandT e l)
    let s (e : Nat) (l : List WalkEnt) := withSearch (x e l)
    wantsHandoff (askOf (s 1 [walkEntT]) (x 1 [walkEntT])) (strandT 1 [walkEntT]) = false
    ∧ unitOk (s 1 []) 2 1 = true ∧ kget (s 1 []).drift.searches 5 = some (x 1 []) ∧ (x 1 []).strands[0]? = some (strandT 1 [])
    ∧ (strandRoundOf (pitView (s 1 []) 0 0 pitT) (askOf (s 1 []) (x 1 [])) (strandT 1 [])).1.done = true
    ∧ (strandRoundOf (pitView (s 1 []) 0 0 pitT) (askOf (s 1 []) (x 1 [])) (strandT 1
        [{ walkEntT with resolved := true }])).1.done = false
    ∧ wantsHandoff (askOf (s 0 [walkEntT]) (x 0 [walkEntT])) (strandT 0 [walkEntT]) = true
    ∧ unitOk (s 0 [walkEntT]) 0x11 0 = true := by decide +kernel
def scanT (kind : Nat) : Search := { searchT with started := true, kind := kind, scans := [1], label := some 3 }
theorem wit_ScansReadEachChannelOnce : (scanT 1).scans.contains 1 = true ∧ (scanT 1).kind ≠ 2 ∧ (scanT 2).kind = 2
    ∧ kget (withSearch (scanT 2)).drift.searches 5 = some (scanT 2) ∧ pitSecOf (withSearch (scanT 2)) 0 0 = some pitT
    ∧ unitOk (withSearch (scanT 2)) 2 1 = true ∧ engineLoad (withSearch (scanT 2)) 1 = 0
    ∧ (scanT 2).scanOn.contains 1 = false ∧ ({ scanT 2 with scanOn := [1] } : Search).scanOn.contains 1 = true
    ∧ engineLoad (withSearch { scanT 2 with scanOn := [1], strands := List.replicate 16 (strandT 1 []) }) 1 = 17 := by decide +kernel
theorem wit_FinishedSearchesMerge :
    let x := startedT { strandT 1 [] with done := true }
    kget (withSearch x).drift.searches 5 = some x ∧ x.owner = .request 0 1 ∧ searchOver x = true
    ∧ unitOk (withSearch x) 0x11 0 = true ∧ alive (withSearch x) = true ∧ searchOver searchT = false := by decide +kernel
def writeT : Req := { workT 10 [0, 0, 0, 0, 0, 0, 0] withList with cur := some listT, desc := { resultAddr := 65536, resultBytes := 256 } }
def packedT : Req := { writeT with bind := { writeT.bind with recipe := some { recipeT with
  steps := [⟨7, none, none, []⟩, ⟨10, some 0, none, []⟩] } } }
theorem wit_ResultsAreWrittenToTheCompanion : (issued (workS writeT) 0 1 10).isSome = true ∧ dataUp (workS writeT) 0 = true
    ∧ (planOf writeT).any (fun t => t.typ == 7) = false ∧ (issued (workS packedT) 0 1 10).isSome = true
    ∧ (planOf packedT).any (fun t => t.typ == 7) = true
    ∧ (let s := { workS writeT with hl := { blockT.hl with st := 3 } }
       (issued s 0 1 10).isSome = true ∧ dataUp s 0 = false) := by decide +kernel

/-- A request of FEATURES on ledger 0 over two entries, and one of ASSAY_1 over what that gave. -/
def featT : Req := workT 4 [0xFF00, 0, 0, 0, 0, 0, 0] withList
theorem wit_FeaturesGatherTheRows :
    let s := { gatherT with
      slots := [(0, { gen := 0, occ := some featT })]
      cage := { blockT.cage with pages := [(lpageT, { st := .resident, frame := some (0, 0) })] } }
    let t : StepRec := ⟨4, some 0, none, [0xFF00, 0, 0, 0, 0, 0, 0]⟩
    (issued s 0 1 4).map (·.2) = some t ∧ featT.bind.recipe.bind (fun q => featLedger q t) = some 0
    ∧ t.dep0.bind (fun d => (stepSt featT d).list) = some listT ∧ policyLedger t = none ∧ ledgerOpen s 0 0 = true
    ∧ (fetchAll s 0 1 0 0 featT listT.ents).2 = true
    ∧ rowsReady s 0 0 (myRows s 0 listT.ents) = true ∧ (uniteLists listT none).1.ents = listT.ents
    ∧ (gatherPages (fetchAll s 0 1 0 0 featT listT.ents).1 0 (rowPages (fetchAll s 0 1 0 0 featT listT.ents).1 0 0 (myRows s 0 listT.ents))).2 = true := by
  decide +kernel
def assayT : Req :=
  { workT 5 [0x20000, 0, 0, 0, 0, 0, 0] withList with
    bind := { reqT.bind with recipe := some { recipeT with steps := [⟨4, none, none, [0xFF00]⟩, ⟨5, some 0, none, [0x20000]⟩] } } }
theorem wit_AssayScoresByTheFormula :
    let s := { gatherT with slots := [(0, { gen := 0, occ := some assayT })] }
    (issued s 0 1 5).map (·.1) = some assayT ∧ (stepSt assayT 0).list = some listT ∧ (planOf assayT)[0]? = some ⟨4, none, none, [0xFF00]⟩
    ∧ featLedger recipeT ⟨4, none, none, [0xFF00]⟩ = some 0 ∧ ledgerSecOf s 0 0 = some ledgerT := by decide +kernel
theorem wit_RerankingReplacesTheScores :
    let w := workT 6 [0x20000, 0, 0xFF, 0x3F800000, 0, 0, 0] withList
    let r := { w with bind := { w.bind with pit := some 0 } }
    let s := workS r
    let t : StepRec := ⟨6, some 0, none, [0x20000, 0, 0xFF, 0x3F800000, 0, 0, 0]⟩
    (issued s 0 1 6).map (·.1) = some r ∧ r.bind.recipe.bind (·.rerankModel) = some 0 ∧ reqPit s r = some (0, pitT)
    ∧ hitLedger t = none ∧ (listT.ents.take (candidatesOf t)).length = [(0 : F32), 0].length
    ∧ (fetchAll s 0 1 1 0 r listT.ents).2 = true
    ∧ (let f := fetchAll s 0 1 1 0 r listT.ents
       (runGate f.1 0 0 0 modelT (assayPairs f.1 0 r t modelT 0 pitT listT.ents).flatten).2 = true) := by decide +kernel

/-- A template of one literal token, the history and the question. -/
def tplT : TemplateSec := { vocab := 0, items := [⟨1, false, 0, 1, 0⟩, ⟨2, false, 0, 0, 0⟩, ⟨4, false, 0, 0, 0⟩], tokens := [0] }
def packT (budget : Nat) : Req :=
  let w := workT 7 [0, budget, 0, 0, 0, 0, 0] {}
  { w with desc := { historyTokens := 2 }
           bind := { w.bind with
             templates := [(0, tplT)], recipe := some { recipeT with steps := [stepT 1 none none, ⟨7, none, none, [0, budget, 0, 0]⟩] } } }
theorem wit_PackPlacesThePrompt :
    let t (b : Nat) : StepRec := ⟨7, none, none, [0, b, 0, 0]⟩
    let p (b : Nat) := packPrompt tplT (packBudget (workS (packT b)) (packT b) (t b)) 0 0 0 [] [1, 1] []
    (issued (workS (packT 8)) 0 1 7).map (·.1) = some (packT 8) ∧ (issued (workS (packT 2)) 0 1 7).isSome = true
    ∧ ((packT 8).bind.recipe.bind (fun q => packTemplate q (t 8))).bind (kget (packT 8).bind.templates) = some tplT
    ∧ dataUp (workS (packT 8)) 0 = true ∧ dataUp { workS (packT 8) with hl := { blockT.hl with st := 3 } } 0 = false
    ∧ reqPit (workS (packT 8)) (packT 8) = none
    ∧ (packT 8).bind.pit = none ∧ (p 8).map (fun x => (x.1, x.2.1.dropped, x.2.2)) = some ([0, 1, 1], 0, 2)
    ∧ (p 2).map (fun x => (x.1, x.2.1.dropped, x.2.2)) = some ([0, 1], 0, 1)
    ∧ packPrompt { tplT with tokens := [0, 1, 0], items := [⟨1, false, 0, 3, 0⟩] } 2 0 0 0 [] [1, 1] [] = none := by decide +kernel

/-! ### Generation, haulage and the links -/

/-- A request that generates: PREFILL at step 1 of a prompt of 3 tokens, reserved; and one in GENERATE with a batch. -/
def genT (typ : Nat) (ws : List Nat) (g : ReqGen) : Req :=
  let w := workT typ ws {}
  { w with gen := g, desc := { maxNew := 4 }, bind := { w.bind with recipe := some { recipeT with
      steps := [stepT 1 none none, ⟨typ, some 0, none, ws⟩] } } }
def prefillT (chunk : Nat) : Req := genT 8 [chunk, 0, 0, 0, 0, 0, 0] { prompt := [0, 1, 0], granted := true, resv := 2 }
/-- Its state, with the embedding row's page RESIDENT. -/
def genS (r : Req) : State :=
  { workS r with cage := { blockT.cage with pages := [(lpageT, { st := .resident, frame := some (0, 0) })] } }
theorem wit_ReservationsAreGrantedInAdmissionOrder :
    let r (k : Nat) := genT 8 [0, 0, 0, 0, 0, 0, 0] { prompt := [0], resvAsked := some k }
    let first (k : Nat) := leastBy (fun (a b : Nat × Req) => decide (a.2.bind.order < b.2.bind.order))
      ((requests (workS (r k))).filter (fun x =>
        x.2.claim == 0 && x.2.commit.isNone && x.2.gen.resvAsked.isSome && !x.2.gen.granted))
    let room := poolPages (workS (r 2)) 0 1 - fencedFrames (workS (r 2)) 0 1 + poolPages (workS (r 2)) 0 0x10
    first 2 = some (0, r 2) ∧ first 81 = some (0, r 81) ∧ booked (workS (r 2)) 0 + 2 ≤ room
    ∧ room < booked (workS (r 81)) 0 + 81 := by decide +kernel
def prefillOk (r : Req) (lo hi : Nat) : Bool :=
  let s := genS r
  let toks := (r.gen.prompt.drop lo).take (hi - lo)
  let looks := passLooks s r toks toks
  let a := modelsReady s 0 r
  let b := gatherPages a.1 0 (passPages a.1 r ++ lookPages a.1 0 looks ++ tailPages a.1 0 r ++ seqPages a.1 0 r 0 lo)
  let c := writePages b.1 0 (⟨0, 1, 0, countTableIdx⟩ :: seqPages b.1 0 r lo hi)
  let kv := (List.range hi).map (fun p => (⟨0, p, List.replicate 64 0, List.replicate 64 0⟩ : KvRow))
  looksReady s 0 looks && rowsGiven s r false lo hi kv && rowsGiven s r true lo hi kv && a.2 && b.2 && c.2
theorem wit_PrefillWritesChunksOfThePrompt :
    stepNoOf (genS (prefillT 2)) 0 8 = some 1 ∧ (running (genS (prefillT 2)) 0).isSome = true ∧ genOf (genS (prefillT 2)) (prefillT 2) = some modelT
    ∧ prefillOk (prefillT 2) 0 2 = true ∧ stepNoOf (genS (prefillT 0)) 0 8 = some 1 ∧ prefillOk (prefillT 0) 0 3 = true := by decide +kernel
def verifyT : Req := genT 9 [0, 0, 0, 0, 0, 0, 0] { prompt := [0], granted := true, prefilled := 1, committed := 1 }
def batchT : Req := genT 9 [0, 0, 0, 0, 0, 0, 0] { toks := [0], batches := [⟨0, [0], false⟩] }
/-- Two requests that go on after their first token, of a model whose decode passes take two. -/
def deepT (n : Nat) : Req :=
  genT 9 [0, 0, 0, 0, 0, 0, 0] { prompt := [0], granted := true, prefilled := 1, committed := 1, draftCommitted := 1, toks := [n] }
def groupS (pass : Nat) : State :=
  { withCfg { cfgT with models := [(0, ⟨true, 0, { modelT with decodePass := pass }, 0⟩)] } with
    slots := [(0, { gen := 0, occ := some (deepT 0) }), (1, { gen := 0, occ := some (deepT 1) })]
    face := { blockT.face with models := [((0, 0), 2)] } }
theorem wit_VerificationDrawsAndCommits :
    stepNoOf (genS verifyT) 0 9 = some 1 ∧ genOf (genS verifyT) verifyT = some modelT ∧ vocabOf (genS verifyT) 0 0 = some vocabT
    ∧ verifyT.gen.ended = none ∧ verifyT.gen.batches = [] ∧ stalled (genS verifyT) 0 verifyT = false
    ∧ [(0 : F32), 0, 0].length = vocabT.toks.length ∧ draftLenOf verifyT ⟨9, some 0, none, [0]⟩ modelT false = 0
    ∧ groupOk (genS verifyT) 0 verifyT modelT [] = true ∧ verifyT.gen.toks = []
    ∧ looksReady (genS verifyT) 0 (passLooks (genS verifyT) verifyT (stepTokens verifyT []).1 (stepTokens verifyT []).2) = true
    ∧ (let a := modelsReady (genS verifyT) 0 verifyT
       let b := gatherPages a.1 0 (verifyReads a.1 0 verifyT [])
       a.2 = true ∧ b.2 = true ∧ (writePages b.1 0 (verifyWrites b.1 0 verifyT 0)).2 = true)
    ∧ groupOk (groupS 2) 0 (deepT 0) { modelT with decodePass := 2 } [1] = true
    ∧ rowsGiven (groupS 2) (deepT 0) false 1 2 [⟨0, 1, List.replicate 64 0, List.replicate 64 0⟩] = true ∧ stepNoOf (genS batchT) 0 9 = some 1 ∧ batchT.gen.batches ≠ [] := by decide +kernel
/-- The first position's attention over the one Lode that holds it, while the prompt's first chunk runs. -/
theorem wit_AttentionPartialsMerge :
    let r := prefillT 2
    let s := genS r
    let kv := [(⟨0, 0, List.replicate 64 0, List.replicate 64 0⟩ : KvRow)]
    let a := modelsReady s 0 r
    let b := gatherPages a.1 0 (tailPages a.1 0 r ++ layerPages a.1 0 r 0 (pppOf modelT) 0 0)
    let c := writePages b.1 0 (layerPages b.1 0 r 0 (pppOf modelT) 0 1)
    let w := writeLayer (tailCopy c.1 0 r) 0 r modelT 0 0 1 kv
    let s5 := modReq w 0 (fun r => { r with gen := { r.gen with kvDone := kset r.gen.kvDone 0 1 } })
    stepNoOf s 0 8 = some 1 ∧ stepNoOf blockT 0 8 = none ∧ stepNoOf blockT 0 9 = none
    ∧ running s 0 = some r ∧ (layersOf s r).find? (fun x => x.1 == 0) = some (0, pppOf modelT, false) ∧ passModel s r false = some modelT
    ∧ passRange s 0 r false = some (0, 2) ∧ 0 < modelT.qHeads ∧ kvGiven modelT kv 0 (kvFrom r 0 0) 1 = true ∧ a.2 = true ∧ b.2 = true ∧ c.2 = true
    ∧ (attnLodes s5 0 r 0 (pppOf modelT) 0).length = 1
    ∧ (attnLodes s5 0 r 0 (pppOf modelT) 0).map (lodePositions s5 0 r 0 (pppOf modelT) 0) = [[0]] := by
  decide +kernel
theorem wit_DisallowedTokensPlayNoPart :
    (draw { temperature := 0, topP := 0, minP := 0, topK := 0, presence := 0, frequency := 0, repetition := 0x3F800000,
             countPrompt := false } 0 0
      (fun _ => true) [] [0, 0x3F800000, 0]).tok = some 1 := by decide +kernel
theorem wit_BatchesAreDetokenized : stepNoOf (genS batchT) 0 9 = some 1 ∧ (running (genS batchT) 0).isSome = true
    ∧ (genOf (genS batchT) batchT).bind (fun m => vocabOf (genS batchT) 0 m.vocab) = some vocabT ∧ stalled (genS batchT) 0 batchT = false
    ∧ detokBad (genS batchT) batchT 0 vocabT [0] = false
    ∧ (let r := { batchT with stream := { held := [⟨[], 0, 0⟩] } }
       stepNoOf (genS r) 0 9 = some 1 ∧ stalled (genS r) 0 r = true) := by decide +kernel
theorem wit_WaitingRequestsAreGrantedInOrder :
    let s := { withReq reqT with haul := { blockT.haul with streamWaits := [0] }, cage := { blockT.cage with staging := [(0, 0)] } }
    let f := { s with hf := { s.hf with fences := [(⟨0xF, 0⟩, { st := 2 })] } }
    s.haul.streamWaits.find? (fun m => ((reqOf s m).map (·.claim)) == some reqT.claim) = some 0 ∧ (takeShaper s 0 reqT).2 = true
    ∧ (withReq reqT).haul.streamWaits.find? (fun m => ((reqOf (withReq reqT) m).map (·.claim)) == some 0) ≠ some 0
    ∧ s.cage.staging.find? (fun a => ((reqOf s a.1).map (·.claim)) == some 0) = some (0, 0)
    ∧ alive s = true ∧ (reqOf s 0) = some reqT
    ∧ (planOf reqT)[0]? = some (stepT 1 none none) ∧ bankRoom s 0 (stepEngines reqT 1) = true
    ∧ (roomyGroup s 0 (stagingNeed s reqT 0 (stepT 1 none none))).isSome = true
    ∧ roomyGroup f 0 (stagingNeed f reqT 0 (stepT 1 none none)) = none
    ∧ bankRoom { s with haul := { s.haul with rosters := (List.range 2).map (fun b =>
      ((⟨0, 0, b⟩ : RUnit), { queue := List.replicate 64 ⟨some 9, 0, 0⟩ })) } } 0 [0] = false := by decide +kernel
def shaperT : ShaperSec :=
  { refillUs := 100, policerMap := [0], police := [⟨1, 2⟩], stream := [⟨1, 2⟩], egress := [⟨0, List.replicate 8 ⟨1, 0⟩⟩] }
def shapedT : State := { withCfg { cfgT with shaper := some ⟨true, 0, shaperT, 0⟩ } with haul := { blockT.haul with
  shapers := [(0, shaperT)], policers := [((0, 0), { micro := 5 })] } }
theorem wit_BucketsAreRefilled : (cfgOf shapedT 0).isSome = true ∧ kget shapedT.haul.shapers 0 = some shaperT
    ∧ alive shapedT = true ∧ claimRuns shapedT 0 = true ∧ kget shapedT.haul.policers (0, 0) = some { micro := 5 } := by decide +kernel

def gateT (pos : Nat) : State := { blockT with haul := { blockT.haul with gates := [(0, { windows := [(10, 1), (20, 2)], pos := pos })] } }
theorem wit_GateWindowsAdvance : (kget (gateT 0).haul.gates 0).map (·.pos) = some 0 ∧ (kget (gateT 1).haul.gates 0).map (·.pos) = some 1
    ∧ linkOwner (gateT 0) 0 = some 0
    ∧ ((({ cfgT with gates := some ⟨true, 0, [⟨0, [(5, 1)]⟩], 0⟩ } : ClaimCfg).gates).bind (fun i =>
      i.sec.find? (fun e => e.link == 0))).map (·.windows) = some [(5, 1)]
    ∧ (((cfgOf (gateT 1) 0).bind (·.gates)).bind (fun i => i.sec.find? (fun e => e.link == 0))).map (·.windows) = none := by decide +kernel

/-- A peer of claim 0 on Adit link 0, the link UP with credits, and a message of it. -/
def identT : AdIdentity :=
  { serial := Config.serial + 1, link := 0, claim := 0, moduleId := 1, gangSize := 2, district := 0, tag := 0, incarnation := 1 }
def adLinkT (avail : Nat) : AditLink :=
  { st := 2, laneMask := 0xF, chosen := 1, peer := some identT, avail := List.replicate 7 avail }
def withLink (x : AditLink) : State := { blockT with adit := { blockT.adit with links := lmod blockT.adit.links 0 (fun _ => x) } }
def frameT (last : Bool) : Frame :=
  { len := 480, last := last, msg := { src := 0, dst := 1, step := 0, incarnation := 0, peerSeq := 0, handle := 0, home := 0, tenant := 0
                                       object := 0, payload := [] } }
def egressT (avail cls : Nat) : State :=
  { withLink (adLinkT avail) with haul := { blockT.haul with
    frames := [((0, cls), [frameT true])], shapers := [(0, shaperT)], egress := [((0, 1), 0)] } }
theorem wit_FramesLeaveWithinTheirCredits : kgetD (egressT 2 0).haul.frames (0, 0) [] = [frameT true] ∧ linkOwner (egressT 2 0) 0 = some 0
    ∧ (linkOf (egressT 2 0) 0).st = 2 ∧ unitOk (egressT 2 0) 0xD 0 = true ∧ flitsOf (frameT true).len = 2
    ∧ (linkOf (egressT 2 0) 0).avail.getD 0 0 = 2 ∧ (linkOf (egressT 1 0) 0).avail.getD 0 0 = 1
    ∧ bucketLets (egressT 2 1) 0 0 1 = false := by decide +kernel
def rosterCfgT : ClaimCfg := { cfgT with roster := some ⟨true, 0, { hoistShare := 1, tenantClass := [], tables := [⟨0, 8, [(0, 8)]⟩, ⟨4, 8, [(0, 8)]⟩] }, 0⟩ }
def rosterT (engine : Nat) : State := { withCfg rosterCfgT with haul := { blockT.haul with
  rosters := [(⟨0, engine, 0⟩, { queue := [⟨some 0, 0, 0⟩] })] } }
theorem wit_UnitsRunWhatTheirRosterGives : (serve (rosterT 0) ⟨0, 0, 0⟩ 1).isSome = true ∧ (serve (rosterT 4) ⟨0, 4, 0⟩ 1).isSome = true
    ∧ serve blockT ⟨0, 0, 0⟩ 1 = none ∧ unitOk blockT (unitClass 0) 0 = true ∧ unitOk blockT (unitClass 4) 0 = true := by decide +kernel
/-- A Lode that writes a page back runs a command of class MAINT, which no request issued (R361, R364). -/
theorem test_maint_work_is_on_the_roster :
    let g : ClaimCfg := { cfgT with roster := some ⟨true, 0, { hoistShare := 1, tenantClass := [], tables := [⟨1, 8, [(18, 8)]⟩] }, 0⟩ }
    let s := { withCfg g with cage := { blockT.cage with pages := [(lpageT, { st := .demoting, frame := some (0, 0), wbStart := true })] } }
    (serve s ⟨0, 1, 0⟩ 1).map (·.1) = some ⟨none, 18, 0xFF⟩ := by decide +kernel

/-- Hoistlink in a STATE, and a training that passed the lanes of a mask. -/
def hlT (st : Nat) (chosen : BitVec 8) : State := { blockT with hl := { blockT.hl with st := st, chosen := chosen } }
def hlTrainT (pass : BitVec 16) (peer : BitVec 8) : HlTrain := { pass := pass, polarity := 0, reversed := false, peerSet := peer, base := 0 }
theorem wit_HoistlinkTrains : hlPowered (hlT 1 0) = true ∧ alive (hlT 1 0) = true ∧ (hlT 1 0).hl.st = 1 ∧ (hlT 4 1).hl.st = 4 ∧ (hlT 2 1).hl.st = 2
    ∧ popcount 16 ((hlTrainT 7 1).pass &&& ~~~(hlT 1 0).hl.laneDisable).toNat < 4
    ∧ 4 ≤ popcount 16 ((hlTrainT 0xF 1).pass &&& ~~~(hlT 1 0).hl.laneDisable).toNat ∧ (hlTrainT 0xF 2).peerSet &&& 1 = 0
    ∧ (hlTrainT 0xF 1).peerSet &&& 1 ≠ 0 ∧ (hlT 1 0).hl.chosen = 0 ∧ (hlT 3 1).hl.chosen ≠ 0 := by decide +kernel
theorem wit_HoistlinkStateLossAndCredits : blockT.hl.st = 2 ∧ alive blockT = true ∧ (1 : Nat) < 3 ∧ (vcOf (hlUse blockT 1 0) 1).held = [0]
    ∧ (hlT 3 1).hl.st ≠ 2 := by decide +kernel
theorem wit_HoistlinkRetrainsAndLosesLanes : mgmtUp blockT = true ∧ blockT.hl.st = 2 ∧ blockT.hl.crcRun < 15
    ∧ 15 ≤ ({ blockT.hl with crcRun := 15 } : HlState).crcRun ∧ (hlT 3 1).hl.st ≠ 2 ∧ blockT.hl.laneMask.getLsbD 15 = true
    ∧ 4 ≤ popcount 16 (blockT.hl.laneMask &&& ~~~(1#16 <<< 15)).toNat
    ∧ popcount 16 ((0xF : BitVec 16) &&& ~~~(1#16 <<< 3)).toNat < 4 ∧ (0xF : BitVec 16).getLsbD 3 = true := by decide +kernel
theorem wit_HoistlinkSwitchesItsClock : hlPowered blockT = true ∧ hlPowered (hlT 1 0) = true ∧ alive blockT = true
    ∧ alive State.reset = false := by decide +kernel

/-- Adit link 0 in a STATE, with or without a plan of the peer's link. -/
def adT (st : Nat) (expLink : Nat) : State := withLink { adLinkT 1 with st := st, expLink := expLink }
theorem serial_ne : identT.serial ≠ Config.serial := by
  unfold identT; intro h
  have h2 : Config.serial + 1 - Config.serial = Config.serial - Config.serial := congrArg (· - Config.serial) h
  rw [BitVec.add_comm, BitVec.add_sub_cancel, BitVec.sub_self] at h2; exact absurd h2 (by decide)
theorem identT_good : identFault (adT 1 0xFF) 0 0 identT = 0 ∧ identFault (adT 3 0xFF) 0 0 identT = 0
    ∧ identFault (adT 1 5) 0 0 identT = 6 ∧ identFault (adT 6 0xFF) 0 0 identT = 0 ∧ identFault (adT 6 5) 0 0 identT = 6 := by
  refine ⟨?_, ?_, ?_, ?_, ?_⟩ <;> unfold identFault <;>
    rw [if_neg (by decide), if_neg serial_ne, if_neg (by decide +kernel), if_neg (by decide +kernel), if_neg (by decide +kernel)]
  · rw [if_neg (by decide +kernel)]
  · rw [if_neg (by decide +kernel)]
  · rw [if_pos (by decide +kernel)]
  · rw [if_neg (by decide +kernel)]
  · rw [if_pos (by decide +kernel)]
theorem wit_AditLinksTrainToUp : linkOwner (adT 1 0xFF) 0 = some 0 ∧ linkPowered (adT 1 0xFF) 0 = true ∧ (linkOf (adT 1 0xFF) 0).st = 1
    ∧ (linkOf (adT 4 0xFF) 0).st = 4 ∧ linkPowered (adT 4 0xFF) 0 = true ∧ (linkOf (adT 6 0xFF) 0).st = 6 ∧ linkPowered (adT 6 0xFF) 0 = true ∧ (linkOf (adT 2 0xFF) 0).st = 2
    ∧ (0xF : BitVec 4) &&& ~~~(linkOf (adT 1 0xFF) 0).laneDisable ≠ 0 ∧ (0 : BitVec 4) &&& ~~~(linkOf (adT 1 0xFF) 0).laneDisable = 0
    ∧ ((linkOf (adT 3 0xFF) 0).peer.map (·.incarnation)) = some identT.incarnation := by decide +kernel
theorem wit_IdentityChecks : identFault (adT 1 0xFF) 0 0 { identT with district := 1 } = 1 := by decide +kernel
theorem wit_MiswiredLinksCarryNothing : identT.district = 0 ∧ identT.tag = (gangOf (adT 6 5) 0).tag
    ∧ identT.gangSize = ownOf (adT 6 5) 0 (·.gangSize) ∧ identT.moduleId < identT.gangSize
    ∧ identT.moduleId ≠ ownOf (adT 6 5) 0 (·.gangModuleId) ∧ (linkOf (adT 6 5) 0).st = 6 ∧ 0 < (adT 6 5).adit.links.length
    ∧ (linkOf (adT 6 0xFF) 0).expLink = 0xFF ∧ (linkOf (adT 6 5) 0).expLink ≠ identT.link := by decide +kernel
theorem wit_AditLinksRetrainAndLoseLanes : (linkOf (withLink (adLinkT 1)) 0).st = 2 ∧ alive (withLink (adLinkT 1)) = true
    ∧ (linkOf (withLink (adLinkT 1)) 0).crcRun < 15 ∧ 15 ≤ (linkOf (withLink { adLinkT 1 with crcRun := 15 }) 0).crcRun
    ∧ (linkOf (withLink (adLinkT 1)) 0).laneMask.getLsbD 3 = true ∧ (0xF : BitVec 4) &&& ~~~(1#4 <<< 3) ≠ 0
    ∧ (8 : BitVec 4) &&& ~~~(1#4 <<< 3) = 0 := by decide +kernel
theorem wit_AditClocksLivenessAndClass7 : openLink (withLink (adLinkT 1)) 0 = some (0, identT) ∧ (withLink (adLinkT 1)).adit.held = []
    ∧ 0 < (linkOf (withLink (adLinkT 1)) 0).avail.getD 0 0 ∧ openLink (withLink (adLinkT 0)) 0 = some (0, identT)
    ∧ (linkOf (withLink (adLinkT 0)) 0).avail.getD 0 0 = 0 ∧ kgetD (withLink (adLinkT 1)).haul.frames (0, 0) [] = []
    ∧ kgetD (egressT 1 0).haul.frames (0, 0) [] ≠ [] := by
  refine ⟨rfl, rfl, ?_, rfl, ?_⟩ <;> decide +kernel

/-! ### Peers, self-tests, reset, registers and traces -/

/-- A message of the peer for the request in slot 0, with a payload. -/
def msgT (payload : List Byte) (inc : BitVec 16) : AdMsg :=
  { src := 1, dst := 0, step := 1, incarnation := inc, peerSeq := 0, handle := 0, home := 0, tenant := 0, object := 0, payload := payload }
/-- The open link with a gang and awaits of a request in slot 0. -/
def peerT (g : GangState) (as : List Await) (r : Req) : State :=
  { withReq r with adit := { (withLink (adLinkT 8)).adit with gangs := [g, {}, {}, {}], awaits := as } }
def markedT : GangState := { peers := [(1, { lowest := 1 })] }
theorem wit_PeerMessagesAreServedOnce : openLink (peerT {} [] reqT) 0 = some (0, identT) ∧ (msgT [] 1).src = identT.moduleId
    ∧ (peerT {} [] reqT).adit.held = [] ∧ isStale (peerT {} [] reqT) 0 identT (msgT [] 2) = true
    ∧ isStale (peerT {} [] reqT) 0 identT (msgT [] 1) = false ∧ isDuplicate ({} : PeerState) 0 = false
    ∧ isDuplicate (kgetD (gangOf (peerT markedT [] reqT) 0).peers 1 {}) 0 = true
    ∧ isStale (peerT markedT [] reqT) 0 identT (msgT [] 1) = false ∧ (gangOf (peerT {} [] reqT) 0).remote.length < 4096
    ∧ (ledgerSecOf (peerT {} [] reqT) 0 0).isSome = true
    ∧ ledgerOpen { peerT {} [] reqT with store := (withLedger { st := 4 }).store } 0 0 = false
    ∧ 4096 ≤ (gangOf (peerT { remote := List.replicate 4096 ⟨0, 1, msgT [] 1, none⟩ } [] reqT) 0).remote.length := by
  refine ⟨rfl, ?_⟩; decide +kernel
theorem wit_MessageNumbersAreAcceptedOnce : ([] : List W32).length < 65536 ∧ (1 : W32) ≠ 0 ∧ isDuplicate ({} : PeerState) 1 = false := by
  decide +kernel
def awaitT (cls : Nat) : Await := ⟨0, 1, cls, 1, [7]⟩
theorem wit_AnswersReachTheirRequest :
    let s (cls : Nat) := peerT {} [awaitT cls] (workT 4 [0xFF00, 0, 0, 0, 0, 0, 0] withList)
    openLink (s 3) 0 = some (0, identT) ∧ isStale (s 3) 0 identT (msgT [] 1) = false ∧ reqOf (peerT {} [] reqT) 1 = none
    ∧ (reqOf (s 3) 0).isSome = true ∧ handleOf (s 3) 0 = (msgT [1] 1).handle.toNat ∧ handleOf (s 3) 0 ≠ 65536
    ∧ (reqOf (s 3) 0).map (·.claim) = some 0 ∧ (reqOf (s 3) 0).map (·.commit) = some none
    ∧ (s 3).adit.awaits.find? (fun a => a.slot == 0 && a.step == (msgT [] 1).step && a.cls == 3 && a.peer == 1) = some (awaitT 3)
    ∧ (s 1).adit.awaits.find? (fun a => a.slot == 0 && a.step == (msgT [] 1).step && a.cls == 1 && a.peer == 1) = some (awaitT 1) := by
  refine ⟨rfl, ?_⟩; decide +kernel
theorem wit_PeersAreLost :
    let up := peerT {} [] reqT
    let down := { blockT with adit := blockT.adit }
    canLose up 0 1 = true ∧ canLose down 0 1 = true ∧ canLose up 0 0 = false ∧ upLinks up 0 1 = [0] ∧ upLinks down 0 1 = []
    ∧ (dedup ((up.adit.awaits.filter (fun a => a.peer == 1)).map (·.slot))).filter
      (fun n => ((running up n).map (fun r => r.claim == 0)).getD false) = [] := by decide +kernel

def testLineT (cls idx force : Nat) : Desc := descT 0x13 lastT (leBytes 1 cls ++ leBytes 1 idx ++ leBytes 1 force)
def askedT (u : UnitId) : TestReq := { unit := u, claim := 0, force := false, o := some (originT 0 0x13 lastT) }
def withTests (ts us : List TestReq) : State := { blockT with power := { blockT.power with tests := ts, testing := us } }
theorem wit_SelfTestsAreAsked :
    let d := testLineT 1 0 0
    let f := testLineT 1 0 1
    let s1 := takenT blockT 0 d.line
    LineAccepted blockT d 0x13 (originT 0 0x13 lastT) s1 ∧ zeroAt d.line 19 109 = true ∧ byteAt d.line 18 / 2 = 0
    ∧ testClass 1 = true ∧ ownsUnit s1 0 ⟨1, 0⟩ = true ∧ s1.power.retired.contains ⟨1, 0⟩ = false ∧ testDefers s1 0 ⟨1, 0⟩ = true
    ∧ byteAt f.line 18 % 2 = 1 ∧ testDefers s1 0 ⟨0, 72⟩ = false ∧ testClass 3 = false
    ∧ s1.power.deferred.contains (⟨1, 0⟩, 0) = false := by
  unfold LineAccepted LineTaken; decide +kernel
theorem wit_SelfTestsRun :
    let s (u : UnitId) := withTests [askedT u] []
    (s ⟨0xD, 0⟩).power.tests.find? (fun t => t.unit == ⟨0xD, 0⟩) = some (askedT ⟨0xD, 0⟩)
    ∧ (s ⟨1, 0⟩).power.tests.find? (fun t => t.unit == ⟨1, 0⟩) = some (askedT ⟨1, 0⟩)
    ∧ spareFor (s ⟨1, 0⟩) 0 ⟨1, 0⟩ = none ∧ atBoundary (s ⟨1, 0⟩) ⟨1, 0⟩ = true
    ∧ spareFor (s ⟨0, 79⟩) 0 ⟨0, 79⟩ = some 79 ∧ spareFor (s ⟨0, 72⟩) 0 ⟨0, 72⟩ = some 79 ∧ spareFree (s ⟨0, 72⟩) (askedT ⟨0, 72⟩) 79 = true
    ∧ ((kget (s ⟨0, 72⟩).hf.fences ⟨0, 72⟩).map (·.st)).getD 0 = 0
    ∧ (s ⟨0, 72⟩).power.testing.any (fun x => x.unit == ⟨0, 72⟩) = false := by decide +kernel
theorem wit_SelfTestsEnd :
    let s (u : UnitId) := withTests [] [askedT u]
    kget (s ⟨1, 0⟩).hf.unfences ⟨1, 0⟩ = none ∧ (s ⟨1, 0⟩).power.testing.find? (fun t => t.unit == ⟨1, 0⟩) = some (askedT ⟨1, 0⟩)
    ∧ (askedT ⟨1, 0⟩).o.isSome = true ∧ (s ⟨0, 72⟩).power.retired.contains ⟨0, 72⟩ = false
    ∧ spareFor (s ⟨1, 0⟩) 0 ⟨1, 0⟩ ≠ some 0 ∧ ((kget (s ⟨1, 0⟩).hf.fences ⟨1, 0⟩).map (·.st)).getD 0 ≠ 2
    ∧ (linkOf (withLink { adLinkT 1 with calibrating := true }) 0).calibrating = true
    ∧ 1 < linkWidth (withLink (adLinkT 1)) 0 ∧ linkWidth (withLink { adLinkT 1 with laneMask := 1 }) 0 ≤ 1 := by decide +kernel

theorem wit_ResetAndBringUp :
    let low := { blockT with power := { blockT.power with inputOk := false } }
    blockT.boot.resetN = true ∧ blockT.boot.stage ≠ 0 ∧ State.reset.boot.resetN = false ∧ State.reset.power.inputOk = true
    ∧ low.power.inputOk = false ∧ low.boot.stage ≠ 0
    ∧ ({ low with boot := { low.boot with stage := 0 } } : State).boot.stage = 0 := by decide +kernel
theorem wit_BringUpMeasuresAndReads :
    let b (l : Option Nat) : BringUp :=
      { holdupUs := 4999, strap0 := l, strap1 := some 3, calOk := true, errPpm := 0, pwrOkMs := 1, failed := [], leak := false }
    (b none).failed = [] ∧ (b none).leak = false ∧ (b none).holdupUs < 5000 ∧ (b none).strap0 = none ∧ (b (some 0)).strap0 = some 0 := by
  decide
theorem wit_SidebandAnswersItsController : sidebandUp blockT = true
    ∧ ({ blockT with boot := { blockT.boot with busHeld := true } } : State).boot.busHeld = true := by decide +kernel
theorem wit_RegistersAreReadAndWritten :
    let fatal := { blockT with boot := { blockT.boot with fatalCause := 1 } }
    let tap := { blockT with sec := { blockT.sec with tap := { attached := true, instr := 0 } } }
    upNow blockT = true ∧ linkUp blockT = true ∧ accessCode (hlGot blockT 2 1) true 8 0x228 = 0 ∧ accessCode (hlGot blockT 2 1) true 4 0x228 ≠ 0
    ∧ sidebandUp blockT = true ∧ mgmtUp blockT = true ∧ linkUp State.reset = false
    ∧ accessCode blockT true 8 0x228 = 0 ∧ accessCode blockT true 8 0x229 ≠ 0 ∧ tapOn tap = true
    ∧ accessCode (loadInstr tap 6) true 8 0x228 = 0 ∧ accessCode (loadInstr tap 6) false 8 0x308 = 0 ∧ fatal.boot.fatalCause ≠ 0
    ∧ (lampOf { blockT with watch := { blockT.watch with lamp := [{ enable := true }, {}, {}, {}] } } 0).enable = true
    ∧ claimRuns blockT 0 = true ∧ claimRuns loadedT 0 = false := by decide +kernel
def armT (fired : Option (List Byte × Nat)) (req : Nat) : Arm :=
  { claim := 0, slot := 0, o := originT 0 0xF req, name := 0, wname := ⟨[], 0, 0, 1, 0⟩, step := 0, addr := 65536, bytes := 128, fired := fired }
theorem wit_TracesAndDumpsAreWritten :
    let s (a : Arm) := { withReq reqT with watch := { blockT.watch with arms := [a], lamp := [{ queue := [[1]] }, {}, {}, {}] } }
    (lampOf (s (armT none 0)) 0).queue ≠ [] ∧ (lampOf (s (armT none 0)) 0).queue.length < 4 ∧ (lampOf blockT 0).queue = []
    ∧ ((s (armT none 0)).watch.arms.filter (fun a => a.claim == 0))[0]? = some (armT none 0)
    ∧ dataUp (s (armT (some ([1, 2], 0)) 0)) 0 = true ∧ alive (s (armT none 0)) = true ∧ armOf (s (armT none 0)) 0 (armT (some ([1, 2], 0)) 0) = true
    ∧ armOf (s (armT none 0)) 0 (armT (some ([1, 2], 0)) 65536) = false := by decide +kernel

theorem wit_EveryStepKeepsTheFuses : BlockInv State.reset ∧ step State.reset = .next State.reset := wit_EveryStepKeepsTheInvariant
theorem wit_TruncationKeepsHeadAndTail : 1 ≤ 2 ∧ 2 < [0, 1, 2].length ∧ [0, 1].length ≤ 2 := by decide
theorem wit_TextRecordsDivideNoCharacter : (∀ c ∈ [[(0x61 : Byte)], [0xC3, 0xA9]], c.length ≤ 96)
    ∧ [0x61, 0xC3, 0xA9] ∈ cutRecords [] [[(0x61 : Byte)], [0xC3, 0xA9]] := by decide +kernel
theorem wit_Int8ProductsAreTheSameOnEveryRun :
    let a : TileOp := { fmt := .int8, elems := [0xFF, 2], scales := [] }
    a.fmt = .int8 ∧ [(a, a)] ≠ [] ∧ (tile a a).1 = 5 := by decide +kernel

/-! ### Worked examples of the manual -/

/-- 05, the split character and the late stop: the tokens "Caf", 0xC3, 0xA9, newline, "Us", "er", ": Thanks". -/
def cafeT : VocabSec :=
  { byteBase := 0, eos := 7
    toks := [[0x43, 0x61, 0x66], [0xC3], [0xA9], [0x0A], [0x55, 0x73], [0x65, 0x72], [0x3A, 0x20, 0x54, 0x68, 0x61, 0x6E, 0x6B, 0x73]].map
      (fun b => ⟨0, b, 0x3FFFF, false, false⟩)
    stopsets := [] }
def stopsT : List (List Byte) := [[0x3C, 0x2F, 0x61, 0x6E, 0x73, 0x77, 0x65, 0x72, 0x3E], [0x0A, 0x55, 0x73, 0x65, 0x72, 0x3A]]
theorem test_split_character :
    let a := detokTokens cafeT stopsT false Detok.empty [0]
    let b := detokTokens cafeT stopsT false a.1 [1, 2, 3, 4]
    let c := detokTokens cafeT stopsT false b.1 [5, 6]
    a.2.1.flatten = [0x43, 0x61, 0x66] ∧ b.2.1.flatten = [0xC3, 0xA9] ∧ b.2.1.length = 1 ∧ c.2.1.flatten = []
    ∧ c.1.stop = some 1 ∧ (detokTokens cafeT stopsT true b.1 [5, 6]).2.1.flatten = [0x0A, 0x55, 0x73, 0x65, 0x72, 0x3A] := by
  decide +kernel
/-- 06, a merge with a duplicate and a tie; 08, a union cut by a tie. -/
def entT (passage : Nat) (score : F32) : ListEnt := ⟨passageHandle 0x21 passage, score, 0, 0, 0⟩
theorem test_merge_with_duplicate_and_tie :
    let l0 := [entT 0x1000 0x41700000, entT 0x2040 0x41680000, entT 0xF00 0x41500000, entT 0x500 0x41440000, entT 0x3300 0x41440000]
    let l1 := [entT 0x2040 0x41680000, entT 0x4100 0x41500000, entT 0x480 0x41440000, entT 0x900 0x41280000]
    let m := mergeLists 5 [l0, l1]
    m.1.map (·.handle) = [0x21000000100000, 0x21000000204000, 0x210000000F0000, 0x21000000410000, 0x21000000048000]
    ∧ m.2 = (1, 2) ∧ (mergeLists 10 [l0, l1]).1.length = 8 ∧ (mergeLists 10 [l0, l1]).2.2 = 0 := by decide +kernel
theorem test_union_cut_by_a_tie :
    let es := [entT 0x310 0x41A00000, entT 0x405 0x41900000, entT 0x150 0x41880000, entT 0x200 0x41880000, entT 0x500 0x41600000
               , entT 0x120 0x41380000]
    let a := assayCut { k := 8, ents := es, flags := 8, epoch := 0, ties := 0, dups := 2, visited := 0 } 3 es
    a.1.ents.map (·.handle) = [0x21000000031000, 0x21000000040500, 0x21000000015000] ∧ a.1.flags = 0xC ∧ a.2 = 1 := by decide +kernel
/-- 09, a long conversation: ten passages, the last cut to 162 tokens, 256 of 1,900 history tokens, 3,500 in all. -/
def longT (keep : Nat) : List Nat × List Nat :=
  let t : TemplateSec := { vocab := 0, tokens := List.replicate 146 0
                           items := [⟨1, false, 0, 112, 0⟩, ⟨2, false, 0, 0, 0⟩, ⟨3, false, 112, 4, 2⟩, ⟨1, false, 118, 20, 0⟩
                                     , ⟨4, false, 0, 0, 0⟩, ⟨1, false, 138, 8, 0⟩] }
  let runs := [300, 280, 410, 300, 350, 300, 290, 320, 300, 260].map (fun n => some (List.replicate n 0))
  match packPrompt t 3500 64 keep 10 (List.replicate 32 0) (List.range 1900) runs with
  | none => ([], [])
  | some x => (x.2.1.runs.map (·.length), [x.1.length, x.2.1.cuts, x.2.2, x.1.getD 112 0])
theorem test_long_conversation :
    longT 256 = ([300, 280, 410, 300, 350, 300, 290, 320, 300, 162], [3500, 1, 256, 1644])
    ∧ longT 0 = ([300, 280, 410, 300, 350, 300, 290, 320, 300, 260], [3500, 0, 158, 1742]) := by decide +kernel
/-- 11, the constrained draw at TEMPERATURE 0: the token "1", for "0" falls to 3.5 by its penalties and "x" is masked. -/
theorem test_constrained_draw :
    (draw { temperature := 0, topK := 4, topP := 0x3F733333, minP := 0x3E4CCCCD, repetition := 0x3FC00000, presence := 0x3F000000
            frequency := 0, countPrompt := false } 0 0 (fun t => decide (t < 5)) [(0, (1, 0))]
      [0x40C00000, 0x40B00000, 0x40A00000, 0x40900000, 0x40400000, 0x41100000]).tok = some 1 := by decide +kernel
/-- 12, the exact tile, cut to three blocks: the ones between 2^24 and its negative are kept; and three tiles in two orders. -/
theorem test_exact_tile :
    let big (x : BitVec 16) := x :: List.replicate 31 0
    let ops (x : BitVec 16) : TileOp := { fmt := .mxE4m3, elems := big 0x38 ++ List.replicate 32 0x38 ++ big x, scales := [139, 127, 139] }
    (tile (ops 0x38) (ops 0xB8)).1 = 0x42000000 := by decide +kernel
theorem test_three_tiles :
    let z := NumEv.zero
    let t0 : F32 × NumEv := (0x4B800000, z)
    let t1 : F32 × NumEv := (0x3F800000, z)
    (combineTiles false [t0, t1, t1]).1 = 0x4B800000 ∧ (combineTiles false [t1, t1, t0]).1 = 0x4B800001
    ∧ (combineTiles false [t1, t0, t1]).1 = 0x4B800000 := by decide +kernel

end Sys2Proof.Machine.Tests
end

section
/-! PROOF. PHASE of the rings' entries (R70): its value by pass, its place in a completion record, and the test that a ring's
reader makes of it. -/

namespace Sys2Proof.Machine

theorem phaseAt_of_lt {cap n : Nat} (h : n < cap) : phaseAt cap n = 1 := by
  simp [phaseAt, Nat.div_eq_of_lt h]

theorem phaseAt_le_one (cap n : Nat) : phaseAt cap n ≤ 1 := by
  unfold phaseAt; split <;> omega

theorem phaseAt_add_cap {cap : Nat} (n : Nat) (h : 0 < cap) : phaseAt cap (n + cap) = 1 - phaseAt cap n := by
  have hpass : (n + cap) / cap = n / cap + 1 := Nat.add_div_right n h
  unfold phaseAt
  rw [hpass]
  split <;> split <;> omega

theorem byteAt_cplBytes_one (r : CplRec) (phase : Nat) : byteAt (cplBytes r phase) 1 = phase % 256 := rfl

/-- A reader that holds no line of an ENABLED ring takes the line at its place by PHASE alone, where the completion ring has
a free entry and the channel a credit. -/
theorem takeLine_isSome_iff_phase {s : State} {id : RingId} {g : Ring} (line : List Byte) (hg : kget s.hl.rings id = some g)
    (hst : g.st = 1) (hfetched : g.fetched = []) (hfree : 1 ≤ cplFree s id.claim g.cplRing)
    (hcan : hlCan s (ringVc id.claim) id.claim = true) :
    (takeLine s id false line).isSome = true ↔ byteAt line 2 % 2 = phaseAt (g.cap false) g.n.toNat := by
  unfold takeLine
  by_cases hphase : byteAt line 2 % 2 = phaseAt (g.cap false) g.n.toNat
  · simp [hg, hcan, hfetched, hst, hfree, hphase]
  · simp [hg, hcan, hfetched, hphase]

/-- Settles O4: by the pass of an entry, the second byte of a record, and the reader's test of a line. -/
theorem phaseAlternatesByPass : Obligations.PhaseAlternatesByPass := by
  unfold Obligations.PhaseAlternatesByPass
  refine ⟨fun _ _ => phaseAt_of_lt, fun _ n => phaseAt_add_cap n, ?_, ?_⟩
  · intro r cap n
    rw [byteAt_cplBytes_one]
    exact Nat.mod_eq_of_lt (Nat.lt_of_le_of_lt (phaseAt_le_one cap n) (by decide))
  · intro s id g line hg hst hfetched hfree hcan
    exact takeLine_isSome_iff_phase line hg hst hfetched hfree hcan

end Sys2Proof.Machine
end

section
/-! PROOF. Hoistlink when its clock is lost (R60, R86), when the companion loses its state (R430), and when credits return
(R64, R65). -/

namespace Sys2Proof.Machine

/-! ### What a retrain and a link going down change -/

@[simp] theorem faultEvent_hl (s : State) (cls unit : Nat) : (faultEvent s cls unit).hl = s.hl := rfl

theorem hlRetrain_of_up {s : State} (h : s.hl.st = 2) :
    hlRetrain s = faultEvent { s with hl := { s.hl with st := 3, crcRun := 0, err := s.hl.err ||| 2 } } 5 0 := if_pos h

theorem hlRetrain_of_not_up {s : State} (h : s.hl.st ≠ 2) : hlRetrain s = s := if_neg h

@[simp] theorem hlDown_hl (s : State) (st : Nat) :
    (hlDown s st).hl = { s.hl with st := st, laneMask := 0, err := s.hl.err ||| 1 } := rfl

/-! ### The clock in use is lost -/

/-- The state in which Hoistlink runs on the partner of the clock it used: of its two clocks the partner alone reads good, and
REFCLK_SWITCH is set (R60). -/
def onPartnerClock (s : State) : State :=
  let used : BitVec 4 := if s.hl.refclkSrc then 2 else 1
  { s with boot := { s.boot with refclk := (s.boot.refclk &&& ~~~used) ||| (3 &&& ~~~used) }
           hl := { s.hl with refclkSrc := !s.hl.refclkSrc, err := s.hl.err ||| 8 } }

/-- The state in which neither of Hoistlink's reference clocks reads good. -/
def withoutClock (s : State) : State := { s with boot := { s.boot with refclk := s.boot.refclk &&& ~~~3 } }

theorem exec_hlRefclkLoss (partnerGood : Bool) (s : State) :
    exec (.hlRefclkLoss partnerGood) s = .next (opHlRefclkLoss partnerGood s) := rfl

theorem exec_hlRefclkLoss_partner {s : State} (h : hlPowered s = true) :
    exec (.hlRefclkLoss true) s = .next (hlRetrain (faultEvent (onPartnerClock s) 5 0)) := by
  simp [exec_hlRefclkLoss, opHlRefclkLoss, h, onPartnerClock]

theorem exec_hlRefclkLoss_alone_of_lanes {s : State} (h : hlPowered s = true) (hst : s.hl.st = 2 ∨ s.hl.st = 3) :
    exec (.hlRefclkLoss false) s = .next (hlDown (withoutClock s) 0) := by
  simp [exec_hlRefclkLoss, opHlRefclkLoss, h, hst, withoutClock]

theorem exec_hlRefclkLoss_alone_of_no_lanes {s : State} (h : hlPowered s = true) (hst : ¬ (s.hl.st = 2 ∨ s.hl.st = 3)) :
    exec (.hlRefclkLoss false) s = .next { withoutClock s with hl := { s.hl with st := 0 } } := by
  simp [exec_hlRefclkLoss, opHlRefclkLoss, h, hst, withoutClock]

theorem hlRefclkLoss_switches_or_takes_down : Rows.HoistlinkSwitchesItsClock := by
  intro s hp
  refine ⟨⟨_, exec_hlRefclkLoss_partner hp, ?_⟩, ?_⟩
  · by_cases hup : s.hl.st = 2
    · rw [hlRetrain_of_up (s := faultEvent (onPartnerClock s) 5 0) hup]
      refine ⟨rfl, ?_, fun _ => ⟨rfl, ?_⟩, fun hn => absurd hup hn, rfl, rfl, rfl, rfl⟩ <;>
        simp [onPartnerClock]
    · rw [hlRetrain_of_not_up (s := faultEvent (onPartnerClock s) 5 0) hup]
      refine ⟨rfl, ?_, fun h => absurd h hup, fun _ => rfl, rfl, rfl, rfl, rfl⟩
      simp [onPartnerClock]
  · by_cases hlanes : s.hl.st = 2 ∨ s.hl.st = 3
    · refine ⟨_, exec_hlRefclkLoss_alone_of_lanes hp hlanes, rfl, fun _ => ⟨rfl, ?_⟩, rfl, rfl, rfl, rfl⟩
      simp
    · exact ⟨_, exec_hlRefclkLoss_alone_of_no_lanes hp hlanes, rfl, fun h => absurd h hlanes, rfl, rfl, rfl, rfl⟩

/-! ### The companion's state is lost, and credits return -/

theorem exec_hlCompanionStateLoss_of_alive {s : State} (h : alive s = true) :
    exec .hlCompanionStateLoss s = .next (moduleFatal s 2 none) := congrArg Host.Outcome.next (if_pos h)

theorem exec_hlCompanionStateLoss_of_not_alive {s : State} (h : alive s = false) :
    exec .hlCompanionStateLoss s = .next s := congrArg Host.Outcome.next (if_neg (by simp [h]))

theorem alive_creditReturn (s : State) (vc count : Nat) : alive (creditReturn s vc count) = alive s := rfl

theorem exec_hlCreditReturn (vc count : Nat) (s : State) :
    exec (.hlCreditReturn vc count) s = .next (opHlCreditReturn vc count s) := rfl

theorem exec_hlCreditReturn_of_up {s : State} {vc : Nat} (count : Nat) (hup : s.hl.st = 2) (ha : alive s = true) (hvc : vc < 3) :
    exec (.hlCreditReturn vc count) s = .next (hlResume (creditReturn s vc count)) := by
  simp [exec_hlCreditReturn, opHlCreditReturn, hup, hvc, alive_creditReturn, ha]

theorem exec_hlCreditReturn_of_not_up {s : State} (vc count : Nat) (h : s.hl.st ≠ 2) :
    exec (.hlCreditReturn vc count) s = .next s := by
  simp [exec_hlCreditReturn, opHlCreditReturn, h]

theorem hlStateLoss_fatal_and_hlCredits_return : Rows.HoistlinkStateLossAndCredits := fun _ =>
  ⟨exec_hlCompanionStateLoss_of_alive, exec_hlCompanionStateLoss_of_not_alive,
    fun hup ha _ count hvc => exec_hlCreditReturn_of_up count hup ha hvc,
    fun h vc count => exec_hlCreditReturn_of_not_up vc count h⟩

/-- Settles O50: row by row, from what the retrain and the link going down change. -/
theorem hoistlinkSwitchesItsClock : Obligations.HoistlinkSwitchesItsClock :=
  ⟨hlRefclkLoss_switches_or_takes_down, hlStateLoss_fatal_and_hlCredits_return⟩

end Sys2Proof.Machine
end

section
/-! PROOF. The cut of a long token sequence (R126), and what TOKENIZE_STEP does with its input (R110 to R116, R418): it waits for
the channel, ends on a bad line, or encodes, counts and cuts. -/

namespace Sys2Proof.Machine

/-! ### The cut of R126 -/

theorem truncTokens_of_length_le {limit : Nat} {ts : List Nat} (head : Nat) (h : ts.length ≤ limit) :
    truncTokens limit head ts = (ts, false) := if_neg (by omega)

theorem truncTokens_of_lt_length {limit head : Nat} {ts : List Nat} (hhead : head ≤ limit) (h : limit < ts.length) :
    truncTokens limit head ts = (ts.take head ++ ts.drop (ts.length - (limit - head)), true) := by
  simp [truncTokens, h, hhead]

theorem drop_range_eq_map_add (k n : Nat) : (List.range (k + n)).drop k = (List.range n).map (· + k) := by
  simp [List.range_add, List.drop_left' List.length_range, Nat.add_comm]

theorem truncTokens_keeps_head_and_tail : Rows.TruncationKeepsHeadAndTail := by
  refine ⟨fun limit head ts hhead h => ?_, fun _ head _ h => truncTokens_of_length_le head h, ?_⟩
  · have htake : (ts.take head).length = head := List.length_take_of_le (by omega)
    rw [truncTokens_of_lt_length hhead h]
    refine ⟨rfl, ?_, fun i hi => ?_, fun j _ => ?_⟩
    · rw [List.length_append, htake, List.length_drop]
      omega
    · rw [List.getElem?_append_left (by omega), List.getElem?_take_of_lt hi]
    · rw [List.getElem?_append_right (by omega), htake, List.getElem?_drop, Nat.add_sub_cancel_left]
  · have hlong : 512 < (List.range 2000).length := by simp
    have htail : (List.range 2000).drop 1552 = (List.range 448).map (· + 1552) := drop_range_eq_map_add 1552 448
    rw [truncTokens_of_lt_length (by decide) hlong, List.length_range, List.take_range, htail, Nat.min_eq_left (by decide)]

/-! ### TOKENIZE_STEP -/

/-- What TOKENIZE_STEP makes of an input read whole, with the step's limit and the vocabulary's sections: the request ends
where a line read is bad (R418); otherwise the step completes with the tokens that the cut keeps. -/
def encodeInput (s : State) (n step : Nat) (r : Req) (t : StepRec) (limit v : Nat) (sec : VocabSec) (input : List Byte) : State :=
  let mg := (cfgOf s r.claim).bind (fun g => secOf g.merges v)
  let cl := (cfgOf s r.claim).bind (fun g => secOf g.classes v)
  let fallback := t.word 1 % 2 == 1
  let text := tokenize sec mg cl fallback input
  let kept := truncTokens limit (t.word 3) text.1
  let s1 := countInvalid (hlGot s 1 (granules input.length)) n text.2
  if readsBad s v (tokenizeLines sec mg cl fallback input) then endBadSram s n r.claim 4
  else completeStep
    (if kept.2 then { flagReq s1 n flTrunc with eng := { s1.eng with crTrunc := satAdd 16 s1.eng.crTrunc 1 } } else s1) n step
    (fun x => { x with tokens := kept.1 })

theorem exec_tokenizeStep (slot : BitVec 16) (step : Nat) (input : List Byte) (s : State) :
    exec (.tokenizeStep slot step input) s = .next (opTokenizeStep slot step input s) := rfl

section
variable {slot : BitVec 16} {step : Nat} {input : List Byte} {s : State} {r : Req} {t : StepRec} {q : RecipeSec} {v : Nat}
  {sec : VocabSec} (hissued : issued s slot.toNat step 1 = some (r, t)) (hrecipe : r.bind.recipe = some q)
  (hvocab : (if t.role = 1 then q.genVocab else q.encVocab) = some v) (hsec : vocabOf s r.claim v = some sec)
include hissued hrecipe hvocab hsec

theorem opTokenizeStep_of_data_down (hdown : dataUp s r.claim = false) (hinput : input ≠ []) :
    opTokenizeStep slot step input s = s := by
  simp [opTokenizeStep, hissued, hrecipe, hvocab, hsec, hdown, hinput]

theorem opTokenizeStep_of_input_read (hlen : input.length = r.desc.inputBytes) (hread : dataUp s r.claim = true ∨ input = []) :
    opTokenizeStep slot step input s = encodeInput s slot.toNat step r t (tokLimit q t) v sec input := by
  have hgo : (input.length != r.desc.inputBytes || (!dataUp s r.claim && !input.isEmpty)) = false := by
    rcases hread with h | h <;> simp [← hlen, h]
  simp only [opTokenizeStep, hissued, hrecipe, hvocab, hsec, Option.bind_some, Option.getD_some, hgo, Bool.false_eq_true,
    if_false]
  rfl

end

theorem tokenizeStep_encodes_the_input : Rows.TokenizeEncodesTheInput := by
  intro slot step input s r t q v sec hissued hrecipe hvocab hsec hlen n mg cl text kept s1 bad
  simp only [exec_tokenizeStep, Host.Outcome.next.injEq]
  refine ⟨opTokenizeStep_of_data_down hissued hrecipe hvocab hsec, fun hread => ?_⟩
  rw [opTokenizeStep_of_input_read hissued hrecipe hvocab hsec hlen hread]
  refine ⟨fun hbad => if_pos hbad, fun hbad hkept => ?_, fun hbad hkept => ?_⟩
  · exact (if_neg (ne_true_of_eq_false hbad)).trans (congrArg (completeStep · _ _ _) (if_neg (ne_true_of_eq_false hkept)))
  · exact (if_neg (ne_true_of_eq_false hbad)).trans (congrArg (completeStep · _ _ _) (if_pos hkept))

/-- Settles O36: the cut by cases on the length, the step by whether its input was read, is bad, and is cut. -/
theorem textIsTokenizedAndTruncated : Obligations.TextIsTokenizedAndTruncated :=
  ⟨truncTokens_keeps_head_and_tail, tokenizeStep_encodes_the_input⟩

end Sys2Proof.Machine
end

section
/-! PROOF. INT8 products (R291): a tile is the exact sum of its products, tiles add modulo 2^32 in any order, and a product's
block holds these sums element by element. -/

namespace Sys2Proof.Machine

/-! ### Lists -/

theorem sum_eq_of_perm {l l' : List F32} (h : l.Perm l') : l.sum = l'.sum := by
  rw [List.sum_eq_foldr, List.sum_eq_foldr]
  refine h.foldr_eq' (fun x _ y _ z => ?_) 0
  rw [← BitVec.add_assoc, BitVec.add_comm y x, BitVec.add_assoc]

theorem filterMap_eq_map_of_forall_some {α β : Type} {f : α → Option β} (g : α → β) {l : List α}
    (h : ∀ x ∈ l, f x = some (g x)) : l.filterMap f = l.map g := by
  induction l with
  | nil => rfl
  | cons x xs ih =>
    rw [List.filterMap_cons_some (h x List.mem_cons_self), List.map_cons, ih fun y hy => h y (List.mem_cons_of_mem x hy)]

theorem getElem?_eq_some_getD {α : Type} {l : List α} {i : Nat} (h : i < l.length) (d : α) : l[i]? = some (l.getD i d) := by
  rw [List.getD_eq_getElem?_getD, List.getElem?_eq_getElem h, Option.getD_some]

/-! ### One tile, and the sum of tiles -/

theorem tile_of_int8 {a : TileOp} (ha : a.fmt = .int8) (b : TileOp) : tile a b = int8Tile a b := by
  simp only [tile, ha]

theorem int8Tile_fst (a b : TileOp) :
    (int8Tile a b).1 = BitVec.ofInt 32 (((List.range (min a.elems.length b.elems.length)).map (fun k =>
      (BitVec.ofNat 8 (a.elems.getD k 0).toNat).toInt * (BitVec.ofNat 8 (b.elems.getD k 0).toNat).toInt)).sum) := by
  rw [List.sum_eq_foldl, List.foldl_map]
  rfl

theorem foldl_plus_fst (rs : List (F32 × NumEv)) (r : F32 × NumEv) :
    (rs.foldl (fun acc t => (acc.1 + t.1, acc.2.plus t.2)) r).1 = r.1 + (rs.map (·.1)).sum := by
  induction rs generalizing r with
  | nil => exact (BitVec.add_zero r.1).symm
  | cons t rest ih => simp only [List.foldl_cons, ih, List.map_cons, List.sum_cons, BitVec.add_assoc]

theorem combineTiles_int_fst (rs : List (F32 × NumEv)) : (combineTiles true rs).1 = (rs.map (·.1)).sum := by
  cases rs with
  | nil => rfl
  | cons r rest => exact foldl_plus_fst rest r

theorem combineTiles_int_fst_of_perm {rs rs' : List (F32 × NumEv)} (h : rs.Perm rs') :
    (combineTiles true rs).1 = (combineTiles true rs').1 := by
  rw [combineTiles_int_fst, combineTiles_int_fst, sum_eq_of_perm (h.map _)]

/-! ### The block of a product -/

theorem feed_of_int8 {a : TileOp} (ha : a.fmt = .int8) (w : TileOp) : feed a w = a := by
  simp only [feed, ha, reduceCtorEq, decide_false, Bool.false_and, Bool.false_eq_true, if_false]

section
variable {tiles : List (List TileOp × List TileOp)}

/-- Row `i` and column `j` lie in every tile, so that no tile is left out of the sum and the default `d` is never taken. -/
theorem blockElem_int8_fst {i j : Nat} (d : TileOp) (hne : tiles ≠ [])
    (hin : ∀ t ∈ tiles, i < t.1.length ∧ j < t.2.length) (hint : ∀ t ∈ tiles, ∀ x ∈ t.1 ++ t.2, x.fmt = .int8) :
    (blockElem tiles i j).1 = (tiles.map (fun t => (tile (t.1.getD i d) (t.2.getD j d)).1)).sum := by
  have hpair : ∀ t ∈ tiles, t.1[i]? = some (t.1.getD i d) ∧ t.2[j]? = some (t.2.getD j d) := fun t ht =>
    ⟨getElem?_eq_some_getD (hin t ht).1 d, getElem?_eq_some_getD (hin t ht).2 d⟩
  -- feeding changes neither operand, because both are INT8
  have hrow : ∀ t ∈ tiles, (t.1.getD i d).fmt = .int8 := fun t ht =>
    hint t ht _ (List.mem_append_left _ (List.mem_of_getElem? (hpair t ht).1))
  have hcol : ∀ t ∈ tiles, (t.2.getD j d).fmt = .int8 := fun t ht =>
    hint t ht _ (List.mem_append_right _ (List.mem_of_getElem? (hpair t ht).2))
  have hany : (tiles.map (fun t => (t.1.getD i d, t.2.getD j d))).any (fun t => t.1.fmt == .int8) = true := by
    obtain ⟨t, ht⟩ := List.exists_mem_of_ne_nil _ hne
    exact List.any_eq_true.mpr ⟨_, List.mem_map_of_mem ht, beq_iff_eq.mpr (hrow t ht)⟩
  rw [blockElem, filterMap_eq_map_of_forall_some (fun t => (t.1.getD i d, t.2.getD j d)) fun t ht => ?_]
  · simp only [hany, combineTiles_int_fst, List.map_map, Function.comp_def]
  · obtain ⟨hr, hc⟩ := hpair t ht
    simp only [hr, hc, feed_of_int8 (hrow t ht), feed_of_int8 (hcol t ht)]

theorem mmaBlock_fst_of_shape {sk4 : Bool} {m n : Nat} (hne : tiles ≠ [])
    (hshape : ∀ t ∈ tiles, mmaOk sk4 t = true ∧ t.1.length = m ∧ t.2.length = n) :
    (mmaBlock sk4 tiles).1 =
      ((List.range m).map (fun i => (List.range n).map (fun j => (blockElem tiles i j).1))).flatten := by
  cases tiles with
  | nil => exact absurd rfl hne
  | cons t rest =>
    obtain ⟨-, rfl, rfl⟩ := hshape t List.mem_cons_self
    have hall : (t :: rest).all (fun x => mmaOk sk4 x && x.1.length == t.1.length && x.2.length == t.2.length) = true :=
      List.all_eq_true.mpr fun x hx => by
        obtain ⟨hok, hm, hn⟩ := hshape x hx
        simp only [hok, hm, hn, beq_self_eq_true, Bool.and_self]
    simp only [mmaBlock, hall, if_true, List.map_flatten, List.map_map, Function.comp_def]

end

/-- Settles O46: the tile and the combination are sums in commutative arithmetic, and every element of a block combines its
tiles so. -/
theorem int8ProductsAreTheSameOnEveryRun : Obligations.Int8ProductsAreTheSameOnEveryRun := by
  refine ⟨fun a b ha _ => ?_, combineTiles_int_fst, fun _ _ => combineTiles_int_fst_of_perm, ?_⟩
  · exact (congrArg Prod.fst (tile_of_int8 ha b)).trans (int8Tile_fst a b)
  · intro tiles m n part hne htiles d
    have hblock : (mmaBlock false tiles).1 = _ := mmaBlock_fst_of_shape (m := m) (n := n) hne fun t ht => by
      obtain ⟨hok, hm, hn, -⟩ := htiles t ht
      exact ⟨hok, hm, hn⟩
    refine hblock.trans (congrArg List.flatten (List.map_congr_left fun i hi => List.map_congr_left fun j hj => ?_))
    refine blockElem_int8_fst d hne (fun t ht => ?_) (fun t ht => ?_)
    · obtain ⟨-, hm, hn, -⟩ := htiles t ht
      exact ⟨hm ▸ List.mem_range.mp hi, hn ▸ List.mem_range.mp hj⟩
    · obtain ⟨-, -, -, hint⟩ := htiles t ht
      exact hint

end Sys2Proof.Machine
end

section
/-! PROOF. Training of an Adit link (R383 to R385), the checks of its peer's identity (R386), and what a MISWIRED link is kept
from. -/

namespace Sys2Proof.Machine

/-! ### The checks of an identity (R386) -/

/-- Whether another link of the claim is UP to a module with the MODULE_ID of the identity and another serial (log 37). -/
def duplicateSeen (s : State) (c l : Nat) (i : AdIdentity) : Bool :=
  (List.range 48).any (fun k => k != l && linkOwner s k == some c && (linkOf s k).st == 2
    && ((linkOf s k).peer.map (fun j => j.moduleId == i.moduleId && j.serial != i.serial)).getD false)

theorem duplicateSeen_iff (s : State) (c l : Nat) (i : AdIdentity) : duplicateSeen s c l i = true ↔
    ∃ k, k < 48 ∧ k ≠ l ∧ linkOwner s k = some c ∧ (linkOf s k).st = 2
      ∧ ∃ j, (linkOf s k).peer = some j ∧ j.moduleId = i.moduleId ∧ j.serial ≠ i.serial := by
  simp [duplicateSeen, Option.getD_eq_iff, and_assoc]

/-- The identity is of the module and the link that AD_PLAN expects, where it expects one. -/
abbrev FitsPlan (x : AditLink) (i : AdIdentity) : Prop :=
  (x.expModule = 0xFF ∨ i.moduleId = x.expModule) ∧ (x.expLink = 0xFF ∨ i.link = x.expLink)

theorem identFault_eq (s : State) (c l : Nat) (i : AdIdentity) : identFault s c l i =
    if i.district ≠ 0 then 1
    else if i.serial = Config.serial then 2
    else if i.tag ≠ (gangOf s c).tag then 3
    else if i.gangSize ≠ ownOf s c (·.gangSize) ∨ ownOf s c (·.gangSize) ≤ i.moduleId ∨ i.moduleId = ownOf s c (·.gangModuleId) then 4
    else if duplicateSeen s c l i = true then 5
    else if ¬ FitsPlan (linkOf s l) i then 6
    else 0 := by
  simp only [identFault, duplicateSeen, FitsPlan, bne_iff_ne, Bool.or_eq_true, Bool.and_eq_true, decide_eq_true_eq, or_assoc,
    ne_eq, Decidable.not_and_iff_or_not, not_or]

section
variable {s : State} {c l : Nat} {i : AdIdentity}

/-- The first four checks are passed, and the fifth and sixth decide. -/
theorem identFault_of_gang_fits (hd : i.district = 0) (hs : i.serial ≠ Config.serial) (ht : i.tag = (gangOf s c).tag)
    (hsize : i.gangSize = ownOf s c (·.gangSize)) (hlt : i.moduleId < i.gangSize)
    (hid : i.moduleId ≠ ownOf s c (·.gangModuleId)) :
    identFault s c l i =
      if duplicateSeen s c l i = true then 5 else if ¬ FitsPlan (linkOf s l) i then 6 else 0 := by
  have hfits : ¬ (i.gangSize ≠ ownOf s c (·.gangSize) ∨ ownOf s c (·.gangSize) ≤ i.moduleId
      ∨ i.moduleId = ownOf s c (·.gangModuleId)) := by
    rw [← hsize]
    simp only [ne_eq, not_true_eq_false, false_or, not_or]
    exact ⟨Nat.not_le.mpr hlt, hid⟩
  rw [identFault_eq, if_neg (Decidable.not_not.mpr hd), if_neg hs, if_neg (Decidable.not_not.mpr ht), if_neg hfits]

/-- A chain of checks that answers 0 passed its first check. -/
theorem of_ite_code_eq_zero {p : Prop} [Decidable p] {code rest : Nat} (hcode : code ≠ 0)
    (h : (if p then code else rest) = 0) : ¬ p ∧ rest = 0 := by
  by_cases hp : p
  · exact absurd ((if_pos hp).symm.trans h) hcode
  · exact ⟨hp, (if_neg hp).symm.trans h⟩

theorem passes_of_identFault_eq_zero (h : identFault s c l i = 0) :
    i.district = 0 ∧ i.serial ≠ Config.serial ∧ i.tag = (gangOf s c).tag ∧ i.gangSize = ownOf s c (·.gangSize)
      ∧ i.moduleId < i.gangSize ∧ i.moduleId ≠ ownOf s c (·.gangModuleId) ∧ FitsPlan (linkOf s l) i := by
  rw [identFault_eq] at h
  obtain ⟨hd, h⟩ := of_ite_code_eq_zero (by decide) h
  obtain ⟨hs, h⟩ := of_ite_code_eq_zero (by decide) h
  obtain ⟨ht, h⟩ := of_ite_code_eq_zero (by decide) h
  obtain ⟨hgang, h⟩ := of_ite_code_eq_zero (by decide) h
  obtain ⟨-, h⟩ := of_ite_code_eq_zero (by decide) h
  obtain ⟨hplan, -⟩ := of_ite_code_eq_zero (by decide) h
  obtain ⟨hsize, hrange⟩ := not_or.mp hgang
  obtain ⟨hlt, hid⟩ := not_or.mp hrange
  rw [Decidable.not_not] at hd ht hsize hplan
  exact ⟨hd, hs, ht, hsize, hsize ▸ Nat.not_le.mp hlt, hid, hplan⟩

end

theorem identityChecks_in_their_order : Rows.IdentityChecksInTheirOrder := by
  intro s c l i
  refine ⟨fun hd => ?_, fun hd hs => ?_, fun hd hs ht => ?_, fun hd hs ht hgang => ?_, passes_of_identFault_eq_zero⟩
  · rw [identFault_eq, if_pos hd]
  · rw [identFault_eq, if_neg (Decidable.not_not.mpr hd), if_pos hs]
  · rw [identFault_eq, if_neg (Decidable.not_not.mpr hd), if_neg hs, if_pos ht]
  · rw [identFault_eq, if_neg (Decidable.not_not.mpr hd), if_neg hs, if_neg (Decidable.not_not.mpr ht), if_pos hgang]

/-! ### A MISWIRED link carries nothing (R386) -/

section
variable {s : State} {l : Nat}

theorem alertAsserted_of_miswired (hst : (linkOf s l).st = 6) (hl : l < s.adit.links.length) : alertAsserted s = true := by
  have hmem : linkOf s l ∈ s.adit.links := List.mem_of_getElem? (getElem?_eq_some_getD hl {})
  have hany : s.adit.links.any (fun x => x.st == 6 || x.err.getLsbD 5) = true :=
    List.any_eq_true.mpr ⟨_, hmem, by rw [hst]; rfl⟩
  simp only [alertAsserted, hany, Bool.or_true, Bool.true_or]

theorem openLink_of_not_up (hst : (linkOf s l).st ≠ 2) : openLink s l = none := by
  unfold openLink
  split <;> simp [hst]

theorem not_mem_upLinks_of_not_up (hst : (linkOf s l).st ≠ 2) (c p : Nat) : l ∉ upLinks s c p := by
  simp [upLinks, hst]

end

theorem miswiredLinks_carry_nothing : Rows.MiswiredLinksCarryNothing := by
  refine ⟨fun s c l i hd hs ht hsize hlt hid => ?_, fun s l hst hl => ?_⟩
  · intro x dup plan
    have hcode := identFault_of_gang_fits (l := l) hd hs ht hsize hlt hid
    have hdup : duplicateSeen s c l i = true ↔ dup := duplicateSeen_iff s c l i
    rw [hcode]
    refine ⟨fun h => if_pos (hdup.mpr h), fun h hplan => ?_, fun h hplan => ?_⟩
    · rw [if_neg (mt hdup.mp h), if_pos hplan]
    · rw [if_neg (mt hdup.mp h), if_neg (Decidable.not_not.mpr hplan)]
  · have hdown : (linkOf s l).st ≠ 2 := by rw [hst]; decide
    exact ⟨alertAsserted_of_miswired hst hl, openLink_of_not_up hdown, not_mem_upLinks_of_not_up hdown⟩

/-! ### The exchange of identities and credits (R385, R386, R390) -/

/-- The state with the clock of a link read good. -/
def clockGood (s : State) (x : AditLink) : State :=
  { s with boot := { s.boot with refclk := s.boot.refclk ||| (if x.refclkSrc then 8 else 4) } }

/-- A link that is UP with a peer. -/
def upWith (i : AdIdentity) (y : AditLink) : AditLink := { y with st := 2, miswire := 0, peer := some i, crcRun := 0 }

/-- A link with the initial credits of R390. -/
def withInitialCredits (y : AditLink) : AditLink :=
  { y with issued := 1760, returned := 0, avail := [32, 288, 288, 288, 288, 288, 288] }

section
variable {s : State} {c l : Nat} {i : AdIdentity} (note : AditLink → AditLink)

theorem adIdentify_of_fault (h : identFault s c l i ≠ 0) :
    adIdentify s c l i note = modLink (linkDown s l 6) l
      (fun y => { note y with miswire := identFault s c l i, peer := some i, err := y.err ||| 0x20 }) :=
  if_pos (bne_iff_ne.mpr h)

theorem adIdentify_of_not_retraining (h : identFault s c l i = 0) (hst : (linkOf s l).st ≠ 3) :
    adIdentify s c l i note = linkIsUp (notePeer (modLink (clockGood s (linkOf s l)) l
      (fun y => withInitialCredits (upWith i (note y)))) c i) l := by
  simp [adIdentify, h, hst, clockGood, upWith, withInitialCredits, adCredits]

theorem adIdentify_of_retraining_same_peer (h : identFault s c l i = 0) (hst : (linkOf s l).st = 3) {p : AdIdentity}
    (hp : (linkOf s l).peer = some p) (hserial : p.serial = i.serial) (hinc : p.incarnation = i.incarnation) :
    adIdentify s c l i note = linkIsUp (notePeer (modLink (clockGood s (linkOf s l)) l
      (fun y => upWith i (note y))) c i) l := by
  simp [adIdentify, h, hst, hp, hserial, hinc, clockGood, upWith]

end

/-! ### Training (R383, R384) -/

/-- The lanes that training leaves a link. -/
def trainedLanes (x : AditLink) (t : AdTrain) : BitVec 4 := t.pass &&& ~~~x.laneDisable

/-- What lane training notes of a link. -/
def noteLanes (x : AditLink) (t : AdTrain) (y : AditLink) : AditLink :=
  { y with polFix := t.polarity &&& trainedLanes x t, reversed := t.reversed, laneMask := trainedLanes x t }

/-- What is noted of a link before the identities: lanes and version, or of a MISWIRED one the lanes it has (R383). -/
def noteTrained (x : AditLink) (t : AdTrain) (y : AditLink) : AditLink :=
  if x.st = 6 then { y with laneMask := x.laneMask } else { noteLanes x t y with peerSet := t.peerSet, chosen := 1 }

section
variable {s : State} {c l : Nat} {t : AdTrain}

theorem adRetry_of_no_lane (hst : (linkOf s l).st ≠ 6) (hlanes : trainedLanes (linkOf s l) t = 0) :
    adRetry s c l t = modLink (linkDown s l 4) l (noteLanes (linkOf s l) t) :=
  (if_neg hst).trans (if_pos hlanes)

theorem adRetry_of_no_version (hst : (linkOf s l).st ≠ 6) (hlanes : trainedLanes (linkOf s l) t ≠ 0)
    (hver : t.peerSet &&& 1 = 0) :
    adRetry s c l t = modLink (linkDown s l 5) l
      (fun y => { noteLanes (linkOf s l) t y with peerSet := t.peerSet, chosen := 0 }) :=
  (if_neg hst).trans ((if_neg hlanes).trans (if_pos hver))

/-- A link that is MISWIRED, or has lanes and a version in common, goes on to the identities. -/
theorem adRetry_of_common
    (h : (linkOf s l).st = 6 ∨ (trainedLanes (linkOf s l) t ≠ 0 ∧ t.peerSet &&& 1 ≠ 0)) :
    adRetry s c l t = adIdentify s c l t.ident (noteTrained (linkOf s l) t) := by
  by_cases hst : (linkOf s l).st = 6
  · have hnote : noteTrained (linkOf s l) t = fun y => { y with laneMask := (linkOf s l).laneMask } :=
      funext fun _ => if_pos hst
    rw [hnote]
    exact if_pos hst
  · obtain ⟨hlanes, hver⟩ := h.resolve_left hst
    have hnote : noteTrained (linkOf s l) t =
        fun y => { noteLanes (linkOf s l) t y with peerSet := t.peerSet, chosen := 1 } := funext fun _ => if_neg hst
    rw [hnote]
    exact (if_neg hst).trans ((if_neg hlanes).trans (if_neg hver))

/-- The states in which a training event trains a link. -/
abbrev Trains (retry : Bool) (x : AditLink) : Prop := if retry then x.st = 4 ∨ x.st = 6 else x.st = 1 ∨ x.st = 3

theorem exec_training (howner : linkOwner s l = some c) (hpow : linkPowered s l = true) (retry : Bool) :
    exec (if retry then .adTrainRetry l t else .adTraining l t) s =
      .next (if Trains retry (linkOf s l) then adRetry s c l t else s) := by
  cases retry
  · show Host.Outcome.next (trainIn l t [1, 3] s) = _
    simp [trainIn, howner, hpow, Trains]
  · show Host.Outcome.next (trainIn l t [4, 6] s) = _
    simp [trainIn, howner, hpow, Trains]

end

theorem aditLinks_train_to_up : Rows.AditLinksTrainToUp := by
  intro link t s c retry howner hpow x go able lanes note known common
  have hgo : go = .next (if able then adRetry s c link t else s) := exec_training howner hpow retry
  have hable (h : able) : go = .next (adRetry s c link t) := hgo.trans (congrArg _ (if_pos h))
  have hcommon (h : able) (hc : common) : go = .next (adIdentify s c link t.ident (noteTrained x t)) :=
    (hable h).trans (congrArg _ (adRetry_of_common hc))
  refine ⟨fun h => ?_, fun h hst hlanes => ?_, fun h hst hlanes hver => ?_, fun h hc hfault => ?_, fun h hc hpass hst => ?_,
    fun h hc hpass hst p hp hserial hinc => ?_⟩
  · exact hgo.trans (congrArg _ (if_neg h))
  · exact (hable h).trans (congrArg _ (adRetry_of_no_lane hst hlanes))
  · exact (hable h).trans (congrArg _ (adRetry_of_no_version hst hlanes hver))
  · exact (hcommon h hc).trans (congrArg _ (adIdentify_of_fault _ hfault))
  · exact (hcommon h hc).trans (congrArg _ (adIdentify_of_not_retraining _ hpass hst))
  · exact (hcommon h hc).trans (congrArg _ (adIdentify_of_retraining_same_peer _ hpass hst hp hserial hinc))

/-- Settles O51: training by what it finds on the link, the checks by their order, and a MISWIRED link by its not being UP. -/
theorem aditIdentitiesAreChecked : Obligations.AditIdentitiesAreChecked :=
  ⟨aditLinks_train_to_up, identityChecks_in_their_order, miswiredLinks_carry_nothing⟩

end Sys2Proof.Machine
end

section
/-! PROOF. The attestation log (R456): what a new entry changes in it, that every entry stands at its SEQ, and what ATTEST reads of
it; then the accepted lines of REPLAN, COUNTER_FREEZE and ATTEST (R406, R437, R457, R458, R472). -/

namespace Sys2Proof.Machine

/-! ### Little-endian numbers (R11) -/

theorem leNat_leBytes (n v : Nat) : leNat (leBytes n v) = v % 256 ^ n := by
  induction n generalizing v with
  | zero => exact (Nat.mod_one v).symm
  | succ n ih =>
    calc leNat (leBytes (n + 1) v)
      _ = v % 256 + 256 * (v / 256 % 256 ^ n) := by simp [leBytes, leNat, ih]
      _ = v % 256 ^ (n + 1) := by rw [Nat.pow_succ', Nat.mod_mul]

@[simp] theorem length_leBytes (n v : Nat) : (leBytes n v).length = n := by
  induction n generalizing v with
  | zero => rfl
  | succ n ih => simp [leBytes, ih]

/-- The field that stands first in a record. -/
theorem fld_leBytes_append {n v : Nat} (rest : List Byte) (h : v < 256 ^ n) : fld (leBytes n v ++ rest) 0 n = v := by
  simp [fld, leNat_leBytes, Nat.mod_eq_of_lt h]

/-! ### A new entry of the log (R454, R456) -/

/-- The entry that `extendLog` adds. -/
def newEntry (s : State) (typ claim a0 a1 : Nat) (digest : List Byte) : List Byte :=
  leBytes 8 s.sec.logCount ++ leBytes 1 typ ++ leBytes 1 claim ++ leBytes 6 0 ++ leBytes 8 a0 ++ leBytes 8 a1 ++ padTo 64 digest

/-- How many of the oldest entries a new one drops. -/
def entriesDropped (s : State) : Nat := s.sec.log.length + 1 - 4096

theorem entriesDropped_eq (s : State) : entriesDropped s = s.sec.log.length + 1 - 4096 := rfl

/-- Each entry of a list carries the SEQ of its place, from `n` on. -/
def SeqFrom (n : Nat) (l : List (List Byte)) : Prop := ∀ k x, l[k]? = some x → fld x 0 8 = n + k

theorem SeqFrom.append {n : Nat} {l : List (List Byte)} {e : List Byte} (h : SeqFrom n l) (he : fld e 0 8 = n + l.length) :
    SeqFrom n (l ++ [e]) := by
  intro k x hk
  rcases Nat.lt_or_ge k l.length with hlt | hge
  · exact h k x (by rwa [List.getElem?_append_left hlt] at hk)
  · obtain ⟨hlt, rfl⟩ := List.getElem?_eq_some_iff.1 hk
    obtain rfl : k = l.length := by simp at hlt; omega
    simpa using he

theorem SeqFrom.drop {n : Nat} {l : List (List Byte)} (h : SeqFrom n l) (j : Nat) : SeqFrom (n + j) (l.drop j) := by
  intro k x hk
  rw [List.getElem?_drop] at hk
  rw [h _ _ hk, Nat.add_assoc]

section
variable (s : State) (typ claim a0 a1 : Nat) (digest : List Byte)

@[simp] theorem extendLog_m :
    (extendLog s typ claim a0 a1 digest).sec.m = sha512 (s.sec.m ++ newEntry s typ claim a0 a1 digest) := rfl

@[simp] theorem extendLog_logCount : (extendLog s typ claim a0 a1 digest).sec.logCount = s.sec.logCount + 1 := rfl

theorem extendLog_log : (extendLog s typ claim a0 a1 digest).sec.log =
    (s.sec.log ++ [newEntry s typ claim a0 a1 digest]).drop (entriesDropped s) := by
  simp only [extendLog, newEntry, entriesDropped_eq, List.length_append, List.length_singleton]

theorem length_extendLog_log : (extendLog s typ claim a0 a1 digest).sec.log.length = s.sec.log.length + 1 - entriesDropped s := by
  simp [extendLog_log]

theorem extendLog_log_of_room (h : s.sec.log.length < 4096) :
    (extendLog s typ claim a0 a1 digest).sec.log = s.sec.log ++ [newEntry s typ claim a0 a1 digest] := by
  have hnone : entriesDropped s = 0 := Nat.sub_eq_zero_of_le h
  rw [extendLog_log, hnone, List.drop_zero]

theorem extendLog_log_of_full (h : s.sec.log.length = 4096) :
    (extendLog s typ claim a0 a1 digest).sec.log = s.sec.log.drop 1 ++ [newEntry s typ claim a0 a1 digest] := by
  have hone : entriesDropped s = 1 := by rw [entriesDropped_eq, h]
  rw [extendLog_log, hone, List.drop_append_of_le_length (by omega)]

/-- FIRST_SEQ moves on by the entries dropped. -/
theorem firstSeq_extendLog (h : s.sec.log.length ≤ s.sec.logCount) :
    firstSeq (extendLog s typ claim a0 a1 digest) = firstSeq s + entriesDropped s := by
  simp only [firstSeq, extendLog_logCount, length_extendLog_log, entriesDropped_eq]
  omega

theorem fld_newEntry_seq (h : s.sec.logCount < 2 ^ 64) : fld (newEntry s typ claim a0 a1 digest) 0 8 = s.sec.logCount := by
  simpa only [newEntry, List.append_assoc] using fld_leBytes_append _ (by simpa using h)

theorem extendLog_keeps_seqs (hle : s.sec.log.length ≤ s.sec.logCount) (hfit : s.sec.logCount < 2 ^ 64)
    (h : SeqFrom (firstSeq s) s.sec.log) :
    SeqFrom (firstSeq (extendLog s typ claim a0 a1 digest)) (extendLog s typ claim a0 a1 digest).sec.log := by
  rw [firstSeq_extendLog _ _ _ _ _ _ hle, extendLog_log]
  have hseq : fld (newEntry s typ claim a0 a1 digest) 0 8 = firstSeq s + s.sec.log.length :=
    (fld_newEntry_seq _ _ _ _ _ _ hfit).trans (Nat.sub_add_cancel hle).symm
  exact (h.append hseq).drop _

end

/-! ### The entries from FROM_SEQ (R456) -/

theorem logBytes_of_le {s : State} {fromSeq : Nat} (size : Nat) (h : fromSeq ≤ firstSeq s) :
    logBytes s fromSeq size = (s.sec.log.take (size / 96)).flatten := by
  rw [logBytes, Nat.sub_eq_zero_of_le h, List.drop_zero]

theorem logBytes_add (s : State) (k size : Nat) :
    logBytes s (firstSeq s + k) size = ((s.sec.log.drop k).take (size / 96)).flatten := by
  rw [logBytes, Nat.add_sub_cancel_left]

theorem log_keeps_the_most_recent_entries : Rows.LogKeepsTheMostRecentEntries := by
  refine ⟨fun s typ claim a0 a1 digest => ⟨extendLog_m s typ claim a0 a1 digest,
    extendLog_logCount s typ claim a0 a1 digest, extendLog_log_of_room s typ claim a0 a1 digest,
    extendLog_log_of_full s typ claim a0 a1 digest, fun _ hle hfit hseq => ⟨?_, ?_, ?_⟩⟩, fun s fromSeq size => ⟨?_, ?_⟩⟩
  · rw [length_extendLog_log, entriesDropped_eq]; omega
  · rw [length_extendLog_log, extendLog_logCount]; omega
  · exact extendLog_keeps_seqs s typ claim a0 a1 digest hle hfit hseq
  · exact logBytes_of_le size
  · rintro k rfl
    exact logBytes_add s k size

/-! ### REPLAN, COUNTER_FREEZE and ATTEST (R406, R437, R457, R458, R472) -/

/-- What ATTEST writes, by its MODE. -/
def attestOut (s : State) (l : List Byte) : List Byte :=
  if byteAt l 16 = 0 then report s (slice l 48 32) else if byteAt l 16 = 1 then chainBytes
  else logBytes s (fld l 32 8) (fld l 20 4)

/-- The least room that ATTEST takes. -/
def attestLeast (s : State) (l : List Byte) : Nat := if byteAt l 16 = 2 then 96 else (attestOut s l).length

section
variable {m : MDesc} {s s1 : State} {o : Origin}

theorem exec_replan_of_accepted (h : MgmtAccepted s m 0x85 o s1) (hz : zeroAt m.line 16 112 = true) :
    exec (.replan m) s = .next { s1 with power := { s1.power with replans := s1.power.replans ++ [o] } } :=
  congrArg Host.Outcome.next (mgmtDesc_of h rfl (by decide) hz)

theorem exec_counterFreeze_of_accepted (h : MgmtAccepted s m 0x87 o s1) (hz : zeroAt m.line 16 112 = true) :
    exec (.counterFreeze m) s = .next (doneWith
      { passAll s1 with watch := { (passAll s1).watch with snap := (passAll s1).watch.live, snapSeq := s1.watch.snapSeq + 1 } } o
      (leBytes 8 (s1.watch.snapSeq + 1).toNat)) :=
  congrArg Host.Outcome.next (mgmtDesc_of h rfl (by decide) hz)

theorem exec_attest_of_accepted (h : MgmtAccepted s m 0x86 o s1) (hz : attestZero m.line = true) :
    exec (.attest m) s = .next (if 2 < byteAt m.line 16 || fld m.line 20 4 < attestLeast s1 m.line then bad s1 o 0x16
      else doneWith (putHost s1 (fld m.line 24 8) (attestOut s1 m.line)) o (leBytes 4 (attestOut s1 m.line).length)) :=
  congrArg Host.Outcome.next (mgmtDesc_of h rfl (by decide) hz)

theorem exec_attest_of_room (h : MgmtAccepted s m 0x86 o s1) (hz : attestZero m.line = true) (hmode : byteAt m.line 16 ≤ 2)
    (hroom : attestLeast s1 m.line ≤ fld m.line 20 4) :
    exec (.attest m) s =
      .next (doneWith (putHost s1 (fld m.line 24 8) (attestOut s1 m.line)) o (leBytes 4 (attestOut s1 m.line).length)) := by
  rw [exec_attest_of_accepted h hz, if_neg (by simpa using ⟨hmode, hroom⟩)]

theorem exec_attest_of_no_room (h : MgmtAccepted s m 0x86 o s1) (hz : attestZero m.line = true)
    (hroom : fld m.line 20 4 < attestLeast s1 m.line) : exec (.attest m) s = .next (bad s1 o 0x16) := by
  rw [exec_attest_of_accepted h hz, if_pos (by simp [hroom])]

end

theorem replan_waits_freeze_copies_attest_writes : Rows.ReplanFreezeAndAttest := by
  intro m s o s1
  refine ⟨exec_replan_of_accepted, exec_counterFreeze_of_accepted, fun h hz => ?_⟩
  intro size write
  refine ⟨fun hmode hroom => ?_, fun hmode hroom => ?_, fun hmode hroom => ?_, fun hmode hroom => ?_⟩
  · have hout : attestOut s1 m.line = report s1 (slice m.line 48 32) := if_pos hmode
    rw [exec_attest_of_room h hz (by omega) (by simpa [attestLeast, hmode, hout] using hroom), hout]
  · have hout : attestOut s1 m.line = chainBytes := by simp [attestOut, hmode]
    rw [exec_attest_of_room h hz (by omega) (by simpa [attestLeast, hmode, hout] using hroom), hout]
  · have hout : attestOut s1 m.line = logBytes s1 (fld m.line 32 8) size := by simp [attestOut, hmode, size]
    rw [exec_attest_of_room h hz (by omega) (by simpa [attestLeast, hmode] using hroom), hout]
  · exact exec_attest_of_no_room h hz (by simpa [attestLeast, hmode] using hroom)

/-- Settles O32: a new entry keeps every SEQ, as FIRST_SEQ moves on by the entries dropped; the commands row by row. -/
theorem theLogKeepsTheMostRecentEntries : Obligations.TheLogKeepsTheMostRecentEntries :=
  ⟨log_keeps_the_most_recent_entries, replan_waits_freeze_copies_attest_writes⟩

end Sys2Proof.Machine
end

section
/-! PROOF. One step of the block: the command it takes, that it answers a next state, and what it keeps: the invariant of the
block (R45, R449, R451, R456) and what the fuses make permanent (R408, R449, R451). -/

namespace Sys2Proof.Machine

/-- A step takes the command at the front of the queue, if there is one. -/
theorem step_of_cons {s : State} {c : Instr} {rest : List Instr} (h : s.pending = c :: rest) :
    step s = exec c { s with pending := rest } := by
  unfold step; rw [h]

theorem step_of_nil {s : State} (h : s.pending = []) : step s = .next s := by
  unfold step; rw [h]

/-- Every meaning is one call of its row's operation, which answers a state. -/
theorem exec_answers (i : Instr) (s : State) : ∃ t, exec i s = .next t := by
  cases i <;> exact ⟨_, rfl⟩

theorem step_answers (s : State) : StepSafe s := by
  cases h : s.pending with
  | nil => exact ⟨s, step_of_nil h⟩
  | cons c rest =>
    obtain ⟨t, ht⟩ := exec_answers c { s with pending := rest }
    exact ⟨t, (step_of_cons h).trans ht⟩

/-- Every command keeps the queue, the invariant and the fuses: its own lemma `exec<Name>_kept`. -/
theorem exec_kept (i : Instr) (s : State) : KeptO s (exec i s) := by
  cases i <;> simp [exec]

/-- The invariant does not speak of the queue, nor do the fuses. -/
theorem step_keeps {s t : State} (hs : BlockInv s) (h : step s = .next t) :
    BlockInv t ∧ FusesKept s t ∧ t.pending = s.pending.drop 1 := by
  cases hq : s.pending with
  | nil =>
    rw [step_of_nil hq, Host.Outcome.next.injEq] at h
    subst h
    exact ⟨hs, FusesKept.refl s, by simp [hq]⟩
  | cons c rest =>
    rw [step_of_cons hq] at h
    have hkept := exec_kept c { s with pending := rest }
    rw [h, keptO_next] at hkept
    obtain ⟨hqueue, hinv⟩ := hkept
    obtain ⟨ht, hfuses⟩ := hinv hs
    exact ⟨ht, hfuses, hqueue⟩

/-- Settles O1: by the two cases of the queue. -/
theorem stepRunsTheFrontCommand : Obligations.StepRunsTheFrontCommand :=
  ⟨fun _ _ _ => step_of_cons rfl, fun _ => step_of_nil⟩

/-- Settles O2: every row answers its operation's state, and the step runs a row or idles. -/
theorem everyStepAnswersANextState : Obligations.EveryStepAnswersANextState := ⟨exec_answers, step_answers⟩

/-- Settles O7: each part of the invariant of the state at reset. -/
theorem resetMeetsTheInvariant : Obligations.ResetMeetsTheInvariant := by
  refine ⟨hostWf_reset, ?_, ?_, ?_, ?_, ?_, ?_⟩ <;> decide

/-- Settles O8: every row keeps the invariant. -/
theorem everyStepKeepsTheInvariant : Obligations.EveryStepKeepsTheInvariant := fun _ _ hs h => (step_keeps hs h).1

/-- Settles O9: every row keeps the fuses, and the queue it is given. -/
theorem everyStepKeepsTheFuses : Obligations.EveryStepKeepsTheFuses := fun _ _ hs h => (step_keeps hs h).2

end Sys2Proof.Machine
end

section
/-! PROOF. What reset leaves in the registers (R16, R18), the completion record written in its ring (R64, R74, R78), and the line
taken from its ring (R72 to R74). -/

namespace Sys2Proof.Machine

/-! ### Reset -/

theorem claimOf_reset_st (c : Nat) : (claimOf State.reset c).st = 0 := by
  match c with
  | 0 | 1 | 2 | 3 => rfl
  | _ + 4 => rfl

/-- The registers of a claim at reset: the deadlines of the Cage, LOSS_US of its gang, SAMPLE_LOG2 of its trace. -/
theorem readReg_reset_of_claim {c : Nat} (h : c < 4) : readReg State.reset (0x800060 + 8 * c) = 5000 * 65536 + 500
    ∧ readReg State.reset (0x2008020 + 8 * c) % 65536 = 10000 ∧ readReg State.reset (0xB40000 + 8 * c) = 8 := by
  match c with
  | 0 | 1 | 2 | 3 => exact ⟨rfl, rfl, rfl⟩
  | _ + 4 => omega

/-- Settles O3: each register read at reset. -/
theorem resetLeavesTheStatedValues : Obligations.ResetLeavesTheStatedValues :=
  ⟨claimOf_reset_st, fun _ => rfl, rfl, rfl, rfl, rfl, fun _ => readReg_reset_of_claim, rfl, rfl, rfl, rfl, rfl, rfl⟩

/-! ### A record in its ring -/

@[simp] theorem length_padTo (n : Nat) (bs : List Byte) : (padTo n bs).length = n := by
  simp only [padTo, List.length_append, List.length_take, List.length_replicate]; omega

theorem length_cplBytes (r : CplRec) (phase : Nat) : (cplBytes r phase).length = 64 := by
  simp [cplBytes]

/-- A record that goes: its bytes at its place, and its ring's counts. -/
theorem putRecord_of_goes {s : State} {r : CplRec} {g : Ring} (hg : kget s.hl.rings ⟨r.o.claim, true, r.o.cpl⟩ = some g)
    (h : recordGoes s r = true) :
    (putRecord s r).host = hostWriteBytes s.host (g.base + 64 * (g.n.toNat % g.cap true)) (cplBytes r (phaseAt (g.cap true) g.n.toNat))
    ∧ (putRecord s r).hl.rings = kset s.hl.rings ⟨r.o.claim, true, r.o.cpl⟩ { g with n := g.n + 1, v := g.v - 1 } := by
  simp [putRecord, hg, h, modRing, hlUse, modVc, putHost, kmod]

theorem putRecord_of_waits {s : State} {r : CplRec} {g : Ring} (hg : kget s.hl.rings ⟨r.o.claim, true, r.o.cpl⟩ = some g)
    (h : recordGoes s r = false) : putRecord s r = { s with hl := { s.hl with stalled := s.hl.stalled ++ [r] } } := by
  simp [putRecord, hg, h]

/-- Settles O5: the two cases of a record, with the laws of companion memory. -/
theorem recordsAreWrittenInTheirRing : Obligations.RecordsAreWrittenInTheirRing := by
  intro s r g hwf hg
  refine ⟨fun hgoes => ?_, fun hwaits => by simp [putRecord_of_waits hg hwaits]⟩
  obtain ⟨hhost, hrings⟩ := putRecord_of_goes hg hgoes
  have hlen := length_cplBytes r (phaseAt (g.cap true) g.n.toNat)
  intro a b t
  refine ⟨fun i hi => ?_, fun x hx => ?_, by simp [t, hrings], fun k hk => ?_, by simp [t]⟩
  · exact hhost ▸ hostRead_hostWriteBytes_in hwf (by omega) (by omega)
  · exact hhost ▸ hostRead_hostWriteBytes_out (by rwa [hlen])
  · simp only [t, hrings, kget_kset_ne _ _ hk]

/-! ### A line of its ring -/

/-- A line that no watch has taken before is taken from an ENABLED ring with an entry free in its completion ring. -/
theorem takeLine_of_fresh {s t : State} {id : RingId} {g : Ring} {line : List Byte} {o : Origin} (hg : kget s.hl.rings id = some g)
    (hf : g.fetched = []) (h : takeLine s id false line = some (o, t)) :
    1 ≤ cplFree s id.claim g.cplRing
    ∧ o = { claim := id.claim, ring := id.idx, index := g.n.toNat, opcode := byteAt line 0, req := fld line 4 4
            cookie := fld line 12 4, tenant := fld line 8 2, cpl := g.cplRing }
    ∧ t = modRing (modRing (putHost (hlUse (hlGot s (ringVc id.claim) 1) (ringVc id.claim) id.claim) (g.rcb + 64)
          (leBytes 4 (g.n + 1).toNat)) id (fun g => { g with n := g.n + 1 })) ⟨id.claim, true, g.cplRing⟩
        (fun g => { g with v := g.v + 1 }) := by
  unfold takeLine at h
  simp only [hg, hf] at h
  split at h
  · cases h
  · split at h
    · rename_i hfree
      simp only [Option.some.injEq, Prod.mk.injEq] at h
      simp only [Bool.and_eq_true, decide_eq_true_eq] at hfree
      exact ⟨hfree.1.2, h.1.symm, h.2.symm⟩
    · cases h

/-- A completion ring with an entry free is listed and ENABLED. -/
theorem ring_of_cplFree_pos {s : State} {c i : Nat} (h : 1 ≤ cplFree s c i) :
    ∃ q, kget s.hl.rings ⟨c, true, i⟩ = some q ∧ q.st = 1 := by
  unfold cplFree at h
  split at h
  · omega
  · rename_i q hq
    split at h
    · exact ⟨q, hq, by assumption⟩
    · omega

/-- Settles O6: by the place of SUB_CONSUMED in the RCB and the two rings that change. -/
theorem linesAreTakenInRingOrder : Obligations.LinesAreTakenInRingOrder := by
  intro s id line o t g hwf hg hcpl hf h
  obtain ⟨hfree, rfl, rfl⟩ := takeLine_of_fresh hg hf h
  have hlen : (leBytes 4 (g.n + 1).toNat).length = 4 := length_leBytes ..
  have hne : (⟨id.claim, true, g.cplRing⟩ : RingId) ≠ id := fun e => by
    simpa [hcpl] using congrArg RingId.cpl e
  obtain ⟨q, hq, hst⟩ := ring_of_cplFree_pos hfree
  have hrings : (modRing (modRing (putHost (hlUse (hlGot s (ringVc id.claim) 1) (ringVc id.claim) id.claim) (g.rcb + 64)
      (leBytes 4 (g.n + 1).toNat)) id (fun g => { g with n := g.n + 1 })) ⟨id.claim, true, g.cplRing⟩
        (fun g => { g with v := g.v + 1 })).hl.rings
      = kset (kset s.hl.rings id { g with n := g.n + 1 }) ⟨id.claim, true, g.cplRing⟩ { q with v := q.v + 1 } := by
    have hid := kmod_of (fun g : Ring => { g with n := g.n + 1 }) hg
    have hcq := (kget_kset_ne s.hl.rings { g with n := g.n + 1 } hne).trans hq
    show kmod (kmod s.hl.rings id _) _ _ = _
    rw [hid, kmod_of _ hcq]
  refine ⟨rfl, fun i hi => ?_, fun x hx => ?_, ?_, ?_, rfl⟩
  · exact hostRead_hostWriteBytes_in hwf (by omega) (by omega)
  · exact hostRead_hostWriteBytes_out (by rwa [hlen])
  · rw [hrings, kget_kset_ne _ _ hne.symm, kget_kset_self]
  · unfold cplFree at hfree ⊢
    rw [hrings]
    simp only [kget_kset_self, hq, hst, if_true, Ring.cap] at hfree ⊢
    omega

end Sys2Proof.Machine
end

section
/-! PROOF. The mask of Timber (R275, R276) and the draw (R264 to R269): what a token that is not allowed does to it, and which token
it gives. -/

namespace Sys2Proof.Machine

/-! ### The mask -/

theorem edgeFor_of_class {g : GrammarSec} {a b : Nat} (t : TimberSt) (h : tokClass g a = tokClass g b) :
    edgeFor g t a = edgeFor g t b := by
  unfold edgeFor; rw [h]

theorem timberAllows_of_class {g : GrammarSec} {eos a b : Nat} (t : TimberSt) (h : tokClass g a = tokClass g b) (ha : a ≠ eos)
    (hb : b ≠ eos) : timberAllows g eos t a = timberAllows g eos t b := by
  unfold timberAllows; rw [if_neg ha, if_neg hb, edgeFor_of_class t h]

/-! ### What the draw looks at -/

/-- The allowed tokens of a list of logits, with their logits. -/
def openToks (allowed : Nat → Bool) (l : List F32) : List (Nat × F32) :=
  ((List.range l.length).zip l).filter (fun t => allowed t.1)

theorem mem_openToks {allowed : Nat → Bool} {l : List F32} {t : Nat × F32} (h : t ∈ openToks allowed l) :
    allowed t.1 = true ∧ l[t.1]? = some t.2 := by
  obtain ⟨hmem, hal⟩ := List.mem_filter.1 h
  obtain ⟨i, hi, rfl⟩ := List.mem_iff_getElem.1 hmem
  simp only [List.length_zip, List.length_range, Nat.min_self] at hi
  exact ⟨hal, by simp [hi]⟩

theorem filter_zip_range'_congr {allowed : Nat → Bool} {l l' : List F32} (k : Nat) (hn : l.length = l'.length)
    (h : ∀ i, allowed (k + i) = true → l[i]? = l'[i]?) :
    ((List.range' k l.length).zip l).filter (fun t => allowed t.1) = ((List.range' k l'.length).zip l').filter (fun t => allowed t.1) := by
  induction l generalizing k l' with
  | nil => cases l' <;> simp_all
  | cons x r ih =>
    cases l' with
    | nil => simp at hn
    | cons y r' =>
      have hrest := ih (k + 1) (by simpa using hn) (fun i hi => by
        simpa using h (i + 1) (by rwa [show k + (i + 1) = k + 1 + i by omega]))
      simp only [List.length_cons, List.range'_succ, List.zip_cons_cons, List.filter_cons, hrest]
      split
      · rename_i hk
        rw [show x = y by simpa using h 0 hk]
      · rfl

/-- Logits that agree on the allowed tokens leave the same tokens open. -/
theorem openToks_congr {allowed : Nat → Bool} {l l' : List F32} (hn : l.length = l'.length)
    (h : ∀ i, allowed i = true → l[i]? = l'[i]?) : openToks allowed l = openToks allowed l' := by
  unfold openToks
  rw [List.range_eq_range', List.range_eq_range']
  exact filter_zip_range'_congr 0 hn (by simpa using h)

theorem draw_congr {allowed : Nat → Bool} {l l' : List F32} (p : DrawParams) (seed : W64) (g : Nat) (counts : AMap (Nat × Nat))
    (h : openToks allowed l = openToks allowed l') : draw p seed g allowed counts l = draw p seed g allowed counts l' := by
  unfold openToks at h
  simp only [draw, h]

/-! ### The token drawn -/

theorem mem_of_mem_insertBy {α : Type} {lt : α → α → Bool} {a x : α} {l : List α} (h : x ∈ insertBy lt a l) : x = a ∨ x ∈ l := by
  induction l with
  | nil => simpa [insertBy] using h
  | cons b r ih =>
    unfold insertBy at h
    split at h
    · simpa using h
    · rcases List.mem_cons.1 h with rfl | h
      · simp
      · rcases ih h with rfl | h <;> simp [*]

theorem mem_of_mem_sortBy {α : Type} {lt : α → α → Bool} {x : α} {l : List α} (h : x ∈ sortBy lt l) : x ∈ l := by
  suffices ∀ acc : List α, x ∈ l.foldl (fun acc a => insertBy lt a acc) acc → x ∈ acc ∨ x ∈ l by simpa using this [] h
  clear h
  induction l with
  | nil => simp
  | cons a r ih =>
    intro acc h
    rcases ih _ h with h | h
    · rcases mem_of_mem_insertBy h with rfl | h <;> simp [*]
    · simp [h]

theorem mem_of_mem_topPrefix {f : F32} {z acc : Nat} {x : Nat × F32 × Nat} {l : List (Nat × F32 × Nat)}
    (h : x ∈ topPrefix f z acc l) : x ∈ l := by
  induction l generalizing acc with
  | nil => simp [topPrefix] at h
  | cons a r ih =>
    unfold topPrefix at h
    split at h
    · simp_all
    · rcases List.mem_cons.1 h with rfl | h
      · simp
      · simp [ih h]

theorem mem_of_pickAt {t acc i : Nat} {l : List (Nat × F32 × Nat)} (h : pickAt t acc l = some i) : ∃ x ∈ l, x.1 = i := by
  induction l generalizing acc with
  | nil => simp [pickAt] at h
  | cons a r ih =>
    unfold pickAt at h
    split at h
    · exact ⟨a, by simp, by simpa using h⟩
    · obtain ⟨x, hx, rfl⟩ := ih h
      exact ⟨x, by simp [hx], rfl⟩

theorem of_mem_ite {α : Type} {c : Prop} [Decidable c] {x : α} {a b l : List α} (ha : x ∈ a → x ∈ l) (hb : x ∈ b → x ∈ l)
    (h : x ∈ if c then a else b) : x ∈ l := by
  split at h
  · exact ha h
  · exact hb h

/-- The token drawn is open, with a logit that is no NaN. -/
theorem draw_tok_open {p : DrawParams} {seed : W64} {g : Nat} {allowed : Nat → Bool} {counts : AMap (Nat × Nat)} {l : List F32}
    {i : Nat} (h : (draw p seed g allowed counts l).tok = some i) :
    ∃ x ∈ openToks allowed l, x.1 = i ∧ isNan32 x.2 = false := by
  unfold draw at h
  simp only at h
  have hgood : ∀ x ∈ (openToks allowed l).filter (fun t => !isNan32 t.2), ∃ y ∈ openToks allowed l, y.1 = x.1 ∧ isNan32 y.2 = false :=
    fun x hx => ⟨x, (List.mem_filter.1 hx).1, rfl, by simpa using (List.mem_filter.1 hx).2⟩
  split at h
  · cases h
  · rename_i best rest hord
    split at h
    · have hbest := mem_of_mem_sortBy (hord ▸ List.mem_cons_self : best ∈ _)
      obtain ⟨x, hx, rfl⟩ := List.mem_map.1 hbest
      obtain rfl : x.1 = i := by simpa using h
      exact hgood x hx
    · obtain ⟨x, hx, rfl⟩ := mem_of_pickAt h
      have htp := of_mem_ite id (fun h => (List.mem_append.1 h).elim List.mem_of_mem_take
        fun h => List.mem_of_mem_drop (List.mem_filter.1 h).1) (mem_of_mem_sortBy hx)
      have hk := of_mem_ite (fun h => of_mem_ite List.mem_of_mem_take id (mem_of_mem_topPrefix h)) id htp
      have hw := of_mem_ite id List.mem_of_mem_take hk
      obtain ⟨y, hy, rfl⟩ := List.mem_map.1 hw
      obtain ⟨z, hz, rfl⟩ := List.mem_map.1 (mem_of_mem_sortBy hy)
      obtain ⟨v, hv, rfl⟩ := List.mem_map.1 hz
      exact hgood v hv

/-- Settles O44: by the mask's classes, and by the open tokens, which alone the draw looks at and draws from. -/
theorem disallowedTokensPlayNoPart : Obligations.DisallowedTokensPlayNoPart := by
  refine ⟨fun _ _ t _ _ h ha hb => timberAllows_of_class t h ha hb,
    fun p seed g _ counts _ _ hn h => draw_congr p seed g counts (openToks_congr hn h), fun p seed g allowed counts l t h => ?_⟩
  obtain ⟨x, hx, rfl, hnan⟩ := draw_tok_open h
  obtain ⟨hal, hl⟩ := mem_openToks hx
  exact ⟨hal, x.2, hl, hnan⟩

end Sys2Proof.Machine
end

section
/-! PROOF. The TEXT records of a batch (R132), and DETOKENIZE_BATCH of a batch that does not end the output (R127 to R133). -/

namespace Sys2Proof.Machine

/-! ### Records -/

theorem flatten_cutRecords (cur : List Byte) (cs : List (List Byte)) : (cutRecords cur cs).flatten = cur ++ cs.flatten := by
  induction cs generalizing cur with
  | nil => simp [cutRecords]
  | cons c r ih => unfold cutRecords; split <;> simp [ih]

theorem length_of_mem_cutRecords {cur : List Byte} {cs : List (List Byte)} (hcur : cur.length ≤ 96) (hcs : ∀ c ∈ cs, c.length ≤ 96)
    {x : List Byte} (hx : x ∈ cutRecords cur cs) : x.length ≤ 96 := by
  induction cs generalizing cur with
  | nil => obtain rfl : x = cur := by simpa [cutRecords] using hx
           exact hcur
  | cons c r ih =>
    have hr : ∀ y ∈ r, y.length ≤ 96 := fun y hy => hcs y (by simp [hy])
    unfold cutRecords at hx
    split at hx
    · exact ih (by simpa using ‹_›) hr hx
    · rcases List.mem_cons.1 hx with rfl | hx
      · exact hcur
      · exact ih (hcs c (by simp)) hr hx

/-- Of the characters `pre ++ cs`, of which the record under way holds `pre`, every record is a run. -/
theorem run_of_mem_cutRecords (pre : List (List Byte)) {cs : List (List Byte)} {x : List Byte} (hx : x ∈ cutRecords pre.flatten cs) :
    ∃ i n, x = (((pre ++ cs).drop i).take n).flatten := by
  induction cs generalizing pre with
  | nil => exact ⟨0, pre.length, by simpa [cutRecords] using hx⟩
  | cons c r ih =>
    unfold cutRecords at hx
    split at hx
    · simpa using ih (pre ++ [c]) (by simpa using hx)
    · rcases List.mem_cons.1 hx with rfl | hx
      · exact ⟨0, pre.length, by simp⟩
      · obtain ⟨i, n, rfl⟩ := ih [c] (by simpa using hx)
        exact ⟨pre.length + i, n, by rw [← List.drop_drop, List.drop_left, List.singleton_append]⟩

theorem textRecords_divide_no_character : Rows.TextRecordsDivideNoCharacter :=
  ⟨fun cs => by simp [flatten_cutRecords], fun _ hcs _ => length_of_mem_cutRecords (by simp) hcs,
    fun _ _ hx => run_of_mem_cutRecords [] hx, rfl⟩

/-! ### DETOKENIZE_BATCH -/

theorem exec_detokenizeBatch (slot : BitVec 16) (s : State) : exec (.detokenizeBatch slot) s = .next (opDetokenizeBatch slot s) := rfl

theorem detokenizeBatch_releases_its_text : Rows.BatchesAreDetokenized := by
  intro slot s i r b rest v hstep hrun hbatch hv n
  rw [exec_detokenizeBatch]
  unfold opDetokenizeBatch
  simp only [hstep, hrun, hbatch, hv]
  refine ⟨fun hstalled => by rw [if_pos hstalled], fun hfree hlast hgood d1 cs bad hdetok => ?_⟩
  simp [n, hfree, hlast, hgood, hdetok]

/-- Settles O45: records are runs of whole characters, and the row's branch for a batch that is not the last. -/
theorem batchesAreDetokenizedIntoRecords : Obligations.BatchesAreDetokenizedIntoRecords :=
  ⟨textRecords_divide_no_character, detokenizeBatch_releases_its_text⟩

end Sys2Proof.Machine
end

section
/-! PROOF. The messages of a peer (R390 to R392, R394): which wait in a receive buffer, which are discarded and which are served, and
what the receiver keeps of message numbers (R391). -/

namespace Sys2Proof.Machine

/-! ### A message received -/

theorem serveHeld_of_none_held {s : State} (h : s.adit.held = []) : serveHeld s = s := by
  have hadit : { s.adit with held := [] } = s.adit := by rw [← h]
  unfold serveHeld
  simp [h, hadit]

/-- The class of a message of rows, whose ledger a swap may hold up (R204, R205). -/
def ofPausedRows (s : State) (c cls : Nat) (m : AdMsg) : Prop :=
  (cls = 5 ∨ (cls = 3 ∧ fld m.payload 0 8 = 0)) ∧ (ledgerSecOf s c m.object).isSome = true ∧ ledgerOpen s c m.object = false

theorem linkOwner_of_openLink {s : State} {l c : Nat} {i : AdIdentity} (h : openLink s l = some (c, i)) : linkOwner s l = some c := by
  unfold openLink at h
  split at h
  · rename_i hown _
    split at h
    · cases h; exact hown
    · cases h
  · cases h

section
variable {s : State} {link c : Nat} {i : AdIdentity} {m : AdMsg} (hopen : openLink s link = some (c, i)) (hsrc : m.src = i.moduleId)
include hopen hsrc

theorem mustWait_none_before_iff (cls : Nat) : mustWait s [] link cls m = true
    ↔ isStale s c i m = false ∧ (4096 ≤ (gangOf s c).remote.length ∨ ofPausedRows s c cls m) := by
  simp [mustWait, hopen, hsrc, ofPausedRows, and_assoc]

/-- The three ways of a message that does not wait. -/
theorem takeMsg_of_stale (cls : Nat) (act : State → Nat → State) (h : isStale s c i m = true) :
    takeMsg s link cls m act = modLink (returnCredits s c link cls i m false) link (fun x => { x with err := x.err ||| 0x40 }) := by
  simp [takeMsg, hopen, hsrc, h]

theorem takeMsg_of_duplicate (cls : Nat) (act : State → Nat → State) (h : isStale s c i m = false)
    (hdup : isDuplicate (kgetD (gangOf s c).peers i.moduleId {}) m.peerSeq = true) :
    takeMsg s link cls m act = returnCredits s c link cls i m true := by
  simp only [takeMsg, hopen, hsrc, h, hdup, bne_self_eq_false, Bool.false_eq_true, if_false, if_true]

theorem takeMsg_of_new (cls : Nat) (act : State → Nat → State) (h : isStale s c i m = false)
    (hdup : isDuplicate (kgetD (gangOf s c).peers i.moduleId {}) m.peerSeq = false) :
    takeMsg s link cls m act = act (modGang (returnCredits s c link cls i m true) c (fun g => { g with
      peers := kset g.peers i.moduleId (markPeerSeq (kgetD (gangOf s c).peers i.moduleId {}) m.peerSeq) })) c := by
  simp only [takeMsg, hopen, hsrc, h, hdup, bne_self_eq_false, Bool.false_eq_true, if_false]

end

section
variable {s : State} {link c : Nat} {i : AdIdentity} {m : AdMsg} (hopen : openLink s link = some (c, i)) (hheld : s.adit.held = [])
include hopen hheld

theorem recvWork_of_waiting {cls : Nat} (h : mustWait s [] link cls m = true) :
    recvWork s link cls m = { s with adit := { s.adit with held := [⟨link, cls, m, (pitOf s c m.object).live.p⟩] } } := by
  simp [recvWork, serveHeld_of_none_held hheld, hheld, h, linkOwner_of_openLink hopen]

theorem recvWork_of_not_waiting {cls : Nat} (h : mustWait s [] link cls m = false) :
    recvWork s link cls m = serveWork s link cls m (pitOf s c m.object).live.p := by
  simp [recvWork, serveHeld_of_none_held hheld, hheld, h, linkOwner_of_openLink hopen]

end

/-- The rows of the three classes of work. -/
theorem exec_work {cls : Nat} (hcls : cls = 1 ∨ cls = 3 ∨ cls = 5) (link : Nat) (m : AdMsg) (s : State) :
    exec (if cls = 1 then .query link m else if cls = 3 then .fetch link m else .scatter link m) s = .next (recvWork s link cls m) := by
  rcases hcls with rfl | rfl | rfl <;> rfl

theorem peerMessages_are_served_once : Rows.PeerMessagesAreServedOnce := by
  intro link m s c i cls hopen hsrc hheld hcls go p s1 s2 full epoch paused
  have hgo : go = .next (recvWork s link cls m) := exec_work hcls link m s
  have hwait := mustWait_none_before_iff hopen hsrc cls
  rw [hgo]
  refine ⟨fun hstale => ?_, fun hfresh hw => ?_, fun hfresh hfull hpaused hdup => ?_, fun hfresh hfull hpaused hnew => ?_⟩
  · have hno : mustWait s [] link cls m = false := by
      rw [← Bool.not_eq_true, hwait, hstale]; simp
    rw [recvWork_of_not_waiting hopen hheld hno, serveWork, takeMsg_of_stale hopen hsrc _ _ hstale]
  · rw [recvWork_of_waiting hopen hheld (hwait.2 ⟨hfresh, hw⟩)]
  · have hno : mustWait s [] link cls m = false := by
      rw [← Bool.not_eq_true, hwait]; exact fun h => h.2.elim hfull hpaused
    rw [recvWork_of_not_waiting hopen hheld hno, serveWork, takeMsg_of_duplicate hopen hsrc _ _ hfresh hdup]
  · have hno : mustWait s [] link cls m = false := by
      rw [← Bool.not_eq_true, hwait]; exact fun h => h.2.elim hfull hpaused
    rw [recvWork_of_not_waiting hopen hheld hno, serveWork, takeMsg_of_new hopen hsrc _ _ hfresh hnew]

/-! ### Message numbers -/

/-- The lowest number moves over a run of marks, and the marks of the run go. -/
theorem advanceSeq_moves (fuel : Nat) (p : PeerState) : ∃ k ≤ fuel, (advanceSeq fuel p).lowest = p.lowest + BitVec.ofNat 32 k
    ∧ (∀ j < k, p.lowest + BitVec.ofNat 32 j ∈ p.marked)
    ∧ ∀ x, x ∈ (advanceSeq fuel p).marked ↔ x ∈ p.marked ∧ ∀ j < k, x ≠ p.lowest + BitVec.ofNat 32 j := by
  induction fuel generalizing p with
  | zero => exact ⟨0, Nat.le_refl _, by simp [advanceSeq], by simp, by simp [advanceSeq]⟩
  | succ fuel ih =>
    by_cases hmem : p.marked.contains p.lowest = true
    · obtain ⟨k, hk, hlow, hrun, hleft⟩ := ih { p with lowest := p.lowest + 1, marked := p.marked.filter (· != p.lowest) }
      have hadv : advanceSeq (fuel + 1) p
          = advanceSeq fuel { p with lowest := p.lowest + 1, marked := p.marked.filter (· != p.lowest) } := if_pos hmem
      have hsucc : ∀ j, p.lowest + 1 + BitVec.ofNat 32 j = p.lowest + BitVec.ofNat 32 (j + 1) := fun j => by
        rw [BitVec.ofNat_add]; ac_rfl
      simp only [hsucc, List.mem_filter, bne_iff_ne, ne_eq] at hlow hrun hleft
      refine ⟨k + 1, by omega, hadv ▸ hlow, fun j hj => ?_, fun x => ?_⟩
      · cases j with
        | zero => simpa using hmem
        | succ j => exact (hrun j (by omega)).1
      · rw [hadv, hleft]
        refine ⟨fun ⟨⟨hx, h0⟩, hj⟩ => ⟨hx, fun j hjk => ?_⟩, fun ⟨hx, hj⟩ => ⟨⟨hx, by simpa using hj 0 (by omega)⟩, fun j hjk => hj (j + 1) (by omega)⟩⟩
        cases j with
        | zero => simpa using h0
        | succ j => exact hj j (by omega)
    · have hstop : advanceSeq (fuel + 1) p = p := if_neg hmem
      exact ⟨0, by omega, by simp [hstop], by simp, by simp [hstop]⟩

theorem isDuplicate_iff (p : PeerState) (q : W32) : isDuplicate p q = true ↔ 65536 ≤ (q - p.lowest).toNat ∨ q ∈ p.marked := by
  simp [isDuplicate]

theorem messageNumbers_are_accepted_once : Rows.MessageNumbersAreAcceptedOnce := by
  intro p q hroom
  obtain ⟨k, hk, hlow, hrun, hleft⟩ := advanceSeq_moves (p.marked.length + 1) { p with marked := p.marked ++ [q] }
  change (markPeerSeq p q).lowest = _ at hlow
  change ∀ x, x ∈ (markPeerSeq p q).marked ↔ _ at hleft
  simp only [List.mem_append, List.mem_singleton] at hrun hleft
  refine ⟨?_, fun q' hne hnew => ?_⟩
  · rw [isDuplicate_iff]
    by_cases hq : ∀ j < k, q ≠ p.lowest + BitVec.ofNat 32 j
    · exact .inr ((hleft q).2 ⟨.inr rfl, hq⟩)
    · obtain ⟨j, hnot⟩ := Classical.not_forall.1 hq
      obtain ⟨hj, hsame⟩ := Classical.not_imp.1 hnot
      obtain rfl := Classical.not_not.1 hsame
      left
      rw [hlow]
      simp only []
      bv_omega
  · rw [← Bool.not_eq_true, isDuplicate_iff] at hnew ⊢
    obtain ⟨hout, hmark⟩ := not_or.1 hnew
    have hwin := Nat.not_le.1 hout
    refine not_or.2 ⟨Nat.not_le.2 ?_, fun h => ?_⟩
    · have hfar : k ≤ (q' - p.lowest).toNat := by
        refine Nat.le_of_not_lt fun hlt => ?_
        have := hrun (q' - p.lowest).toNat (by omega)
        rw [BitVec.ofNat_toNat, BitVec.setWidth_eq, show p.lowest + (q' - p.lowest) = q' by bv_omega] at this
        exact this.elim hmark hne
      rw [hlow]
      bv_omega
    · exact ((hleft q').1 h).1.elim hmark hne

/-- Settles O54: the ways of a message received, and the run of marks that the lowest number passes. -/
theorem peerMessagesAreServedOnce : Obligations.PeerMessagesAreServedOnce :=
  ⟨peerMessages_are_served_once, messageNumbers_are_accepted_once⟩

end Sys2Proof.Machine
end

section
/-! PROOF. The rings (R66 to R74, R85, R87): enabling, the tail watch, snoops, heads, and draining. -/

namespace Sys2Proof.Machine

/-! ### Enabling -/

theorem ite_le_of {c : Prop} [Decidable c] {a b n : Nat} (ha : a ≤ n) (hb : b ≤ n) : (if c then a else b) ≤ n := by
  split <;> assumption

/-- The codes of HL_RING_CMD_STATUS (R69): 5 to 8 come before the RCB is read. -/
theorem ringEnableCode_le (s : State) (id : RingId) (rcb : List Byte) : ringEnableCode s id rcb ≤ 8 := by
  unfold ringEnableCode
  refine ite_le_of (by decide) (ite_le_of (by decide) ?_)
  split
  · exact ite_le_of (by decide) (by decide)
  · exact ite_le_of (by decide) (ite_le_of (by decide) (ite_le_of (by decide)
      (ite_le_of (ite_le_of (by decide) (by decide)) (ite_le_of (by decide) (by decide)))))

theorem contains_late_code {code : Nat} (h : code ≤ 8) : [5, 6, 7, 8].contains code = !decide (code ≤ 4) := by
  rw [Bool.eq_iff_iff]
  simp only [List.contains_eq_mem, List.mem_cons, List.not_mem_nil, or_false, decide_eq_true_eq, Bool.not_eq_true', decide_eq_false_iff_not]
  omega

theorem exec_ringEnable_of {value : W64} {s : State} (rcb : List Byte) (hreach : reach s = true) (hact : bits value.toNat 15 14 = 1) :
    exec (.ringEnable value rcb) s = .next (answerMgmt (enableRing value rcb (hlGot s 2 1)) 0x100128 0 0) := by
  show Host.Outcome.next (opRingEnable value rcb s) = _
  simp only [opRingEnable, hreach, hact, beq_self_eq_true, Bool.and_self, if_true, ringCmd]

theorem enableRing_of_target {value : W64} {id : RingId} (rcb : List Byte) (s : State) (h : ringCmdTarget value = some id) :
    enableRing value rcb s =
      let code := ringEnableCode s id rcb
      let s1 := if code ≤ 4 then hlGot s (ringVc id.claim) 1 else s
      if code ≠ 0 then setRingCode s1 code
      else setRingCode { s1 with hl := { s1.hl with rings := kset s1.hl.rings id {
          st := 1, base := fld rcb 0 8, lines := fld rcb 8 4, cplRing := fld rcb 14 2, rcb := rcbAddr s1 id, n := 0, head := 0, v := 0
          fetched := [] } } } 0 := by
  simp only [enableRing, h, contains_late_code (ringEnableCode_le s id rcb)]
  by_cases hc : ringEnableCode s id rcb ≤ 4 <;> simp [hc]

theorem ringEnable_checks_the_rcb : Rows.RingEnableChecksTheRcb := by
  intro value rcb s hreach hact s1
  rw [exec_ringEnable_of rcb hreach hact]
  refine ⟨fun id ht hcode => ?_, fun id ht hcode => ?_, fun ht => ?_⟩
  · rw [enableRing_of_target rcb _ ht]
    simp only [show ringEnableCode (hlGot s 2 1) id rcb = 0 from hcode, Nat.zero_le, if_true, ne_eq, not_true_eq_false, if_false]
    rfl
  · rw [enableRing_of_target rcb _ ht]
    simp only []
    rw [if_pos hcode]
  · simp only [enableRing, ht]; rfl

/-! ### The tail watch -/

section
variable {ring : RingSel} {after poison : Bool} {line : List Byte} {s : State} {g : Ring}

/-- A line re-read where the watch reads it: by whether it is a descriptor. -/
theorem exec_watchLineInvalidate_of (hg : kget s.hl.rings (ringIdOf ring false) = some g) (hadmits : admits s = true) (hst : g.st = 1)
    (hlen : line.length = 128) (hcan : hlCan s (ringVc (ringIdOf ring false).claim) (ringIdOf ring false).claim = true) :
    let id := ringIdOf ring false
    let pos := g.n.toNat + g.fetched.length + if after then 1 else 0
    let s0 := emit (hlGot s (ringVc id.claim) 2) (.snoop (BitVec.ofNat 64 (g.base + 128 * (pos % g.lines))) true)
    exec (.watchLineInvalidate ⟨ring, after⟩ poison line) s = .next (
      if poison || byteAt line 2 % 2 == phaseAt (g.cap false) pos then
        if after then modRing s0 id (fun g => { g with ahead := some (poison, line) })
        else if ringTakes s id && decide (cplFree s id.claim g.cplRing ≥ 1) then watchTakes s0 id g (poison, line)
        else s0
      else
        let s1 := { s0 with hl := { s0.hl with err := s0.hl.err ||| 0x10 } }
        if after then modRing s1 id (fun g => { g with ahead := none }) else s1) := by
  show Host.Outcome.next (opWatchLineInvalidate ring after poison line s) = _
  simp only [opWatchLineInvalidate, hg, hadmits, hst, hlen, hcan, beq_self_eq_true, Bool.and_self, Bool.not_true, Bool.false_eq_true,
    if_false]

end

theorem watch_takes_a_new_line_or_marks_it_spurious : Rows.WatchTakesANewLineOrMarksItSpurious := by
  intro ring after poison line s g hg hadmits hst hlen hcan id pos s0 fresh
  have hfresh : (poison || byteAt line 2 % 2 == phaseAt (g.cap false) pos) = true ↔ fresh := by simp [fresh]
  have hexec := exec_watchLineInvalidate_of (after := after) (poison := poison) hg hadmits hst hlen hcan
  refine ⟨fun hf ha htakes hroom => ?_, fun hf ha hno => ?_, fun hf ha => ?_, fun hf ha => ?_⟩ <;>
    refine hexec.trans (congrArg Host.Outcome.next ?_)
  · exact (if_pos (hfresh.2 hf)).trans ((if_neg (by simp [ha])).trans (if_pos (Bool.and_eq_true_iff.2 ⟨htakes, decide_eq_true hroom⟩)))
  · exact (if_pos (hfresh.2 hf)).trans ((if_neg (by simp [ha])).trans (if_neg fun h =>
      hno ⟨(Bool.and_eq_true_iff.1 h).1, of_decide_eq_true (Bool.and_eq_true_iff.1 h).2⟩))
  · exact (if_pos (hfresh.2 hf)).trans (if_pos ha)
  · exact (if_neg (mt hfresh.1 hf)).trans (if_neg (by simp [ha]))

/-! ### Snoops, heads and draining -/

theorem snoops_are_answered_and_heads_are_read : Rows.SnoopsAreAnsweredAndHeadsAreRead := by
  refine ⟨fun addr s hreset hup => ?_, fun ring head s g hreach hcan _ => ?_⟩
  · show Host.Outcome.next (opSnoopResponse addr s) = _
    rw [opSnoopResponse, if_pos (by simp [hreset, hup])]
    rfl
  · show Host.Outcome.next (opCplHeadAdvance ring head s) = _
    rw [opCplHeadAdvance, if_pos (by simp [hreach, hcan])]

/-- DISABLE of an ENABLED ring of its claim. -/
theorem disableRing_of_enabled {value : W64} {s : State} {id : RingId} {g : Ring} (ht : ringCmdTarget value = some id)
    (hrange : ringInRange s id = true) (hg : kget s.hl.rings id = some g) (hst : g.st = 1) :
    disableRing value s = { s with hl := { s.hl with
      ringCmdStatus := 0
      rings := if drained id g then kdel s.hl.rings id else kset s.hl.rings id { g with st := 2, ahead := none } } } := by
  by_cases hd : drained id g = true
  · simp [disableRing, ht, hrange, hg, hst, hd, setRingCode]
  · simp [disableRing, ht, hrange, hg, hst, hd, setRingCode, modRing, kmod_of _ hg]

theorem rings_drain_before_they_are_disabled : Rows.RingsDrainBeforeTheyAreDisabled := by
  constructor
  · intro value s id g hreach hact ht hrange hg hst s1
    have hs1 : ringInRange s1 id = true := hrange
    show Host.Outcome.next (opRingDisable value s) = _
    rw [opRingDisable, if_pos (by simp [hreach, hact]), ringCmd, disableRing_of_enabled ht hs1 hg hst]
    rfl
  · intro ring cpl s g halive hg hst hd
    show Host.Outcome.next (opRingDrainComplete ring cpl s) = _
    simp [opRingDrainComplete, hg, halive, hst, hd]

/-- Settles O10: row by row. -/
theorem ringsAreEnabledWatchedAndDrained : Obligations.RingsAreEnabledWatchedAndDrained :=
  ⟨ringEnable_checks_the_rcb, watch_takes_a_new_line_or_marks_it_spurious, snoops_are_answered_and_heads_are_read,
    rings_drain_before_they_are_disabled⟩

end Sys2Proof.Machine
end

section
/-! PROOF. The end of a request: its stream's END record (R64, R82, R83), its release (R97) and its completion record (R84, R96). -/

namespace Sys2Proof.Machine

/-! ### The stream -/

theorem linkUp_of_reach {s : State} (h : reach s = true) : linkUp s = true := (Bool.and_eq_true_iff.1 h).2
theorem pumpStream_of_no_stream {s : State} {n : Nat} {r : Req} (hr : reqOf s n = some r) (h : r.hasStream = false) :
    pumpStream s n = s := by
  simp [pumpStream, hr, h]

theorem passRecords_of_none_held (fuel : Nat) {s : State} {n : Nat} {r : Req} (hr : reqOf s n = some r) (h : r.stream.held = []) :
    passRecords fuel s n = s := by
  cases fuel <;> simp [passRecords, hr, h]

/-- With no TEXT record held, the END record alone may go. -/
theorem pumpStream_of_none_held {s : State} {n : Nat} {r : Req} (hr : reqOf s n = some r) (hs : r.hasStream = true)
    (hup : linkUp s = true) (h : r.stream.held = []) :
    pumpStream s n =
      if r.stream.endSt = 1 ∧ streamGoes s r = true then
        let s2 := modReq (writeStream s n r 2 0 r.out.tokensOut []) n (fun r => { r with stream := { r.stream with endSt := 2 } })
        { s2 with haul := { s2.haul with streams := kdel s2.haul.streams n } }
      else s := by
  simp [pumpStream, hr, hs, hup, passRecords_of_none_held _ hr h, h]

theorem streamHead_lets_a_due_end_record_out : Rows.StreamHeadLetsADueEndRecordOut := by
  intro slot head s r hreach hr hs hheld n r1 s1 s2
  have hexec : exec (.streamHeadAdvance slot head) s = .next (pumpStream s1 n) := by
    show Host.Outcome.next (opStreamHeadAdvance slot head s) = _
    rw [opStreamHeadAdvance, if_pos hreach, modReq_of (s := hlGot s 1 1) _ hr, if_pos hs]
    rfl
  have hr1 : reqOf s1 n = some r1 := reqOf_setSlot_self ..
  have hpump := pumpStream_of_none_held hr1 hs (linkUp_of_reach hreach) hheld
  rw [hexec, hpump]
  exact ⟨fun hno => by rw [if_neg hno], fun hend hgo => by rw [if_pos ⟨hend, hgo⟩]⟩

/-! ### The release -/

theorem exec_retireRelease_of {slot : BitVec 16} {s : State} {r : Req} (halive : alive s = true)
    (hr : reqOf s slot.toNat = some r) (hc : r.commit.isSome = true) (hrel : r.released = false) :
    exec (.retireRelease slot) s = .next (if inEngines s slot.toNat = false
      then settlePages (pumpStream (modReq (releaseReq s slot.toNat r) slot.toNat
        (fun r => { r with stream := { r.stream with endSt := if r.hasStream then 1 else 0 } })) slot.toNat)
      else s) := by
  show Host.Outcome.next (opRetireRelease slot s) = _
  simp [opRetireRelease, hr, halive, hc, hrel]

/-- What is left of a request without prefix, adapter and stream: its slot, marked released, and the Cage and Adit without its
pages and what peers sent for it. -/
theorem releaseReq_of_plain {s : State} {n : Nat} {r : Req} (hr : reqOf s n = some r) (hp : r.bind.pfx = none)
    (ha : r.bind.adapter = none) :
    releaseReq s n r = setSlot { dropPages s (ofObj r.claim 1 n) with
        adit := { s.adit with fetched := s.adit.fetched.filter (fun x => x.1.1 != n) } } n
      { slotOf s n with occ := some { r with
          released := true, steps := r.steps.map (fun x => { x with staging := none, bytes := 0 })
          gen := { r.gen with granted := false, resv := 0 } } } := by
  unfold releaseReq
  simp only [hp, ha]
  exact modReq_of (s := { dropPages s (ofObj r.claim 1 n) with
    adit := { s.adit with fetched := s.adit.fetched.filter (fun x => x.1.1 != n) } }) _ hr

theorem retire_releases_what_a_request_holds : Rows.RetireReleasesWhatARequestHolds := by
  intro slot s r halive hr hc hrel n
  rw [exec_retireRelease_of halive hr hc hrel]
  refine ⟨fun hidle => by rw [if_pos hidle], fun hbusy => by rw [if_neg (by simp [n] at hbusy; simp [hbusy])],
    fun hidle hp ha hs => ⟨modReq (releaseReq s n r) n
      (fun r => { r with stream := { r.stream with endSt := if r.hasStream then 1 else 0 } }), ?_⟩⟩
  let rel : Req := { r with
    released := true, steps := r.steps.map (fun x => { x with staging := none, bytes := 0 })
    gen := { r.gen with granted := false, resv := 0 } }
  have hrelease := releaseReq_of_plain hr hp ha
  have hrel : reqOf (releaseReq s n r) n = some rel := by rw [hrelease]; exact reqOf_setSlot_self ..
  have hend := modReq_of (fun r => { r with stream := { r.stream with endSt := if r.hasStream then 1 else 0 } }) hrel
  rw [if_pos hidle, hend, hrelease, slotOf_setSlot_self, setSlot_setSlot _ _ _ _ rfl, if_neg (by exact Bool.eq_false_iff.1 hs)]
  refine ⟨?_, ?_, fun j hj => slotOf_setSlot_ne _ _ hj, ?_⟩
  · rw [pumpStream_of_no_stream (reqOf_setSlot_self ..) (by exact hs)]
  · exact reqOf_setSlot_self ..
  · rfl

/-! ### The completion record -/

/-- Where no arm is of the slot, no arm ends with it. -/
theorem endArms_of_none {t : State} {n : Nat} (h : ∀ a ∈ t.watch.arms, a.slot ≠ n) :
    (let mine := fun (a : Arm) => a.slot == n && a.fired.isNone
     let s4 := (t.watch.arms.filter mine).foldl (fun s a => done s a.o 1 0) t
     { s4 with watch := { s4.watch with arms := s4.watch.arms.filter (fun a => !mine a) } }) = t := by
  have hmine : t.watch.arms.filter (fun a => a.slot == n && a.fired.isNone) = [] :=
    List.filter_eq_nil_iff.2 fun a ha => by simp [h a ha]
  have hrest : t.watch.arms.filter (fun a => !(a.slot == n && a.fired.isNone)) = t.watch.arms :=
    List.filter_eq_self.2 fun a ha => by simp [h a ha]
  simp only [hmine, List.foldl_nil, hrest]

theorem completion_frees_the_slot_with_a_new_generation : Rows.CompletionFreesTheSlotWithANewGeneration := by
  intro slot s r st hreach hr hc hrel hend htail harms
  show Host.Outcome.next (opCompletionRecordWrite slot s) = _
  have hover : (reach s && r.released && (!r.hasStream || r.stream.endSt == 2)) = true := by
    cases hs : r.hasStream <;> simp [hreach, hrel, hend, hs]
  simp only [opCompletionRecordWrite, hr, hc, hover, if_true, htail, List.foldl_nil]
  exact congrArg Host.Outcome.next (endArms_of_none (by simpa using harms))

/-- Settles O11: row by row. -/
theorem requestsEndStreamReleaseAndFree : Obligations.RequestsEndStreamReleaseAndFree :=
  ⟨streamHead_lets_a_due_end_record_out, retire_releases_what_a_request_holds, completion_frees_the_slot_with_a_new_generation⟩

end Sys2Proof.Machine
end

section
/-! PROOF. Commands that name a request by its handle, ABORT (R106) and WATCH_ARM (R444), and opcodes of no command (R77, R88, R479). -/

namespace Sys2Proof.Machine

/-! ### What the end of a request's work leaves as it was -/

/-- `t` differs from `s` in none of Hoistlink, companion memory, claims, Face, what the block has answered, and slots. -/
def SameFace (s t : State) : Prop :=
  t.hl = s.hl ∧ t.host = s.host ∧ t.claims = s.claims ∧ t.face = s.face ∧ t.out = s.out ∧ t.slots = s.slots

theorem SameFace.refl (s : State) : SameFace s s := ⟨rfl, rfl, rfl, rfl, rfl, rfl⟩

theorem SameFace.trans {s t u : State} (h : SameFace s t) (g : SameFace t u) : SameFace s u := by
  obtain ⟨h1, h2, h3, h4, h5, h6⟩ := h
  obtain ⟨g1, g2, g3, g4, g5, g6⟩ := g
  exact ⟨g1.trans h1, g2.trans h2, g3.trans h3, g4.trans h4, g5.trans h5, g6.trans h6⟩

theorem SameFace.foldl {α : Type} {f : State → α → State} (hf : ∀ s a, SameFace s (f s a)) (l : List α) (s : State) :
    SameFace s (l.foldl f s) := by
  induction l generalizing s with
  | nil => exact .refl s
  | cons a l ih => exact (hf s a).trans (ih _)

theorem sendMsg_sameFace (s : State) (c peer cls handle home step tenant object : Nat) (payload : List Byte) :
    SameFace s (sendMsg s c peer cls handle home step tenant object payload) := by
  unfold sendMsg
  simp only []
  split <;> exact ⟨rfl, rfl, rfl, rfl, rfl, rfl⟩

theorem cancelPeers_sameFace (s : State) (n : Nat) (r : Req) : SameFace s (cancelPeers s n r) :=
  (SameFace.foldl (fun s _ => sendMsg_sameFace s ..) _ s).trans ⟨rfl, rfl, rfl, rfl, rfl, rfl⟩

theorem gateReturn_sameFace (s : State) (u : UnitId) (k : Nat) : SameFace s (gateReturn s u k) := by
  unfold gateReturn
  simp only []
  split <;> exact ⟨rfl, rfl, rfl, rfl, rfl, rfl⟩

theorem dropQueued_sameFace (s : State) (n : Nat) : SameFace s (dropQueued s n) :=
  (SameFace.foldl (fun s _ => gateReturn_sameFace s ..) s.haul.rosters s).trans ⟨rfl, rfl, rfl, rfl, rfl, rfl⟩

theorem admitStrand_sameFace (s : State) (e : Nat) : SameFace s (admitStrand s e) := by
  unfold admitStrand
  split
  · exact .refl s
  · split <;> exact ⟨rfl, rfl, rfl, rfl, rfl, rfl⟩

theorem dropWaits_sameFace (s : State) (n : Nat) : SameFace s (dropWaits s n) := ⟨rfl, rfl, rfl, rfl, rfl, rfl⟩

theorem dropBatches_sameFace (s : State) (n : Nat) : SameFace s (dropBatches s n) := ⟨rfl, rfl, rfl, rfl, rfl, rfl⟩

theorem dropSearches_sameFace (s : State) (n : Nat) : SameFace s (dropSearches s n) :=
  SameFace.trans ⟨rfl, rfl, rfl, rfl, rfl, rfl⟩ (SameFace.foldl admitStrand_sameFace _ _)

/-- The commit of a running request: its slot, and nothing else that `SameFace` speaks of. -/
theorem commitReq_sameFace {s : State} {n : Nat} {r : Req} (hr : running s n = some r) (status detail : Nat) :
    SameFace (modReq s n (fun r => { r with
      commit := some (if status = 0 && r.out.short then 1 else status)
      out := { r.out with detail := if detail = 0 then r.out.detail else detail } })) (commitReq s n status detail) := by
  have hreq : reqOf s n = some r := (Option.filter_eq_some_iff.1 hr).1
  unfold commitReq
  simp only [hr, modReq_of _ hreq]
  exact (cancelPeers_sameFace _ n r).trans ((dropWaits_sameFace _ n).trans ((dropBatches_sameFace _ n).trans
    ((dropQueued_sameFace _ n).trans (dropSearches_sameFace _ n))))

theorem SameFace.slotOf_eq {s t : State} (h : SameFace s t) (n : Nat) : slotOf t n = slotOf s n := by
  unfold slotOf; rw [h.2.2.2.2.2]

theorem running_of {s : State} {n : Nat} {r : Req} (hr : reqOf s n = some r) (hc : r.commit = none) : running s n = some r := by
  simp [running, hr, hc]

/-- The slots after a commit. -/
theorem slotOf_commitReq_self {s : State} {n : Nat} {r : Req} (hr : reqOf s n = some r) (hc : r.commit = none) (status detail : Nat) :
    slotOf (commitReq s n status detail) n = { slotOf s n with occ := some { r with
      commit := some (if status = 0 && r.out.short then 1 else status)
      out := { r.out with detail := if detail = 0 then r.out.detail else detail } } } := by
  rw [(commitReq_sameFace (running_of hr hc) status detail).slotOf_eq, modReq_of _ hr, slotOf_setSlot_self]

theorem slotOf_commitReq_ne {s : State} {n j : Nat} {r : Req} (hr : reqOf s n = some r) (hc : r.commit = none) (status detail : Nat)
    (hj : j ≠ n) : slotOf (commitReq s n status detail) j = slotOf s j := by
  rw [(commitReq_sameFace (running_of hr hc) status detail).slotOf_eq, modReq_of _ hr, slotOf_setSlot_ne _ _ hj]

/-! ### ABORT -/

theorem reqOf_of_targetOf {s : State} {c h n : Nat} {r : Req} (ht : targetOf s c h = some (n, r)) : reqOf s n = some r := by
  unfold targetOf at ht
  simp only at ht
  split at ht
  · simp only [Option.map_eq_some_iff, Option.filter_eq_some_iff, Prod.mk.injEq] at ht
    obtain ⟨_, ⟨hr, _⟩, rfl, rfl⟩ := ht
    exact hr
  · cases ht

/-- An ABORT that passes the checks of its line, by what its handle names. -/
theorem exec_abort_of {s s1 : State} {d : Desc} {o : Origin} (h : LineTaken s d 2 o s1) (hz : commonZero d.line = true)
    (hz' : zeroAt d.line 16 112 = true) (ht : tenantOk s1 d.claim o.tenant = true) (hq : o.req ≠ 0xFFFFFFFF) :
    exec (.abort d) s = .next (match targetOf s1 o.claim o.req with
      | none => done s1 o 0x0D 0
      | some (n, r) =>
        if r.tenant != o.tenant then bad s1 o 0x17
        else if r.commit.isNone then afterReq (commitReq s1 n 0x02 0) n { o := o, status := 0 }
        else afterReq s1 n { o := o, status := 0x0D }) := by
  refine congrArg Host.Outcome.next ((claimDesc_taken h rfl (by decide) (by decide) (.inr rfl) hz hz' ht).trans ?_)
  exact if_neg hq

theorem abort_commits_a_running_request : Rows.AbortCommitsARunningRequest := by
  intro d s o s1 h hz hz' ht hq
  rw [exec_abort_of h hz hz' ht hq]
  refine ⟨fun n r htar hten hc => ?_, fun n r htar hten hc => ?_, fun htar => by rw [htar]⟩
  · have hr := reqOf_of_targetOf htar
    have hcommit := slotOf_commitReq_self hr hc 2 0
    have hreq : reqOf (commitReq s1 n 2 0) n = some { r with commit := some 2 } := by
      unfold reqOf; rw [hcommit]; rfl
    have hsame := commitReq_sameFace (running_of hr hc) 2 0
    rw [modReq_of _ hr] at hsame
    obtain ⟨hhl, hhost, hclaims, hface, hout, -⟩ := hsame
    refine ⟨afterReq (commitReq s1 n 2 0) n { o := o, status := 0 }, by simp [htar, hten, hc], ?_, fun j hj => ?_, ?_, ?_⟩
    · exact reqOf_modReq _ hreq
    · rw [afterReq, modReq_of _ hreq, slotOf_setSlot_ne _ _ hj, slotOf_commitReq_ne hr hc 2 0 hj]
    · rw [afterReq, modReq_of _ hreq, slotOf_setSlot_self, hcommit]
    · simp [afterReq, hhl, hhost, hclaims, hface, hout]
  · have hr := reqOf_of_targetOf htar
    have hnone : r.commit.isNone = false := by rw [← Option.not_isSome, hc]; rfl
    simp only [htar, hten, bne_self_eq_false, hnone, Bool.false_eq_true, if_false]
    rw [afterReq, modReq_of _ hr, ← hten]

/-! ### WATCH_ARM -/

theorem watchArm_is_added : Rows.WatchArmIsAdded := by
  intro d s o s1 n r ws w h hz hz' hq htar hten hc hws hw hrec hstep hbytes harms hmine
  refine congrArg Host.Outcome.next ((claimDesc_of h rfl (by decide) (by decide) (by simp [hz, hz'])).trans ?_)
  have hname : ((cfgOf s1 o.claim).bind (·.watch)).bind (fun w => w.sec[fld d.line 16 2]?) = some w := by
    obtain ⟨sec, hsec, rfl⟩ := Option.map_eq_some_iff.1 hws
    simp [hsec, hw]
  have hb : ¬ fld d.line 32 4 < 64 := by omega
  have ha : ¬ 64 ≤ (s1.watch.arms.filter (fun a => a.claim == o.claim)).length := by omega
  have hm : ¬ 4 ≤ (s1.watch.arms.filter (armOf s1 n)).length := by omega
  simp only [hq, if_false, htar, hten, bne_self_eq_false, Bool.false_eq_true, hc, Option.isSome_none, hname, hrec, hstep, Bool.not_true,
    Bool.or_self, hb, ha, hm, decide_false]

/-! ### Opcodes of no command -/

theorem claimHead_of_wrong_kind {s s1 : State} {d : Desc} {op : Nat} {o : Origin} {codes : Nat → Bool} {ends : Bool}
    {body : State → Origin → List Byte → State} (h : LineTaken s d op o s1) (hc : codes op = true) (hk : op = 0 ∨ 0x80 ≤ op) :
    claimHead s d codes ends body = bad s1 o 0x02 := by
  obtain ⟨ha, hr, hl, hn, hp, hb, hv, hq, ht⟩ := h
  have hop : o.opcode = op := (takeLine_opcode ht).trans hb
  simp [claimHead, ha, hr, hl, hn, hp, hb, hv, hq, hc, ht, hop, hk]

theorem reserved_opcodes_are_refused : Rows.ReservedOpcodesAreRefused := by
  refine ⟨fun d s o s1 op h hst => ⟨fun hlo hhi => ?_, fun hk => ?_⟩, fun m s o s1 ha hn hp hop hv ht => ?_⟩
  · show Host.Outcome.next (opReservedOpcode d s) = _
    rw [opReservedOpcode, claimDesc, claimHead_of h (by simp [hlo]) (by omega) hhi (.inl (by omega))]
    by_cases hz : commonZero d.line = true <;> by_cases hten : tenantOk s1 d.claim o.tenant = true <;> simp [hz, hten]
  · show Host.Outcome.next (opReservedOpcode d s) = _
    rw [opReservedOpcode, claimDesc, claimHead_of_wrong_kind h (by simp; omega) hk]
  · have hcode : o.opcode < 0x80 := takeLine_opcode ht ▸ hop
    show Host.Outcome.next (opReservedMgmtOpcode m s) = _
    simp [opReservedMgmtOpcode, mgmtDesc, ha, hn, hp, hop, hv, ht, hcode]

/-- Settles O12: row by row. -/
theorem requestsAreNamedByTheirHandle : Obligations.RequestsAreNamedByTheirHandle :=
  ⟨abort_commits_a_running_request, watchArm_is_added, reserved_opcodes_are_refused⟩

end Sys2Proof.Machine
end

section
/-! PROOF. The admission of requests: RUN_RECIPE (R90, R99 to R101), SEARCH_ONLY and FLAT_SCAN (R91, R148). -/

namespace Sys2Proof.Machine

theorem exec_runRecipe_of {s s1 : State} {d : Desc} {o : Origin} (h : LineAccepted s d 1 o s1) (hz : runRecipeZero d.line = true) :
    exec (.runRecipe d) s = .next (runRecipeBody s1 o d.line) :=
  congrArg Host.Outcome.next (claimDesc_of h rfl (by decide) (by decide) hz)

theorem runRecipe_admits_a_request : Rows.RunRecipeAdmitsARequest := by
  intro d s o s1 s2 g q h hz href hg hq hf hpfx hrank hdebit steps
  rw [exec_runRecipe_of h hz]
  cases hgen : q.genModel.bind (modelOf s1 o.claim) with
  | none => simp [runRecipeBody, href, hg, hq, hf, hpfx, hgen, hdebit, steps]
  | some m => simp [runRecipeBody, href, hg, hq, hf, hpfx, hgen, hrank m hgen, hdebit, steps]

theorem runRecipe_is_refused_by_status : Rows.RunRecipeIsRefusedByStatus := by
  intro d s o s1 h hz
  rw [exec_runRecipe_of h hz]
  refine ⟨fun hout => ?_, fun hin hocc => ?_, fun hin hocc hgen => ?_⟩
  · simp [runRecipeBody, slotRefusal, hout]
  · simp [runRecipeBody, slotRefusal, hin, hocc]
  · simp [runRecipeBody, slotRefusal, hin, hocc, hgen]

/-- Settles O13: the body of RUN_RECIPE by its checks. -/
theorem recipesAreAdmittedOrRefused : Obligations.RecipesAreAdmittedOrRefused :=
  ⟨runRecipe_admits_a_request, runRecipe_is_refused_by_status⟩

/-- A search request that passes step 4 of R99, without a label and with a finite query. -/
theorem searchBody_of_finite {s : State} {o : Origin} {l query : List Byte} {p : PitSec} (op : Nat) (href : slotRefusal s o = none)
    (hp : pitSecOf s o.claim (fld l 16 2) = some p) (hk0 : 0 < fld l 18 2) (hk : fld l 18 2 ≤ 1024) (hl : fld l 32 4 = 0xFFFFFFFF)
    (hq : (queryValues p.dim query).2 = false) :
    searchBody op query s o l = admitReq s
      { claim := o.claim, tenant := o.tenant, opcode := op, origin := o
        desc := { label := none, resultAddr := fld l 40 8, resultBytes := fld l 48 4, filterBudget := fld l 36 4
                  k := fld l 18 2, beam := fld l 20 2 }
        bind := { pit := some (fld l 16 2), epoch := (pitOf s o.claim (fld l 16 2)).live.p }
        steps := [{ vec := (queryValues p.dim query).1 }, {}] } (o.req % 65536) := by
  have hk0' : ¬ fld l 18 2 = 0 := by omega
  have hk' : ¬ fld l 18 2 > 1024 := by omega
  have hlabel : labelFieldOk (some p) (fld l 32 4) = true := by simp [labelFieldOk, hl]
  have hnone : labelField (fld l 32 4) = none := by simp [labelField, hl]
  simp only [searchBody, href, hp, hk0', hk', hlabel, hnone, hq, decide_false, Bool.not_true, Bool.or_self, Bool.false_eq_true, if_false]

/-- Settles O14: the two rows share their body. -/
theorem searchRequestsAreAdmitted : Obligations.SearchRequestsAreAdmitted := by
  intro d query s o s1 p href hp hk0 hk hl hq r
  refine ⟨fun h hz hz' => ?_, fun h hz hz' => ?_⟩ <;>
    exact congrArg Host.Outcome.next ((claimDesc_of h rfl (by decide) (by decide) (by simp [hz, hz'])).trans
      (searchBody_of_finite _ href hp hk0 hk hl hq))

end Sys2Proof.Machine
end

section
/-! PROOF. Prefixes (R219 to R225) and adapter versions (R253 to R256): created or published, built or loaded, released or withdrawn. -/

namespace Sys2Proof.Machine

/-! ### Prefixes -/

theorem prefixCreate_registers_a_prefix : Rows.PrefixCreateRegistersAPrefix := by
  intro d tokens s o s1 m h hq hz hz' htpl hm hkind hrank ts hd ks hts hlen hvocab hheld hall hroom
  refine congrArg Host.Outcome.next ((plainCommand_of h hq (by decide) (by decide) (by simp [hz, hz'])).trans ?_)
  have htokens : (ts.isEmpty || decide (1048576 < ts.length) || ts.any (fun t => decide (vocabSize s1 o.claim m.vocab ≤ t))) = false := by
    simpa [hlen] using ⟨hts, hvocab⟩
  have hfits : (decide (512 * ownOf s1 o.claim (·.slotBlocks) ≤ (s1.face.prefixes.filter (fun p => p.2.claim == o.claim)).length)
      || decide (32768 ≤ s1.face.prefixes.length) || decide (prefixRoom s1 o.claim < ks.length)) = false := by
    simpa using ⟨⟨hheld, hall⟩, hroom⟩
  simp only [hm, hkind, htpl, Option.filter_some, beq_self_eq_true, if_true, bne_self_eq_false, Bool.false_and, Bool.false_or,
    createAdapter, hrank]
  exact (if_neg (Bool.eq_false_iff.1 htokens)).trans (if_neg (Bool.eq_false_iff.1 hfits))

theorem prefixes_are_built_and_released : Rows.PrefixesAreBuiltAndReleased := by
  constructor
  · intro handle kv s x m ad ts h halive hx hbody c own looks uses
    constructor
    · intro hready hquar hlooks hgiven huses hown s2 s3 s4
      refine congrArg Host.Outcome.next ?_
      have hbad : ((prefixModels s c m).map (·.1)).any (fun mi => kgetD s.face.models (c, mi) 0 == 3) = false := by
        simp only [List.any_map, List.any_eq_false]
        exact fun g hg => by simp [hready g hg]
      have hall : ((prefixModels s c m).map (·.1)).all (fun mi => kgetD s.face.models (c, mi) 0 == 2) = true := by
        simp only [List.all_map, List.all_eq_true]
        exact fun g hg => by simp [hready g hg]
      have hsound : uses.any (isQuarantined s) = false := List.any_eq_false.2 fun k hk => by simp [hquar k hk]
      have hthere : (uses.all (isResident s) && own.all (isResident s)) = true :=
        Bool.and_eq_true_iff.2 ⟨List.all_eq_true.2 huses, List.all_eq_true.2 hown⟩
      have hgo : (((prefixModels s c m).map (·.1)).all (fun mi => kgetD s.face.models (c, mi) 0 == 2) && looksReady s c looks
          && prefixGiven s c m ts.length kv) = true := by simp only [hall, hlooks, hgiven, Bool.and_self]
      show opPrefixPrefillDone handle kv s = _
      unfold opPrefixPrefillDone
      simp only [hx, hbody, halive, Bool.not_true, Bool.false_eq_true, if_false]
      refine (if_neg (Bool.eq_false_iff.1 hbad)).trans ((if_neg (Bool.eq_false_iff.1 hsound)).trans
        ((if_neg (by rw [Bool.not_eq_true', Bool.not_eq_false]; exact hgo)).trans (if_neg ?_)))
      rw [Bool.not_eq_true', Bool.not_eq_false]
      exact hthere
    · rintro ⟨g, hg, hbad⟩
      refine congrArg Host.Outcome.next ?_
      have hany : ((prefixModels s c m).map (·.1)).any (fun mi => kgetD s.face.models (c, mi) 0 == 3) = true := by
        simp only [List.any_map, List.any_eq_true]
        exact ⟨g, hg, by simp [hbad]⟩
      show opPrefixPrefillDone handle kv s = _
      unfold opPrefixPrefillDone
      simp only [hx, hbody, halive, Bool.not_true, Bool.false_eq_true, if_false]
      exact if_pos hany
  · intro d s o s1 h hq hz k
    refine ⟨fun hsome => congrArg Host.Outcome.next ((plainCommand_of h hq (by decide) (by decide) (by exact hz)).trans ?_),
      fun hnone => congrArg Host.Outcome.next ((plainCommand_of h hq (by decide) (by decide) (by exact hz)).trans ?_)⟩
    · obtain ⟨p, hp⟩ := Option.isSome_iff_exists.1 hsome
      simp only [show prefixOf s1 o.claim o.tenant (fld d.line 16 8) = some p from hp]
      rfl
    · simp only [show prefixOf s1 o.claim o.tenant (fld d.line 16 8) = none from hnone]

/-- Settles O15: row by row. -/
theorem prefixesAreCreatedBuiltAndReleased : Obligations.PrefixesAreCreatedBuiltAndReleased :=
  ⟨prefixCreate_registers_a_prefix, prefixes_are_built_and_released⟩

/-! ### Adapter versions -/

theorem adapterPublish_queues_the_image : Rows.AdapterPublishQueuesTheImage := by
  intro d header s o s1 m i h hq hz hm hkind hr0 hrank hhead first n a v s2 hslot hroom
  refine congrArg Host.Outcome.next ((plainCommand_of h hq (by decide) (by decide) (by exact hz)).trans ?_)
  have hr : ¬ m.adapterMaxRank < byteAt d.line 33 := by omega
  have hfits : ¬ poolPages s1 o.claim 3 - fencedFrames s1 o.claim 3 < n := by omega
  simp only [hm, Option.filter_some, hkind, beq_self_eq_true, if_true, hr0, hr, hhead, decide_false, Bool.not_true, Bool.or_self,
    Bool.false_eq_true, if_false]
  simp only [show (List.range (ownOf s1 o.claim (·.adapterCount))).find? (fun i =>
    (kgetD s1.face.adapters (ownOf s1 o.claim (·.adapterFirst) + i) {}).ver.isNone) = some i from hslot]
  exact if_neg hfits

theorem adapterVersions_become_current_and_are_withdrawn : Rows.AdapterVersionsBecomeCurrentAndAreWithdrawn := by
  constructor
  · intro handle image s x v h hx hv hup hlen hres ks s0 s1
    refine congrArg Host.Outcome.next ?_
    have hthere : (dataUp s v.claim && ks.all (isResident s) && image.length == v.bytes) = true := by
      simp only [hup, hlen, ks, List.all_map, List.all_eq_true, List.mem_range, Function.comp, Bool.and_eq_true, beq_self_eq_true,
        and_true, true_and]
      exact fun j hj => hres j hj
    show opAdapterLoadDone handle image s = _
    unfold opAdapterLoadDone
    simp only [show s.cmds.find? (·.publishes s handle.toNat) = some x from hx, show adapterOf s handle.toNat = some v from hv]
    exact if_pos hthere
  · intro d s o s1 v hacc hq hz h hv hclaim htenant hload s2
    have hfound : (adapterOf s1 h).filter (fun v => v.claim == o.claim && v.tenant == o.tenant && !s1.cmds.any (·.publishes s1 h))
        = some v := by simp [hv, hclaim, htenant, hload]
    refine ⟨fun hmode => congrArg Host.Outcome.next ((plainCommand_of hacc hq (by decide) (by decide) (by exact hz)).trans ?_),
      fun hmode => congrArg Host.Outcome.next ((plainCommand_of hacc hq (by decide) (by decide) (by exact hz)).trans ?_)⟩
    all_goals
      simp only [show (adapterOf s1 (fld d.line 16 4)).filter (fun v => v.claim == o.claim && v.tenant == o.tenant
        && !s1.cmds.any (·.publishes s1 (fld d.line 16 4))) = some v from hfound, hmode]
      rfl

/-- Settles O16: row by row. -/
theorem adaptersArePublishedAndWithdrawn : Obligations.AdaptersArePublishedAndWithdrawn :=
  ⟨adapterPublish_queues_the_image, adapterVersions_become_current_and_are_withdrawn⟩

end Sys2Proof.Machine
end

section
/-! PROOF. The commands of a pit (R167, R168, R172, R178, R179) and of a ledger (R189, R202, R204): taken, begun where nothing waits,
and the two events that complete a publish and a swap. -/

namespace Sys2Proof.Machine

/-! ### A command taken with none waiting -/

/-- A command of a pit or ledger that is alone, not fenced and within reach of what it reads begins. -/
theorem runCmds_of_alone {s : State} {x : Cmd} (hs : s.cmds = [x]) (hb : x.begun = false) (hobj : (cmdObject x.body).isSome = true)
    (hfence : cmdFence s x = none) (hreach : cmdReach s x = true) : runCmds s = settleCmds 3 (beginCmd s x) := by
  have hfirst : cmdFirst s x = true := by simp [cmdFirst, hs, hobj]
  simp [runCmds, hs, settleCmds, hb, hobj, hfence, hreach, hfirst]

theorem addCmd_of_none {s : State} {o : Origin} {b : CmdBody} {n : Nat} (hs : s.cmds = []) (hobj : (cmdObject b).isSome = true)
    (hfence : cmdFence { s with cmds := [{ o := o, body := b, begun := false, needs := [], count := 0, total := n }] }
      { o := o, body := b, begun := false, needs := [], count := 0, total := n } = none)
    (hreach : cmdReach { s with cmds := [{ o := o, body := b, begun := false, needs := [], count := 0, total := n }] }
      { o := o, body := b, begun := false, needs := [], count := 0, total := n } = true) :
    addCmd s o b n = settleCmds 3 (beginCmd { s with cmds := [{ o := o, body := b, begun := false, needs := [], count := 0, total := n }] }
      { o := o, body := b, begun := false, needs := [], count := 0, total := n }) := by
  unfold addCmd
  rw [hs]
  exact runCmds_of_alone rfl rfl hobj hfence hreach

/-! ### Pits -/

theorem pitCommands_are_taken_and_begin : Rows.PitCommandsAreTakenAndBegin := by
  intro d items s o s1 hq hpit pit addr n x
  have hsome : (pitSecOf s1 o.claim (fld d.line 16 2)).isNone = false := by rw [← Option.not_isSome, hpit]; rfl
  refine ⟨fun h hz hz' h0 hn => ?_, fun h hz hz' h0 hn => ?_, fun h hz => ?_⟩
  · have hn0 : ¬ fld d.line 32 4 = 0 := by omega
    have hn1 : ¬ fld d.line 32 4 > 65536 := by omega
    have hexec : exec (.pitInsert d items) s = .next (addCmd s1 o (.pitInsert pit addr items) n) := by
      refine congrArg Host.Outcome.next ((plainCommand_of h hq (by decide) (by decide) (by simp [hz, hz'])).trans ?_)
      simp only [hsome, hn0, hn1, decide_false, Bool.or_self, Bool.false_eq_true, if_false]
      rfl
    refine ⟨hexec, fun hnone hup hf => hexec.trans (congrArg Host.Outcome.next ?_)⟩
    exact addCmd_of_none hnone rfl hf hup
  · have hn0 : ¬ fld d.line 32 4 = 0 := by omega
    have hn1 : ¬ fld d.line 32 4 > 65536 := by omega
    have hexec : exec (.pitDelete d items) s = .next (addCmd s1 o (.pitDelete pit addr items) n) := by
      refine congrArg Host.Outcome.next ((plainCommand_of h hq (by decide) (by decide) (by simp [hz, hz'])).trans ?_)
      simp only [hsome, hn0, hn1, decide_false, Bool.or_self, Bool.false_eq_true, if_false]
      rfl
    refine ⟨hexec, fun hnone hup hf => hexec.trans (congrArg Host.Outcome.next ?_)⟩
    exact addCmd_of_none hnone rfl hf hup
  · have hexec : exec (.pitPublish d) s = .next (addCmd s1 o (.pitPublish pit) 0) := by
      refine congrArg Host.Outcome.next ((plainCommand_of h hq (by decide) (by decide) (by exact hz)).trans ?_)
      simp only [hsome, Bool.false_eq_true, if_false]
      rfl
    refine ⟨hexec, fun hnone hf => hexec.trans (congrArg Host.Outcome.next ?_)⟩
    exact addCmd_of_none hnone rfl hf rfl

@[simp] theorem pitOf_modPit_self (s : State) (c p : Nat) (f : PitStore → PitStore) : pitOf (modPit s c p f) c p = f (pitOf s c p) := by
  simp [pitOf, modPit, kgetD]

theorem epochRecord_advances_p : Rows.EpochRecordAdvancesP := by
  intro claim pit s x halive hx p s1
  refine ⟨?_, ?_, ?_⟩
  · show Host.Outcome.next (opEpochRecordDurable claim pit s) = _
    simp only [opEpochRecordDurable, hx, halive, Bool.not_true, Bool.false_eq_true, if_false]
    rfl
  · rw [pitOf_modPit_self]; rfl
  · rw [pitOf_modPit_self]; rfl

/-- Settles O17: row by row. -/
theorem pitCommandsBeginAndPublish : Obligations.PitCommandsBeginAndPublish :=
  ⟨pitCommands_are_taken_and_begin, epochRecord_advances_p⟩

/-! ### Ledgers -/

theorem ledgerCommands_are_taken_and_begin : Rows.LedgerCommandsAreTakenAndBegin := by
  intro d bytes s o s1 sec hq hsec l w x
  refine ⟨fun h hz hz' hsc h0 hn => ?_, fun h hz hz' => ?_⟩
  · have hn0 : ¬ fld d.line 32 4 = 0 := by omega
    have hn1 : ¬ fld d.line 32 4 > 65536 := by omega
    have hexec : exec (.ledgerRowWrite d bytes) s = .next (addCmd s1 o w.body w.total) := by
      refine congrArg Host.Outcome.next ((plainCommand_of h hq (by decide) (by decide) (by simp [hz, hz'])).trans ?_)
      simp only [hsec, hsc, hn0, hn1, decide_false, Bool.or_self, Bool.false_eq_true, if_false]
      rfl
    refine ⟨hexec, fun hnone hup hf => hexec.trans (congrArg Host.Outcome.next ?_)⟩
    exact addCmd_of_none hnone rfl hf hup
  · have hexec : exec (.ledgerSwap d bytes) s = .next (addCmd s1 o x.body x.total) := by
      refine congrArg Host.Outcome.next ((plainCommand_of h hq (by decide) (by decide) (by simp [hz, hz'])).trans ?_)
      simp only [hsec, Option.isNone_some, Bool.false_eq_true, if_false]
      rfl
    refine ⟨hexec, fun hnone hup hf => hexec.trans (congrArg Host.Outcome.next ?_)⟩
    exact addCmd_of_none hnone rfl hf hup

theorem ledgerOf_modLedger_self (s : State) (c l : Nat) (f : LedgerStore → LedgerStore) :
    ledgerOf (modLedger s c l f) c l = f (ledgerOf s c l) := by
  simp [ledgerOf, modLedger, kgetD]

theorem swapFlip_makes_the_new_table_active : Rows.SwapFlipMakesTheNewTableActive := by
  intro claim ledger s x table halive hx hbody hst hquiet d s1 die s2
  refine ⟨?_, ?_, ?_⟩
  · show Host.Outcome.next (opLedgerSwapFlip claim ledger s) = _
    simp only [opLedgerSwapFlip, hx, hbody, halive, hst, hquiet, beq_self_eq_true, Bool.and_self, Bool.not_true, Bool.false_eq_true,
      if_false]
    rfl
  · rw [ledgerOf_modLedger_self]
  · rw [ledgerOf_modLedger_self]

/-- Settles O18: row by row. -/
theorem ledgerCommandsBeginAndSwap : Obligations.LedgerCommandsBeginAndSwap :=
  ⟨ledgerCommands_are_taken_and_begin, swapFlip_makes_the_new_table_active⟩

end Sys2Proof.Machine
end

section
/-! PROOF. The Cage commands (R324 to R327) on the pages they name. -/

namespace Sys2Proof.Machine

/-- Settles O19: each row's body, by its checks. -/
theorem cageCommandsActOnTheNamedPages : Obligations.CageCommandsActOnTheNamedPages := by
  intro d s o s1 ks hq hks kind pinned total
  refine ⟨fun h hz => ⟨fun hmode hgood hroom => ?_, fun hmode => ?_⟩, fun h hz hz' hsrc hgood => ?_, fun h hz hfree => ?_⟩
  · refine congrArg Host.Outcome.next ((plainCommand_of h hq (by decide) (by decide) hz).trans ?_)
    have hnone : ks.find? (isQuarantined s1) = none := List.find?_eq_none.2 fun k hk => by simp [hgood k hk]
    simp only [hks, hmode, hnone]
    exact if_neg (Nat.not_lt.2 hroom)
  · intro on
    refine congrArg Host.Outcome.next ((plainCommand_of h hq (by decide) (by decide) hz).trans ?_)
    simp only [hks, hmode]
    rfl
  · refine congrArg Host.Outcome.next ((plainCommand_of h hq (by decide) (by decide) (by simp [hz, hz'])).trans ?_)
    have hnone : ks.find? (isQuarantined s1) = none := List.find?_eq_none.2 fun k hk => by simp [hgood k hk]
    simp only [hks, hsrc, hnone, bne_self_eq_false, Bool.false_and, Bool.false_eq_true, if_false, if_true]
  · intro out
    refine congrArg Host.Outcome.next ((plainCommand_of h hq (by decide) (by decide) hz).trans ?_)
    have hnone : ks.find? (isBusy s1) = none := List.find?_eq_none.2 fun k hk => by simp [hfree k hk]
    simp only [hks, hnone]
    rfl

end Sys2Proof.Machine
end

section
/-! PROOF. Gathering, scattering, the coalescer, the sketch and the bins of ledgers (R194 to R201). -/

namespace Sys2Proof.Machine

/-! ### Batches at a port -/

/-- A batch on a port where nothing is to go, of a ledger that is open, goes on. -/
theorem stepBatch_of_free {s : State} {b : PortBatch}
    (hfree : ∀ x ∈ s.store.batches, ¬ (x.claim = b.claim ∧ x.port = b.port ∧ x.unsent = true)) (hopen : ledgerOpen s b.claim b.ledger = true) :
    stepBatch s b = keepBatch (scatterAll (lookupAll s b b.rows).2.2 b b.pairs).2 { b with
      started := true, rows := (lookupAll s b b.rows).2.1, pairs := (scatterAll (lookupAll s b b.rows).2.2 b b.pairs).1
      got := b.got ++ (lookupAll s b b.rows).1 } := by
  have hnone : s.store.batches.any (fun x => x.claim == b.claim && x.port == b.port && x.unsent) = false := by
    simpa [List.any_eq_false, Bool.and_eq_true, and_assoc] using hfree
  unfold stepBatch
  rw [hnone, hopen, Bool.or_true]
  rfl

/-- A batch that has not started waits behind one that is to go, and while its ledger is not open. -/
theorem stepBatch_of_waits {s : State} {b : PortBatch} (hnew : b.started = false)
    (h : ¬ (∀ x ∈ s.store.batches, ¬ (x.claim = b.claim ∧ x.port = b.port ∧ x.unsent = true)) ∨ ledgerOpen s b.claim b.ledger = false) :
    stepBatch s b = keepBatch s b := by
  have hwait : (s.store.batches.any (fun x => x.claim == b.claim && x.port == b.port && x.unsent)
      || !(b.started || ledgerOpen s b.claim b.ledger)) = true := by
    rcases h with h | h
    · have hany : s.store.batches.any (fun x => x.claim == b.claim && x.port == b.port && x.unsent) = true := by
        simpa [List.any_eq_true, Bool.and_eq_true, and_assoc] using h
      rw [hany, Bool.true_or]
    · rw [hnew, h]; simp
  exact if_pos hwait

/-- A batch of a running claim on its port, for its ledger, of a request of it or of none, is taken. -/
theorem batchOk_of {s : State} {b : PortBatch} {n : Nat} (halive : alive s = true) (hruns : claimRuns s b.claim = true)
    (hport : portOk s b.claim b.port = true) (hled : (ledgerSecOf s b.claim b.ledger).isSome = true)
    (hreq : ∀ k, b.slot = some k → ∃ r, running s k = some r ∧ r.claim = b.claim) (hn : n ≤ 65536) : batchOk s b n = true := by
  unfold batchOk
  cases hslot : b.slot with
  | none => simp [halive, hruns, hport, hled, hn]
  | some k =>
    obtain ⟨r, hr, hc⟩ := hreq k hslot
    simp [halive, hruns, hport, hled, hn, hr, hc]

theorem exec_gatherBatch_of {claim ledger port : Nat} {slot : Option (BitVec 16)} {rows : List Nat} {s : State} {b : PortBatch}
    (hb : b = { claim := claim, ledger := ledger, port := port, slot := slot.map (·.toNat), rows := rows, pairs := [] })
    (hok : batchOk s b rows.length = true) : exec (.gatherBatch claim ledger port ⟨slot, rows⟩) s = .next (stepBatch s b) := by
  subst hb
  exact congrArg Host.Outcome.next (if_pos hok)

/-- A batch of pairs is one of a ledger that takes them: it goes to its port, or all of it is dropped. -/
theorem exec_scatterBatch_of {claim ledger port : Nat} {pairs : List (Nat × List Byte)} {s : State} (hne : pairs ≠ [])
    (hok : batchOk s { claim := claim, ledger := ledger, port := port, rows := [], pairs := pairs } pairs.length = true) :
    exec (.scatterBatch claim ledger port pairs) s = .next (if scatters s claim ledger
      then stepBatch s { claim := claim, ledger := ledger, port := port, rows := [], pairs := pairs } else lgErr s 2) := by
  have hempty : pairs.isEmpty = false := by simpa using hne
  refine congrArg Host.Outcome.next ((if_pos hok).trans ?_)
  unfold startScatter
  rw [hempty]
  rfl

theorem batches_look_up_and_add_rows : Rows.BatchesLookUpAndAddRows := by
  intro claim ledger port slot s halive hruns hport hled hslot free g b
  have hreq : ∀ k, slot.map (·.toNat) = some k → ∃ r, running s k = some r ∧ r.claim = claim := by
    intro k hk
    obtain ⟨n, hn, rfl⟩ := Option.map_eq_some_iff.1 hk
    exact hslot n hn
  have hg (rows : List Nat) (hn : rows.length ≤ 65536) : exec (.gatherBatch claim ledger port ⟨slot, rows⟩) s = .next (stepBatch s (g rows)) :=
    exec_gatherBatch_of rfl (batchOk_of halive hruns hport hled hreq hn)
  have hb (pairs : List (Nat × List Byte)) (hne : pairs ≠ []) (hn : pairs.length ≤ 65536) :
      exec (.scatterBatch claim ledger port pairs) s = .next (if scatters s claim ledger then stepBatch s (b pairs) else lgErr s 2) :=
    exec_scatterBatch_of hne (batchOk_of halive hruns hport hled (fun _ h => nomatch h) hn)
  refine ⟨fun hfree hopen => ⟨?_, ?_⟩, fun hwait => ⟨?_, ?_⟩, ?_⟩
  · intro rows hn r
    exact (hg rows hn).trans (congrArg Host.Outcome.next (stepBatch_of_free (b := g rows) hfree hopen))
  · intro pairs hne hn hsc r
    rw [hb pairs hne hn, if_pos hsc]
    exact congrArg Host.Outcome.next (stepBatch_of_free (b := b pairs) hfree hopen)
  · intro rows hn
    exact (hg rows hn).trans (congrArg Host.Outcome.next (stepBatch_of_waits (b := g rows) rfl hwait))
  · intro pairs hne hn hsc
    rw [hb pairs hne hn, if_pos hsc]
    exact congrArg Host.Outcome.next (stepBatch_of_waits (b := b pairs) rfl hwait)
  · intro pairs hne hn hsc
    rw [hb pairs hne hn, if_neg (Bool.eq_false_iff.1 hsc)]

/-! ### The coalescer and the sketch -/

/-- A page that is in the Lode tier is one whose entry can leave. -/
theorem entryReady_of_resident {s : State} {c l r : Nat} (h : isResident s (rowKey s c l r) = true) : entryReady s c l r = true := by
  cases hp : pageOf s (rowKey s c l r) with
  | none => simp [entryReady, hp]
  | some p =>
    have hst : (p.st == .resident) = true := by simpa [isResident, hp] using h
    simp [entryReady, hp, hst]

theorem window_entries_leave_and_sketches_halve : Rows.WindowEntriesLeaveAndSketchesHalve := by
  refine ⟨?_, ?_⟩
  · intro unit claim ledger row s e halive hone hres s1 s2 s3
    have hhas : windowHas s unit claim ledger row = true := by
      have hmem : e ∈ (s.store.windows.getD unit []).filter (·.isFor claim ledger row) := by rw [hone]; exact List.mem_singleton_self e
      obtain ⟨hin, hfor⟩ := List.mem_filter.1 hmem
      exact List.any_eq_true.2 ⟨e, hin, hfor⟩
    have hready : (alive s && windowHas s unit claim ledger row && entryReady s claim ledger row) = true := by
      rw [halive, hhas, entryReady_of_resident hres]; rfl
    refine congrArg Host.Outcome.next ((if_pos hready).trans (congrArg pumpPorts ?_))
    unfold leaveEntry
    simp only [hone, hres, if_true, List.map_cons, List.map_nil, List.flatten_cons, List.flatten_nil, List.append_nil, List.any_cons,
      List.any_nil, Bool.or_false, decide_eq_true_eq]
    rfl
  · intro claim s halive hn s1 keep
    have hdue : (alive s && decide (4194304 ≤ (gatherOf s claim).lookups)) = true := by simp [halive, hn]
    exact congrArg Host.Outcome.next (if_pos hdue)

/-! ### Bins -/

theorem bins_are_counted_and_migrate : Rows.BinsAreCountedAndMigrate := by
  refine ⟨?_, ?_⟩
  · intro claim s halive hn
    have hdue : (alive s && decide (4194304 ≤ (gatherOf s claim).fetches)) = true := by simp [halive, hn]
    exact congrArg Host.Outcome.next (if_pos hdue)
  · intro claim ledger b lode rest s halive hmoves ks room
    have hroom : (unitOk s 1 lode && decide (heldOn s claim 5 lode + ks.length ≤ poolShare s claim 5 lode)
        && decide (ks.length ≤ freeFrames s claim 5)) = decide room := by
      simp [room, Bool.decide_and, Bool.and_assoc]
    have hempty : ks.isEmpty = decide (ks = []) := by cases ks <;> rfl
    refine ⟨fun h => ?_, fun hne hfull => ?_⟩
    · show Host.Outcome.next (opBinMigrateDone claim ledger s) = _
      unfold opBinMigrateDone
      rw [hmoves]
      refine congrArg Host.Outcome.next (if_neg (Bool.eq_false_iff.1 ?_))
      show (!(alive s && (ks.isEmpty || _))) = false
      rw [halive, hempty, hroom]
      rcases h with h | h <;> simp [h]
    · show Host.Outcome.next (opBinMigrateDone claim ledger s) = _
      unfold opBinMigrateDone
      rw [hmoves]
      refine congrArg Host.Outcome.next (if_pos ?_)
      show (!(alive s && (ks.isEmpty || _))) = true
      rw [halive, hempty, hroom]
      simpa using ⟨hne, hfull⟩

/-- Settles O20: batches at a port, the entries of a window, the windows of counts and the bins that move. -/
theorem ledgersAreGatheredAndBinned : Obligations.LedgersAreGatheredAndBinned :=
  ⟨batches_look_up_and_add_rows, window_entries_leave_and_sketches_halve, bins_are_counted_and_migrate⟩

end Sys2Proof.Machine
end

section
/-! PROOF. The sweeps of a pit (R181, R183) and its hot nodes (R183, R185). -/

namespace Sys2Proof.Machine

theorem sweeps_repair_then_free : Rows.SweepsRepairThenFree := by
  refine ⟨?_, ?_⟩
  · intro claim pit channel slot s w sec rest halive hw hsec hleft hst r s1
    have hgo : (alive s && w.st == 1 && (channel, slot) == (channel, slot)) = true := by rw [halive, hst]; simp
    refine congrArg Host.Outcome.next ?_
    show opSweepRecordRepair claim pit channel slot s = _
    unfold opSweepRecordRepair
    rw [hw, hsec]
    simp only [hleft]
    exact if_pos hgo
  · intro claim pit s w sec halive hw hsec hleft f
    have hgo : (alive s && w.left.isEmpty) = true := by rw [halive, hleft]; rfl
    refine congrArg Host.Outcome.next ?_
    show opSweepFree claim pit s = _
    unfold opSweepFree
    rw [hw, hsec]
    exact if_pos hgo

theorem hot_windows_replicate_and_migrate : Rows.HotWindowsReplicateAndMigrate := by
  intro claim pit channel s sec halive hsec hmask hn t reads mine table seen m fresh pages
  have hdue : (alive s && sec.seamMask.testBit channel && decide (16777216 ≤ kgetD (pitOf s claim pit).reads channel 0)) = true := by
    simp [halive, hmask, hn]
  refine congrArg Host.Outcome.next ?_
  show opHotNodeWindowEnd claim pit channel s = _
  unfold opHotNodeWindowEnd
  rw [hsec]
  exact if_pos hdue

/-- Settles O21: a sweep's record and its end, and the end of a channel's window. -/
theorem pitsAreSweptAndHotNodesMoved : Obligations.PitsAreSweptAndHotNodesMoved :=
  ⟨sweeps_repair_then_free, hot_windows_replicate_and_migrate⟩

end Sys2Proof.Machine
end

section
/-! PROOF. Frames (R305, R311, R314), the ends of write-backs and load deadlines (R308, R318, R319). -/

namespace Sys2Proof.Machine

theorem frames_are_allocated_in_order : Rows.FramesAreAllocatedInOrder := by
  intro claim kind s k p halive hheld hk hp drop
  have hexcess : heldFrames s claim kind - (poolPages s claim kind - fencedFrames s claim kind) = 0 := Nat.sub_eq_zero_of_le hheld
  have hnone : (pageOf s k).isNone = false := by rw [hp]; rfl
  refine ⟨fun l hl => ?_, fun v hl hleave hv hl' => ?_, fun v l hl hleave hv hl' => ?_⟩
  all_goals
    refine congrArg Host.Outcome.next ?_
    show opFrameAllocate claim kind s = _
    unfold opFrameAllocate
    simp only [halive, hexcess, Nat.not_lt_zero, hk, hnone, hl, Bool.not_true, Bool.false_eq_true, if_false]
  · rfl
  · simp only [hleave, hv, hl', if_true]
  · simp only [hleave, hv, hl', if_true]
    rfl

theorem write_back_ends_and_deadlines_expire : Rows.WriteBackEndsAndDeadlinesExpire := by
  refine ⟨?_, ?_⟩
  · intro page granule s p hup hp hst hnext s0 p1
    have hgo : (dataUp s page.claim && p.st == .demoting && nextGranule p == some granule) = true := by rw [hup, hst, hnext]; simp
    refine ⟨fun hmore => ?_, fun hlast hkeep hclean => ?_, fun hlast hback => ?_⟩
    all_goals
      refine congrArg Host.Outcome.next ?_
      show opWritebackGranuleAck page granule s = _
      unfold opWritebackGranuleAck
      rw [hp]
      refine (if_pos hgo).trans ?_
    · exact if_pos hmore
    · have hdone : ¬ (nextGranule p1).isSome = true := by rw [hlast]; simp
      have hgone : ¬ (p1.cancel || p1.dirty != 0) = true := by rw [hkeep, hclean]; simp
      exact (if_neg hdone).trans (congrArg (fun q => settlePages (setPage s0 page q)) (if_neg hgone))
    · have hdone : ¬ (nextGranule p1).isSome = true := by rw [hlast]; simp
      have hstay : (p1.cancel || p1.dirty != 0) = true := by simpa using hback
      exact (if_neg hdone).trans (congrArg (fun q => settlePages (setPage s0 page q)) (if_pos hstay))
  · intro slot page s p dl halive hup hp hw hdl hrun
    refine congrArg Host.Outcome.next ?_
    show opLoadDeadlineExpire slot page s = _
    unfold opLoadDeadlineExpire
    rw [hp]
    refine if_pos ?_
    simp only [halive, hup, hrun, Bool.or_true, Bool.and_true, Bool.true_and]
    exact List.any_eq_true.2 ⟨_, hw, by simpa using hdl⟩

/-- Settles O22: allocation with and without a victim, the acknowledgement of a granule and an expired deadline. -/
theorem framesAreAllocatedAndWrittenBack : Obligations.FramesAreAllocatedAndWrittenBack :=
  ⟨frames_are_allocated_in_order, write_back_ends_and_deadlines_expire⟩

end Sys2Proof.Machine
end

section
/-! PROOF. The ends of page loads (R311, R316, R321, R322), uncorrectable Lode data and page buffers (R320, R330, R245). -/

namespace Sys2Proof.Machine

theorem page_loads_end_resident_or_invalid : Rows.PageLoadsEndResidentOrInvalid := by
  intro page data s p halive hp hst hcopy
  refine ⟨fun hup hsrc => ?_, ?_⟩
  · intro s1 s2
    have hgo : (!alive s || (page.kind != 5 && !dataUp s page.claim)) = false := by
      rcases hup with h | h <;> simp [halive, h]
    have halt : (p.src == LoadSrc.alternate) = false := by simpa using hsrc
    refine congrArg Host.Outcome.next ?_
    show opPageLoadDone page data s = _
    unfold opPageLoadDone
    rw [hp]
    simp only [hgo, hcopy, hst, halt, beq_self_eq_true, Bool.false_eq_true, if_false, if_true, s1, s2]
  · intro s1 s2
    have hgo : (alive s && (p.st == .promoting || p.copying)) = true := by rw [halive, hst]; rfl
    refine ⟨fun hfew => ?_, fun hmany => ?_⟩
    all_goals
      refine congrArg Host.Outcome.next ?_
      show opPageLoadUe page s = _
      unfold opPageLoadUe
      rw [hp]
      refine (if_pos hgo).trans ?_
    · exact congrArg (fun t => settlePages (endWaiters t p.waiters 0x06)) (if_neg (show ¬ p.fails + 1 ≥ 3 by omega))
    · exact congrArg (fun t => settlePages (endWaiters t p.waiters 0x06)) (if_pos (show p.fails + 1 ≥ 3 by omega))

theorem dram_errors_and_page_buffers : Rows.DramErrorsAndPageBuffers := by
  refine ⟨?_, ?_⟩
  · intro page s p l f halive hp hf hst
    have hgo : (alive s && (p.st == .resident || p.st == .demoting)) = true := by rw [halive, hst]; rfl
    have hop : opLodeDramUe page s = (if page.kind = 1 && !droppable page p then
          settlePages (commitReq (delPage (faultEvent { countLodeUe s l with face := { s.face with err := s.face.err ||| 4 } } 2 0) page)
            page.obj 0x06 0)
        else if droppable page p || page.kind == 2 || page.kind == 3 then settlePages (loadAgain (faultEvent (countLodeUe s l) 3 0) page)
        else settlePages (losePage (faultEvent (countLodeUe s l) 3 0) page)) := by
      unfold opLodeDramUe
      rw [hp]
      simp only [hf]
      exact if_pos hgo
    refine ⟨fun hk hd => ?_, fun hlow hclean => ?_, fun hk hd => ?_⟩
    all_goals refine congrArg Host.Outcome.next (hop.trans ?_)
    · simp only [hk, hd, decide_true, Bool.not_false, Bool.and_self, if_true]
    · have hdrop : droppable page p = true := by simp [droppable, hlow, hclean]
      have hpage : pageOf (faultEvent (countLodeUe s l) 3 0) page = some p := hp
      simp only [hdrop, Bool.not_true, Bool.and_false, Bool.true_or, Bool.false_eq_true, if_false, if_true, loadAgain, hpage, hst]
      rfl
    · have hdrop : droppable page p = false := by simp [droppable, hd]
      have h1 : ¬ page.kind = 1 := by omega
      have h2 : (page.kind == 2) = false := by rw [beq_eq_false_iff_ne]; omega
      have h3 : (page.kind == 3) = false := by rw [beq_eq_false_iff_ne]; omega
      simp only [hdrop, h1, h2, h3, decide_false, Bool.false_and, Bool.or_self, Bool.false_eq_true, if_false]
  · intro lode n s d rest halive hd hw want s0 used got s1 hroom
    have hgo : (!(alive s && decide (used < 512))) = false := by simp [halive, hroom]
    refine congrArg Host.Outcome.next ?_
    show opPageBufferGrant lode s = _
    unfold opPageBufferGrant
    rw [hd]
    simp only [hw]
    exact if_neg (Bool.eq_false_iff.1 hgo)

/-- Settles O23: the two ends of a load, uncorrectable data by what the page holds, and the grant of page buffers. -/
theorem loadsEndAndDramErrorsAct : Obligations.LoadsEndAndDramErrorsAct :=
  ⟨page_loads_end_resident_or_invalid, dram_errors_and_page_buffers⟩

end Sys2Proof.Machine
end

section
/-! PROOF. NAND operations: reads and rebuilds (R341, R342, R346, R348), programs, fills and their failures (R338, R339, R347), erases
and collection copies (R344, R347). -/

namespace Sys2Proof.Machine

theorem nand_reads_decode_retry_or_rebuild : Rows.NandReadsDecodeRetryOrRebuild := by
  refine ⟨?_, ?_⟩
  · intro seam lpn s e hok he hst s1 rebuild
    have hgo : (seamOk s seam && e.st == 1) = true := by rw [hok, hst]; rfl
    have hread (r : ReadOutcome) : exec (.pageReadDone seam lpn r) s = .next (collect (if dieLost s seam e.place then rebuild s
        else match r with
          | .clean => s1
          | .retried => faultEvent (smErr s1 seam 1) 1 0
          | .undecodable => rebuild (smErr s1 seam 1)) seam) := by
      refine congrArg Host.Outcome.next ?_
      show opPageReadDone seam lpn r s = _
      unfold opPageReadDone
      rw [he]
      exact if_pos hgo
    refine ⟨fun hin => ⟨?_, ?_, ?_⟩, fun hlost r => ?_⟩
    · rw [hread, hin]; rfl
    · rw [hread, hin]; rfl
    · rw [hread, hin]; rfl
    · rw [hread, hlost]; rfl
  · intro seam lpn s e hok hreb he s1
    have hgo : (seamOk s seam && (seamOf s seam).rebuilds.contains lpn) = true := by rw [hok, hreb]; rfl
    refine ⟨?_, ?_⟩
    all_goals
      refine congrArg Host.Outcome.next ?_
      show opReadRebuildDone seam lpn _ s = _
      unfold opReadRebuildDone
      rw [if_pos hgo, he]
      rfl

theorem programs_complete_fill_or_fail : Rows.ProgramsCompleteFillOrFail := by
  refine ⟨?_, ?_⟩
  · intro seam seq s q hfin hq hdone hmay
    have hgo : (dieFinishes s seam && !q.done && mayProgram s seam q) = true := by rw [hfin, hdone, hmay]; rfl
    refine ⟨?_, ?_⟩
    · refine congrArg Host.Outcome.next ?_
      show opPageProgramDone seam seq s = _
      unfold opPageProgramDone
      rw [hq]
      exact if_pos hgo
    · intro v gi s1
      refine congrArg Host.Outcome.next ?_
      show opProgramFail seam seq s = _
      unfold opProgramFail
      simp only [hq]
      exact if_pos hgo
  · intro seam group b s x hrun hopen hx hfill
    subst hx
    refine congrArg Host.Outcome.next ?_
    show opStripeFill seam group s = _
    unfold opStripeFill
    simp only [hopen]
    refine if_pos ?_
    rw [hrun, decide_eq_true hfill]
    rfl

theorem collection_erases_and_moves_pages : Rows.CollectionErasesAndMovesPages := by
  refine ⟨?_, ?_⟩
  · intro seam group sb die s hrun hvictim hempty
    refine ⟨fun hret => ?_, fun hdie => ?_⟩
    · refine congrArg Host.Outcome.next (if_pos ?_)
      show (dieRuns s seam && ((seamOf s seam).dgs.getD group {}).victim == some sb && emptied (seamOf s seam) group sb
        && !retiring s seam group sb) = true
      rw [hrun, hvictim, hempty, hret]
      simp
    · refine congrArg Host.Outcome.next (if_pos ?_)
      show (dieRuns s seam && ((seamOf s seam).dgs.getD group {}).victim == some sb && emptied (seamOf s seam) group sb
        && decide (die / 8 = group)) = true
      rw [hrun, hvictim, hempty, decide_eq_true hdie]
      simp
  · intro seam lpn s c e hrun hc he hplace s1 he1
    refine congrArg Host.Outcome.next ?_
    show opCollectionCopyDurable seam lpn s = _
    unfold opCollectionCopyDurable
    have he1' : kget (seamOf (modSeam s seam (fun v => { v with copies := v.copies.filter (fun x => x != c) })) seam).map lpn = some e := he1
    simp only [hc, hrun, he1', hplace, Bool.not_true, Bool.false_eq_true, if_false, if_true]
    rfl

/-- Settles O24: the reads and the rebuilds, the programs and their failures, the erases and the copies. -/
theorem nandOperationsComplete : Obligations.NandOperationsComplete :=
  ⟨nand_reads_decode_retry_or_rebuild, programs_complete_fill_or_fail, collection_erases_and_moves_pages⟩

end Sys2Proof.Machine
end

section
/-! PROOF. A die that fails (R348), the journal and its checkpoints (R349, R350), and a die's recovery (R352 to R354). -/

namespace Sys2Proof.Machine

/-! ### A die that fails -/

/-- Settles O25: a die of a group without a dead one, one beyond what the group holds, and one retired already. -/
theorem dieFailureDegradesTheSeam : Obligations.DieFailureDegradesTheSeam := by
  intro seam die s hrun hdie g s1
  have hop : exec (.dieFailure seam die) s = .next (if !(dieRuns s seam && decide (die / 8 < dieGroups) && !g.dead.testBit (die % 8)) then s
      else if g.dead != 0 || !groupHolds (seamOf s1 seam) (die / 8) then fenceUnit (collect s1 seam) ⟨3, seam⟩ 8 else collect s1 seam) := rfl
  rw [hop, hrun, decide_eq_true hdie]
  refine ⟨fun hnone hholds => ?_, fun hfresh hbad => ?_, fun hgone => ?_⟩
  · simp [hnone, hholds]
  · have hlost : (g.dead != 0 || !groupHolds (seamOf s1 seam) (die / 8)) = true := by simpa using hbad
    simp [hfresh, hlost]
  · simp [hgone]

/-! ### The journal and its checkpoints -/

theorem dieOf_modDie_self (s : State) (n : Nat) (f : SeamDie → SeamDie) (h : n < s.flash.dies.length) :
    dieOf (modDie s n f) n = f (dieOf s n) := by
  simp [dieOf, modDie, List.getD_eq_getElem?_getD, lmod_getElem?, List.getElem?_eq_getElem h]

@[simp] theorem dies_length_modDie (s : State) (n : Nat) (f : SeamDie → SeamDie) :
    (modDie s n f).flash.dies.length = s.flash.dies.length := by simp [modDie]

/-- What is left of a die once the records of one journal stripe are durable: its one synchronous record is brought about. -/
theorem dieOf_stripe_of_one_sync {s : State} {n : Nat} {r : SyncRec} {f : SeamDie → SeamDie} (h : n < s.flash.dies.length)
    (hs : (dieOf s n).syncs = [r]) {g : SeamDie → SeamDie} (hev : ∀ t, syncEvent t n r = modDie t n g)
    (hf : ∀ d, (f d).syncs = d.syncs) :
    dieOf (modDie (journalDone (modDie s n f) n) n (fun d => { d with syncs := [] })) n =
      { g (f (dieOf s n)) with syncs := [], star := max (g (f (dieOf s n))).star (g (f (dieOf s n))).water } := by
  have hsync : (dieOf (modDie s n f) n).syncs = [r] := by rw [dieOf_modDie_self s n f h, hf, hs]
  unfold journalDone
  rw [hsync, List.foldl_cons, List.foldl_nil, hev]
  simp [dieOf_modDie_self, h]

/-- Settles O26: a journal stripe and the events of its records, the start of a checkpoint and its end. -/
theorem journalAndCheckpointsGoOn : Obligations.JournalAndCheckpointsGoOn := by
  intro die s halive hdie hst
  refine ⟨fun hj => ?_, fun i rest htodo hck hwait => ?_, fun hck hwait => ?_⟩
  · intro s1
    refine ⟨?_, ?_, ?_⟩
    · refine congrArg Host.Outcome.next (if_pos ?_)
      show (alive s && decide (die < 4) && (dieOf s die).st == 2 && decide (0 < (dieOf s die).journal)) = true
      simp [halive, hdie, hst, hj]
    · rintro ⟨i, hi⟩ hlen d
      have hd : d = _ := dieOf_stripe_of_one_sync hlen hi (fun _ => rfl) (fun _ => rfl)
      rw [hi, hd]
      exact ⟨rfl, rfl, rfl⟩
    · intro he hlen
      have hd : dieOf (modDie (journalDone s1 die) die (fun d => { d with syncs := [] })) die = _ :=
        dieOf_stripe_of_one_sync hlen he (fun _ => rfl) (fun _ => rfl)
      rw [hd]
  · have hlist : (if (dieOf s die).todo.isEmpty && ckptDue (dieOf s die) then List.range 16 else (dieOf s die).todo) = i :: rest := by
      rcases htodo with h | ⟨h, hdue, hr⟩
      · rw [h]; rfl
      · rw [h, hdue, hr]; rfl
    refine congrArg Host.Outcome.next ?_
    show opCheckpointStart die s = _
    unfold opCheckpointStart
    simp only [hlist]
    refine if_pos ?_
    simp [halive, hdie, hst, hck, hwait]
  · refine congrArg Host.Outcome.next (if_pos ?_)
    show (alive s && (dieOf s die).st == 2 && (dieOf s die).ckpt.isSome && !ckptWaits (dieOf s die)) = true
    simp [halive, hst, hck, hwait]

/-! ### Recovery -/

/-- Settles O27: a RECOVERING die that runs is one of the four, and recovers. -/
theorem recoveryBringsADieUp : Obligations.RecoveryBringsADieUp := by
  intro die s halive hdie hst s1
  refine congrArg Host.Outcome.next (if_neg (Bool.eq_false_iff.1 ?_))
  show (!(alive s && decide (die < 4) && (dieOf s die).st == 1)) = false
  simp [halive, hdie, hst]

end Sys2Proof.Machine
end

section
/-! PROOF. FENCE and UNFENCE by command (R421, R425, R472, R474). -/

namespace Sys2Proof.Machine

/-- Settles O28: each command by what its unit is under. -/
theorem unitsAreFencedAndUnfenced : Obligations.UnitsAreFencedAndUnfenced := by
  intro m s o s1 u hu hz
  refine ⟨fun h => ?_, fun h => ?_⟩
  · have hop : exec (.fence m) s = .next (if khas s1.hf.unfences u then { s1 with hf := { s1.hf with fenceWaits := s1.hf.fenceWaits ++ [(u, o)] } }
        else if fenceSt s1 u = 2 then doneWith s1 o (leBytes 4 0)
        else doneWith (fenceUnit s1 u 1) o (leBytes 4 (((kget (fenceUnit s1 u 1).hf.fences u).map (·.ended)).getD 0))) := by
      refine congrArg Host.Outcome.next ((mgmtDesc_of h rfl (by decide) hz).trans ?_)
      simp only [hu]
    rw [hop]
    refine ⟨fun hno hst => ?_, fun hno hst => ?_, fun hin => ?_⟩
    · have hkhas : ¬ khas s1.hf.unfences u = true := by simp [khas, hno]
      rw [if_neg hkhas, if_neg hst]
    · have hkhas : ¬ khas s1.hf.unfences u = true := by simp [khas, hno]
      rw [if_neg hkhas, if_pos hst]
      rfl
    · rw [if_pos (show khas s1.hf.unfences u = true from hin)]
  · have hop : exec (.unfence m) s = .next (if fenceSt s1 u != 2 then bad s1 o 0x22
        else if ((kget s1.hf.fences u).map (·.cause)).getD 0 = 8 then bad s1 o 0x23
        else match wholeDomain u with
          | some d => switchDomain (setFenceSt { s1 with hf := { s1.hf with unfences := kset s1.hf.unfences u o } } u 3) (d, true)
          | none => setFenceSt { s1 with hf := { s1.hf with unfences := kset s1.hf.unfences u o } } u 3) := by
      refine congrArg Host.Outcome.next ((mgmtDesc_of h rfl (by decide) hz).trans ?_)
      simp only [hu] <;> rfl
    rw [hop]
    refine ⟨fun hst hcause => ?_, fun hst => ?_, fun hst hcause => ?_⟩
    · have hin : ¬ (fenceSt s1 u != 2) = true := by simp [hst]
      rw [if_neg hin, if_neg hcause] <;> rfl
    · rw [if_pos (by simpa using hst)]
    · have hin : ¬ (fenceSt s1 u != 2) = true := by simp [hst]
      rw [if_neg hin, if_pos hcause]

end Sys2Proof.Machine
end

section
/-! PROOF. Unit faults and module-fatal errors (R416, R421, R424, R430), errors of the hub's SRAM (R110, R261, R418) and poisoned
reads (R480). -/

namespace Sys2Proof.Machine

/-! ### What a fatal cause latches -/

theorem foldl_boot {α : Type} {f : State → α → State} (hf : ∀ t a, (f t a).boot = t.boot) (l : List α) (s : State) :
    (l.foldl f s).boot = s.boot := by
  induction l generalizing s with
  | nil => rfl
  | cons a l ih => rw [List.foldl_cons, ih, hf]

theorem syncEvent_boot (s : State) (die : Nat) (r : SyncRec) : (syncEvent s die r).boot = s.boot := by cases r <;> rfl

theorem journalDone_boot (s : State) (die : Nat) : (journalDone s die).boot = s.boot :=
  foldl_boot (fun t r => syncEvent_boot t die r) _ s

theorem flushDies_boot (s : State) (ok : Bool) : (flushDies s ok).boot = s.boot := by
  refine foldl_boot (fun t n => ?_) _ s
  dsimp only
  split
  · cases ok
    · rfl
    · exact journalDone_boot t n
  · rfl

theorem moduleFatal_fatalCause {s : State} (h : s.boot.fatalCause = 0) (cause : Nat) (u : Option UnitId) :
    (moduleFatal s cause u).boot.fatalCause = cause := by
  unfold moduleFatal
  simp only [h, bne_self_eq_false, Bool.false_eq_true, if_false]
  split
  · rfl
  · rw [flushDies_boot]; rfl

theorem faults_fence_retire_or_latch : Rows.FaultsFenceRetireOrLatch := by
  intro u s halive
  refine ⟨fun hidx => ?_, fun cause v h1 h8 => ⟨?_, ?_⟩⟩
  · have hop (cause : Nat) (hc : [2, 3, 4, 5, 8].contains cause = true) : exec (.unitFault u cause) s = .next (if cause = 4 then floorMiss s u
        else fenceUnit (if u.cls = 0 && cause = 2 then { s with banks := lmod s.banks (u.idx / 8) (fun b => { b with err := b.err ||| 4 }) } else s)
          u cause) := by
      refine congrArg Host.Outcome.next (if_neg (Bool.eq_false_iff.1 ?_))
      rw [halive, decide_eq_true hidx, hc]
      rfl
    refine ⟨fun cause hc => ?_, fun hcls => ?_, fun hcls hst => ?_, fun hcls hst => ?_, fun hst => ?_, ?_⟩
    · simp only [List.mem_cons, List.not_mem_nil, or_false] at hc
      have hno : cause ≠ 4 ∧ cause ≠ 2 := by omega
      rw [hop cause (by simp only [List.contains_eq_mem, List.mem_cons, List.not_mem_nil, or_false, decide_eq_true_eq]; omega), if_neg hno.1]
      simp [hno.2]
    · rw [hop 2 rfl]
      simp [hcls]
    · rw [hop 4 rfl]
      simp [floorMiss, hst, hcls]
    · rw [hop 4 rfl]
      simp [floorMiss, hst, hcls]
    · rw [hop 4 rfl]
      simp [floorMiss, hst]
    · refine congrArg Host.Outcome.next (if_pos ?_)
      rw [halive, decide_eq_true hidx]
      rfl
  · refine congrArg Host.Outcome.next (if_pos ?_)
    rw [halive, decide_eq_true h1, decide_eq_true h8]
    rfl
  · refine moduleFatal_fatalCause ?_ cause v
    have h := halive
    simp only [alive, Bool.and_eq_true, beq_iff_eq] at h
    exact h.1.2

/-! ### The hub's SRAM -/

theorem sram_errors_use_spare_lines : Rows.SramErrorsUseSpareLines := by
  intro u corrected s halive s1
  have hlive : ¬ (!alive s) = true := by simp [halive]
  refine ⟨fun hown => ?_, fun x k n hown hleft => ?_, fun x k n hown hout => ?_, fun g slot hu hc hrun => ?_⟩
  · refine congrArg Host.Outcome.next ((if_neg hlive).trans ?_)
    simp only [hown]
    rfl
  · refine congrArg Host.Outcome.next ((if_neg hlive).trans ?_)
    simp only [hown]
    exact if_pos hleft
  · refine congrArg Host.Outcome.next ((if_neg hlive).trans ?_)
    simp only [hown]
    exact if_neg (Nat.not_lt.2 hout)
  · subst hu hc
    have hsome : ¬ (running s slot.toNat).isNone = true := by
      rw [← Option.not_isSome, hrun]
      decide
    exact if_neg hsome

/-! ### Poisoned reads -/

theorem poisoned_reads_end_their_reader : Rows.PoisonedReadsEndTheirReader := by
  intro s halive hup s0
  have hreach : ¬ (!reach s) = true := by simp [reach, halive, hup]
  refine ⟨fun slot hrun => ?_, fun g i x hx => ?_⟩
  · exact congrArg Host.Outcome.next ((if_neg hreach).trans (if_pos hrun))
  · refine congrArg Host.Outcome.next ((if_neg hreach).trans ?_)
    simp only [hx]
    rfl

/-- Settles O29: the faults by their causes, the SRAM's errors by its spare lines and the poisoned reads by their readers. -/
theorem faultsActByTheirClass : Obligations.FaultsActByTheirClass :=
  ⟨faults_fence_retire_or_latch, sram_errors_use_spare_lines, poisoned_reads_end_their_reader⟩

end Sys2Proof.Machine
end

section
/-! PROOF. An image is taken (R44, R46, R50, R56, R108), verified and committed (R44 steps 3 to 7, R453). -/

namespace Sys2Proof.Machine

theorem images_are_taken_one_at_a_time : Rows.ImagesAreTakenOneAtATime := by
  refine ⟨?_, ?_⟩
  · intro m header s o s1 hm hz h j s2
    refine ⟨fun hnone hok => ?_, fun code hnone herr => ?_, fun hsome => ?_⟩
    all_goals refine congrArg Host.Outcome.next ((mgmtDesc_of hm rfl (by decide) hz).trans ?_)
    · simp only [hnone, Option.isSome_none, Bool.false_eq_true, if_false]
      cases hs : step2 s1 none h (fld m.line 24 8) with
      | error code => exact absurd hs (hok code)
      | ok v => rfl
    · simp only [hnone, Option.isSome_none, Bool.false_eq_true, if_false,
        show step2 s1 none (padTo 64 header) (fld m.line 24 8) = .error code from herr]
      rfl
    · exact if_pos hsome
  · intro d header s o s1 hl hz0 hten hz hq h j
    have hop : exec (.imageAdjust d header) s = .next (if o.req != 0xFFFFFFFF then bad s1 o 0x10
        else if (claimOf s1 o.claim).st = 3 then refuseJob s1 o.claim j cdState
        else if (claimOf s1 o.claim).adjust.isSome then done s1 o 0x0E 0
        else match step2 s1 (some o.claim) h (fld d.line 24 8) with
          | .error code => refuseJob s1 o.claim j code
          | .ok _ => setJob s1 o.claim (some j)) :=
      congrArg Host.Outcome.next (claimDesc_taken hl rfl (by decide) (by decide) (Or.inr rfl) hz0 hz hten)
    rw [hop, if_neg (by simp [hq])]
    refine ⟨fun hst => ?_, fun hst hadj => ?_, fun hst hadj hok => ?_, fun code hst hadj herr => ?_⟩
    · rw [if_pos hst]
    · rw [if_neg hst, if_pos hadj]
    · rw [if_neg hst, if_neg (by simp [hadj])]
      cases hs : step2 s1 (some o.claim) h (fld d.line 24 8) with
      | error code => exact absurd hs (hok code)
      | ok v => rfl
    · rw [if_neg hst, if_neg (by simp [hadj]), herr]

theorem images_are_verified_then_committed : Rows.ImagesAreVerifiedThenCommitted := by
  intro job image s j hreach hcan hjob hj s1
  have hgo : ¬ (!(reach s && decide (job ≤ 4) && hlCan s 2 5)) = true := by simp [hreach, hcan, hjob]
  have hverify (v : Bool) : exec (.imageVerifyDone job ⟨image, v⟩) s = .next (if j.phase = 1 && image.length == j.len then
        (if v then checkSignature (formDigest s1 job j image) job else formDigest s1 job j image)
      else if j.phase = 4 && v then checkSignature s job else s) := by
    refine congrArg Host.Outcome.next ?_
    show opImageVerifyDone job image v s = _
    unfold opImageVerifyDone
    rw [hj]
    exact if_neg hgo
  refine ⟨fun hph hlen => ?_, fun hph => ?_, fun hph hlen => ?_⟩
  · intro j1 read
    have h1 : (decide (j.phase = 1) && image.length == j.len) = true := by simp [hph, hlen]
    refine ⟨?_, ?_⟩
    · rw [hverify, if_pos h1]; rfl
    · rw [hverify, if_pos h1]; rfl
  · have hcheck : exec (.imageVerifyDone job ⟨image, true⟩) s = .next (checkSignature s job) := by
      rw [hverify]
      simp [hph]
    rw [hcheck]
    unfold checkSignature
    rw [hj]
    refine ⟨fun i hi => ?_, fun hnone => ?_⟩
    · simp only [hi]
    · simp only [hnone]
  · intro base
    have hgo2 : ¬ (!(reach s && decide (job ≤ 4) && j.phase == 2 && image.length == j.len && hlCan s 2 5)) = true := by
      simp [hreach, hcan, hjob, hph, hlen]
    have happly : exec (.imageApplyDone job image) s = .next (match base.bind (fun _ => shadowCfg s1 j image) with
        | .error code => refuseJob s1 job j code
        | .ok (es, cfg) =>
          if sha512 (image.take (j.len - 132)) != j.d1 || image.take 64 != j.header then refuseJob s1 job j cdChanged
          else goStarts (commitJob s1 job j es cfg)) := by
      refine congrArg Host.Outcome.next ?_
      show opImageApplyDone job image s = _
      unfold opImageApplyDone
      rw [hj]
      exact if_neg hgo2
    rw [happly]
    refine ⟨fun es cfg hok => ⟨fun hd hh => ?_, fun hchanged => ?_⟩, fun code herr => ?_⟩
    · simp only [hok]
      simp [hd, hh]
    · simp only [hok]
      rw [if_pos (by simpa using hchanged)]
    · simp only [herr]

/-- Settles O30: taking a load or an adjustment, and the two passes over it. -/
theorem imagesAreTakenVerifiedAndCommitted : Obligations.ImagesAreTakenVerifiedAndCommitted :=
  ⟨images_are_taken_one_at_a_time, images_are_verified_then_committed⟩

end Sys2Proof.Machine
end

section
/-! PROOF. CLAIM_START, CLAIM_END (R47, R357, R473, R474) and CLAIM_END_DRAINED (R195, R358). -/

namespace Sys2Proof.Machine

/-- A claim that is not LOADED is refused. -/
theorem beginStart_of_not_loaded {s : State} {c : Nat} (o : Origin) (h : (claimOf s c).st ≠ 1) : beginStart s c o = bad s o 0x20 := by
  unfold beginStart
  cases cfgOf s c with
  | none => rfl
  | some g => exact if_pos (by simpa using h)

theorem claims_start_and_end : Rows.ClaimsStartAndEnd := by
  intro m s o s1 hz hle c
  refine ⟨fun h hnone => ⟨fun hholds => ?_, fun hfree => ?_, fun hst => beginStart_of_not_loaded o hst⟩,
    fun h => ⟨fun hst => ?_, fun hst => ?_, fun hst => ?_⟩⟩
  all_goals refine congrArg Host.Outcome.next ((mgmtDesc_of h rfl (by decide) hz).trans ?_)
  · have hno : ¬ (claimOf s1 c).starting.isSome = true := by simp [hnone]
    exact (if_neg hno).trans (if_pos hholds)
  · have hno : ¬ (claimOf s1 c).starting.isSome = true := by simp [hnone]
    exact (if_neg hno).trans (if_neg (Bool.eq_false_iff.1 hfree))
  · have h3 : ¬ (claimOf s1 c).st = 3 := by omega
    have h2 : ¬ ((claimOf s1 c).st != 2) = true := by simp [hst]
    exact (if_neg h3).trans (if_neg h2)
  · exact if_pos hst
  · have h3 : ¬ (claimOf s1 c).st = 3 := by omega
    have h2 : ((claimOf s1 c).st != 2) = true := by rw [bne_iff_ne]; omega
    exact (if_neg h3).trans (if_pos h2)

theorem drained_claims_return_to_loaded : Rows.DrainedClaimsReturnToLoaded := by
  intro claim s halive hlt hst hreqs hcmds hadj harms hgathers htests s0
  have hleft : ((requests s).any (fun r => r.2.claim == claim) || s.cmds.any (fun x => x.o.claim == claim)
      || (claimOf s claim).adjust.isSome || s.watch.arms.any (fun a => a.claim == claim) || gathersLeft s claim) = false := by
    have h1 : (requests s).any (fun r => r.2.claim == claim) = false := by simpa [List.any_eq_false] using hreqs
    have h2 : s.cmds.any (fun x => x.o.claim == claim) = false := by simpa [List.any_eq_false] using hcmds
    have h3 : s.watch.arms.any (fun a => a.claim == claim) = false := by simpa [List.any_eq_false] using harms
    rw [h1, h2, h3, hadj, hgathers]
    rfl
  have hop : exec (.claimEndDrained claim) s = .next (
      if !ledgersSettled s0 claim then s0
      else
      let s1 := releaseClaim s0 claim
      let due := s1.power.deferred.filter (fun d => d.2 == claim && ((kget s1.hf.fences d.1).map (·.st)).getD 0 == 0)
      let s2 := { s1 with power := { s1.power with
        deferred := s1.power.deferred.filter (fun d => d.2 != claim)
        testing := s1.power.testing ++ due.map (fun d => ⟨d.1, claim, false, none⟩) } }
      let s3 := due.foldl (fun s d => setFenceSt s d.1 3) s2
      if due.isEmpty then finishEnd s3 claim else s3) := by
    refine congrArg Host.Outcome.next (if_pos ?_)
    rw [hleft, halive, hst, decide_eq_true hlt, htests]
    rfl
  rw [hop]
  refine ⟨fun hopen => ?_, fun hsettled hnone => ?_⟩
  · rw [hopen]; rfl
  · simp only [hsettled, Bool.not_true, Bool.false_eq_true, if_false]
    have hdue (p : UnitId × Nat → Bool) : (releaseClaim s0 claim).power.deferred.filter p = [] := by rw [hnone]; rfl
    simp only [hdue, List.map_nil, List.foldl_nil, List.isEmpty_nil, if_true, List.append_nil]
    rw [← hnone]

/-- Settles O31: the two commands by the claim's state, and the end of a claim with nothing left. -/
theorem claimsStartEndAndDrain : Obligations.ClaimsStartEndAndDrain := ⟨claims_start_and_end, drained_claims_return_to_loaded⟩

end Sys2Proof.Machine
end

section
/-! PROOF. The TAP (R459). -/

namespace Sys2Proof.Machine

/-- A pin instruction is BYPASS while a claim is RUNNING or ENDING, and is loaded while none is. -/
theorem loadPins_of_none_running {s : State} {n : Nat} (hon : tapOn s = true) (h : ∀ c < 4, claimRuns s c = false) :
    loadPins s n = loadInstr s n := by
  have hany : (List.range 4).any (claimRuns s) = false := by simpa [List.any_eq_false] using h
  simp [loadPins, hon, hany]

theorem loadPins_of_running {s : State} {n : Nat} (hon : tapOn s = true) (h : ∃ c < 4, claimRuns s c = true) : loadPins s n = opBypass s := by
  have hany : (List.range 4).any (claimRuns s) = true := by simpa [List.any_eq_true] using h
  simp [loadPins, hon, hany]

/-- Settles O34: attachment, the reset and the instructions. -/
theorem tapInstructionsAreLoaded : Obligations.TapInstructionsAreLoaded := by
  intro s load
  refine ⟨fun opcode hreset hstage hoff => ?_, rfl, fun hon => ⟨?_, ?_, ?_, fun hidle => ?_, fun hbusy => ?_⟩⟩
  · refine congrArg Host.Outcome.next (if_pos ?_)
    rw [hreset, hstage, hoff]
    rfl
  · exact congrArg Host.Outcome.next (if_pos hon)
  · exact congrArg Host.Outcome.next (if_pos hon)
  · exact congrArg Host.Outcome.next (if_pos hon)
  · exact ⟨congrArg Host.Outcome.next (loadPins_of_none_running hon hidle), congrArg Host.Outcome.next (loadPins_of_none_running hon hidle),
      congrArg Host.Outcome.next (loadPins_of_none_running hon hidle)⟩
  · exact ⟨congrArg Host.Outcome.next (loadPins_of_running hon hbusy), congrArg Host.Outcome.next (loadPins_of_running hon hbusy),
      congrArg Host.Outcome.next (loadPins_of_running hon hbusy)⟩

end Sys2Proof.Machine
end

section
/-! PROOF. Re-planning passes (R9, R406, R407, R409) and the thermal, coolant, leak and pin events (R402, R415, R464, R465, R469). -/

namespace Sys2Proof.Machine

theorem passes_plan_and_answer : Rows.PassesPlanAndAnswer := by
  intro r s halive s1
  have hlive : ¬ (!alive s) = true := by simp [halive]
  exact congrArg Host.Outcome.next (if_neg hlive)

theorem thermal_and_pin_events : Rows.ThermalAndPinEvents := by
  intro s halive
  have hlive : ¬ (!alive s) = true := by simp [halive]
  refine ⟨fun d c hhot => ?_, fun d => ?_, fun d => ?_, fun c hin hout => ?_, fun c hin hlow hhigh => ?_, ?_, ?_, ?_, ?_, ?_⟩
  · refine congrArg Host.Outcome.next (if_pos ?_)
    rw [halive, decide_eq_true hhot]
    rfl
  · exact congrArg Host.Outcome.next (if_pos halive)
  · exact congrArg Host.Outcome.next (if_pos halive)
  · refine congrArg Host.Outcome.next (if_pos ?_)
    rw [halive, decide_eq_true hin]
    simpa using hout
  · refine congrArg Host.Outcome.next (if_pos ?_)
    rw [halive, decide_eq_true hin, decide_eq_true hlow, decide_eq_true hhigh]
    rfl
  · exact congrArg Host.Outcome.next (if_pos halive)
  · exact congrArg Host.Outcome.next (if_pos halive)
  · exact congrArg Host.Outcome.next (if_pos halive)
  · exact congrArg Host.Outcome.next (if_neg hlive)
  · exact congrArg Host.Outcome.next (if_neg hlive)

/-- Settles O35: a pass, and each sensor's event. -/
theorem powerPassesAndThermalEvents : Obligations.PowerPassesAndThermalEvents := ⟨passes_plan_and_answer, thermal_and_pin_events⟩

end Sys2Proof.Machine
end

section
/-! PROOF. The ENCODE step (R235, R301, R302). -/

namespace Sys2Proof.Machine

/-- Settles O37: an empty text, a vector of finite values and one with a value replaced. -/
theorem encodeProducesTheVector : Obligations.EncodeProducesTheVector := by
  intro slot step states order s r t mi m hiss hmi hm n toks s1 hlen hwidth hgate used finish out b
  have hshape : ¬ (states.length != toks.length || states.any (fun x => x.length != m.dModel)) = true := by
    have h1 : (states.length != toks.length) = false := by simp [hlen]
    have h2 : states.any (fun x => x.length != m.dModel) = false := by
      rw [List.any_eq_false]
      intro x hx
      simp [hwidth x hx]
    rw [h1, h2]
    decide
  have hok : ¬ (!(runGate s n r.claim mi m toks).2) = true := by rw [hgate]; decide
  have hop : exec (.encodeStep slot step ⟨states, order⟩) s = .next (
      let v := if toks.isEmpty then (List.replicate m.outDim 0, false) else out
      finish (used (if v.2 then { s1 with banks := lmod s1.banks b (fun x => { x with numErr := x.numErr ||| 8 }) } else s1)) v.1) := by
    refine congrArg Host.Outcome.next ?_
    show opEncodeStep slot step states order s = _
    unfold opEncodeStep
    simp only [show issued s slot.toNat step 2 = some (r, t) from hiss, hmi, hm]
    exact (if_neg hshape).trans (if_neg hok)
  rw [hop]
  refine ⟨fun hnone => ?_, fun hne hfin => ?_, fun hne hinf => ?_⟩
  · have hempty : toks.isEmpty = true := by rw [hnone]; rfl
    simp only [hempty, if_true]
    rfl
  · have hempty : toks.isEmpty = false := by simpa using hne
    simp only [hempty, hfin, Bool.false_eq_true, if_false]
  · have hempty : toks.isEmpty = false := by simpa using hne
    simp only [hempty, hinf, Bool.false_eq_true, if_false, if_true]

end Sys2Proof.Machine
end

section
/-! PROOF. Searches start, walk and scan (R149 to R156, R162). -/

namespace Sys2Proof.Machine

theorem searches_start_with_all_their_buffers : Rows.SearchesStartWithAllTheirBuffers := by
  intro claim s num x p hx hp need
  have hop : exec (.searchStart claim) s = .next (if alive s && unitOk s 0x11 0 && decide (buffersUsed s claim + need ≤ buffersOf s claim)
      then startSearch s num x p else s) := by
    refine congrArg Host.Outcome.next ?_
    show opSearchStart claim s = _
    unfold opSearchStart
    rw [hx]
    simp only [hp]
    rfl
  rw [hop]
  refine ⟨fun halive hunit hroom => ?_, fun hfull => ?_⟩
  · rw [if_pos (by rw [halive, hunit, decide_eq_true hroom]; rfl)]
  · rw [if_neg (by rw [decide_eq_false (Nat.not_le.2 hfull), Bool.and_false]; decide)]

theorem strands_walk_and_hand_off : Rows.StrandsWalkAndHandOff := by
  refine ⟨?_, ?_⟩
  · intro search strand s x t p t1 ev hx ht hp halive hstarted hdone hwait hunit hstay hround s2
    have hgo : (alive s && x.started && !t.done && !t.waiting && !wantsHandoff (askOf s x) t && unitOk s 2 t.engine) = true := by
      rw [halive, hstarted, hdone, hwait, hstay, hunit]; rfl
    have hop : exec (.strandRound search strand) s = .next (if t1.done then admitStrand s2 t.engine else s2) := by
      refine congrArg Host.Outcome.next ?_
      show opStrandRound search strand s = _
      unfold opStrandRound
      simp only [hx, ht, hp, hgo, hround, if_true]
      rfl
    rw [hop]
    exact ⟨fun hmore => by rw [hmore]; rfl, fun hover => by rw [hover]; rfl⟩
  · intro search strand s x t hx ht halive hstarted hwait hleave hunit e s1
    have hgo : (alive s && x.started && !t.waiting && wantsHandoff (askOf s x) t && unitOk s 0x11 0) = true := by
      rw [halive, hstarted, hwait, hleave, hunit]; rfl
    refine congrArg Host.Outcome.next ?_
    show opStrandHandoff search strand s = _
    unfold opStrandHandoff
    simp only [hx, ht, hgo, if_true]
    rfl

theorem scans_read_each_channel_once : Rows.ScansReadEachChannelOnce := by
  intro search channel s x p hx hp halive hstarted hscan hunit d all got next
  have hop : exec (.labelScan search channel) s = .next (if x.kind != 2 || x.scanOn.contains channel then
      next (got (if x.kind = 2 then all else kgetD d.posts (channel, x.label.getD 0) [])) else s) := by
    refine congrArg Host.Outcome.next ?_
    show opLabelScan search channel s = _
    unfold opLabelScan
    simp only [hx, hp, halive, hstarted, hscan, hunit, Bool.true_and]
    rfl
  rw [hop]
  refine ⟨fun hkind hoff => ?_, fun hkind hon => ?_, fun hkind => ?_⟩
  · have hno : ¬ (x.kind != 2 || x.scanOn.contains channel) = true := by rw [hoff]; simp [hkind]
    rw [if_neg hno]
  · have hyes : (x.kind != 2 || x.scanOn.contains channel) = true := by rw [hon, Bool.or_true]
    rw [if_pos hyes, if_pos hkind]
  · have hyes : (x.kind != 2 || x.scanOn.contains channel) = true := by simp [hkind]
    rw [if_pos hyes, if_neg hkind]

/-- Settles O38: the start of a search, a round and a handoff of a strand, and a scan of a channel. -/
theorem searchesStartWalkAndScan : Obligations.SearchesStartWalkAndScan :=
  ⟨searches_start_with_all_their_buffers, strands_walk_and_hand_off, scans_read_each_channel_once⟩

end Sys2Proof.Machine
end

section
/-! PROOF. The merge of a search (R157 to R159) and the result written to the companion (R105, R158). -/

namespace Sys2Proof.Machine

theorem finished_searches_merge : Rows.FinishedSearchesMerge := by
  intro search s x n i ents dups ties hx hown hmerge
  refine ⟨fun hopen => ?_, fun halive hover hunit => ?_⟩
  · refine congrArg Host.Outcome.next ?_
    show opSearchMerge search s = _
    unfold opSearchMerge
    rw [hx]
    refine if_pos ?_
    rw [hopen, Bool.and_false, Bool.false_and]
    rfl
  · intro flags l s1 s2
    refine congrArg Host.Outcome.next ?_
    show opSearchMerge search s = _
    unfold opSearchMerge
    rw [hx]
    have hgo : ¬ (!(alive s && searchOver x && unitOk s 0x11 0)) = true := by rw [halive, hover, hunit]; decide
    refine (if_neg hgo).trans ?_
    simp only [hmerge, hown]
    rfl

theorem results_are_written_to_the_companion : Rows.ResultsAreWrittenToTheCompanion := by
  intro slot step s r t hiss n
  have hop : exec (.writeResultStep slot step) s = .next (if !dataUp s r.claim then s else completeStep (putHost
      (if (planOf r).any (fun t => t.typ == 7) then s else modReq s n (fun r => { r with out := { r.out with passages := resultsWritten r } }))
      r.desc.resultAddr (resultBytes r)) n step id) := by
    refine congrArg Host.Outcome.next ?_
    show opWriteResultStep slot step s = _
    unfold opWriteResultStep
    simp only [hiss]
    rfl
  rw [hop]
  refine ⟨fun hdown => ?_, fun hup hpack => ?_, fun hup hpack => ?_⟩
  · rw [hdown]; rfl
  · rw [hup, hpack]; rfl
  · rw [hup, hpack]; rfl

/-- Settles O39: a search that is over merges, and a result is written while the data channel is open. -/
theorem searchesMergeAndResultsAreWritten : Obligations.SearchesMergeAndResultsAreWritten :=
  ⟨finished_searches_merge, results_are_written_to_the_companion⟩

end Sys2Proof.Machine
end

section
/-! PROOF. FEATURES, ASSAY1 and ASSAY2 steps (R205 to R213). -/

namespace Sys2Proof.Machine

/-- Whether the rows of a step and, where it names a policy ledger, its tenant's policy row are here. -/
def featRowsReady (s : State) (c l tenant : Nat) (pol : Option Nat) (mine : List Nat) : Bool :=
  ledgerOpen s c l && rowsReady s c l mine && (match pol with
    | some p => rowsReady s c p [tenant]
    | none => true)

theorem featRowsReady_of {s : State} {c l tenant : Nat} {pol : Option Nat} {mine : List Nat} (hopen : ledgerOpen s c l = true)
    (hrows : rowsReady s c l mine = true) (hpol : ∀ p, pol = some p → rowsReady s c p [tenant] = true) :
    featRowsReady s c l tenant pol mine = true := by
  unfold featRowsReady
  cases pol with
  | none => simp [hopen, hrows]
  | some p => simp [hopen, hrows, hpol p rfl]

theorem features_gather_the_rows : Rows.FeaturesGatherTheRows := by
  intro slot step s r t l a hiss hl ha n c pol u mine f keys g hopen hrows hpol hhere hgot rows p
  have hready : ¬ (!featRowsReady s c l r.tenant pol mine) = true := by rw [featRowsReady_of hopen hrows hpol]; decide
  have hall : ¬ (!(f.2 && g.2)) = true := by rw [hhere, hgot]; decide
  refine congrArg Host.Outcome.next ?_
  show opFeaturesStep slot step s = _
  unfold opFeaturesStep
  simp only [show issued s slot.toNat step 4 = some (r, t) from hiss, hl, ha]
  exact (if_neg hready).trans (if_neg hall)

theorem assay_scores_by_the_formula : Rows.AssayScoresByTheFormula := by
  intro slot step s r t q d l u fl sec hiss hq hd hl hu hfl hsec n keep es out ties hcut s1
  refine congrArg Host.Outcome.next ?_
  show opAssay1Step slot step s = _
  unfold opAssay1Step
  simp only [es, keep] at hcut
  simp only [show issued s slot.toNat step 5 = some (r, t) from hiss, hq, hd, hl, hu, hfl, hsec, hcut, Option.bind_some, Option.map_some,
    Option.getD_some]
  rfl

/-- Whether the ledger that a step's hits go to, where it names one, takes batches. -/
def hitsOpen (s : State) (c : Nat) (h : Option Nat) : Bool :=
  match h with
  | some h => ledgerOpen s c h
  | none => true

theorem hitsOpen_of {s : State} {c : Nat} {h : Option Nat} (hh : ∀ x, h = some x → ledgerOpen s c x = true) : hitsOpen s c h = true := by
  cases h with
  | none => rfl
  | some x => exact hh x rfl

theorem reranking_replaces_the_scores : Rows.RerankingReplacesTheScores := by
  intro slot step logits s r t mi m l p sec hiss hmi hm hl hpit n cands f toks g hlen hhere hgot hhits good dropped keep cut s3 s4 s5
  have hshape : ¬ (logits.length != cands.length) = true := by simp [hlen]
  have hfetched : (fetchAll s slot.toNat step 1 p r (l.ents.take (candidatesOf t))).2 = true := hhere
  have hopen : ¬ (!(g.2 && hitsOpen g.1 r.claim (hitLedger t))) = true := by rw [hgot, hitsOpen_of hhits]; decide
  refine congrArg Host.Outcome.next ?_
  show opAssay2Step slot step logits s = _
  unfold opAssay2Step
  simp only [show issued s slot.toNat step 6 = some (r, t) from hiss, hmi, hl, hpit, hm, hfetched, if_true]
  exact (if_neg hshape).trans (if_neg hopen)

/-- Settles O40: the rows of the features, the scores of the formula and those of the rerank model. -/
theorem featuresScoresAndRerank : Obligations.FeaturesScoresAndRerank :=
  ⟨features_gather_the_rows, assay_scores_by_the_formula, reranking_replaces_the_scores⟩

end Sys2Proof.Machine
end

section
/-! PROOF. The PACK step (R226 to R229). -/

namespace Sys2Proof.Machine

/-- Settles O41: a step that waits, a prompt that exceeds its budget, and one that is packed. -/
theorem packPlacesThePrompt : Obligations.PackPlacesThePrompt := by
  intro slot step history s r t tpl hiss htpl hlen n list got hgot
  have hop : exec (.packStep slot step history) s = .next (
      if !got.2 || history.length != 4 * r.desc.historyTokens || (!dataUp got.1 r.claim && !history.isEmpty) then got.1
      else
        let s1 := hlGot got.1 1 (granules history.length)
        let hist := (List.range r.desc.historyTokens).map (fun i => fld history (4 * i) 3)
        let maxP := if t.word 3 % 65536 = 0 then list.length else t.word 3 % 65536
        let question := (t.dep1.map (fun d => (stepSt r d).tokens)).getD []
        match packPrompt tpl (packBudget s r t) (t.word 2 % 65536) (t.word 2 / 65536) maxP question hist (packRuns s1 n r t) with
        | none => commitReq s1 n 0x0A 0
        | some (ts, ps, keep) => packDone s1 n step hist ts ps keep) := by
    refine congrArg Host.Outcome.next ?_
    show opPackStep slot step history s = _
    unfold opPackStep
    simp only [show issued s slot.toNat step 7 = some (r, t) from hiss, htpl]
    rfl
  have hl : (history.length != 4 * r.desc.historyTokens) = false := by simp [hlen]
  rw [hop, hgot, hl]
  refine ⟨fun hdown hne => ?_, fun hup => ?_⟩
  · have hwait : (!true || false || (!dataUp got.1 r.claim && !history.isEmpty)) = true := by
      rw [hdown]; simpa using hne
    rw [if_pos hwait]
  · have hgo : ¬ (!true || false || (!dataUp got.1 r.claim && !history.isEmpty)) = true := by
      rcases hup with h | h <;> simp [h]
    rw [if_neg hgo]
    intro s1 hist question maxP pack
    refine ⟨fun hnone => ?_, fun ts ps keep hsome => ?_⟩
    · simp only [pack, s1, hist, question, maxP] at hnone
      simp only [hnone]
      rfl
    · intro e s2 s3
      simp only [pack, s1, hist, question, maxP] at hsome
      simp only [hsome, packDone, decide_eq_true_eq]
      rfl

end Sys2Proof.Machine
end

section
/-! PROOF. KV reservations (R242) and the chunks of PREFILL (R238, R239, R241). -/

namespace Sys2Proof.Machine

theorem reservations_are_granted_in_admission_order : Rows.ReservationsAreGrantedInAdmissionOrder := by
  intro claim s n r k halive hfirst hk shared room
  have hop : exec (.kvReservationGrant claim) s = .next (if alive s && decide (booked s claim + k ≤ room) then
      modReq s n (fun r => { r with gen := { r.gen with granted := true, resv := k } }) else s) := by
    refine congrArg Host.Outcome.next ?_
    show opKvReservationGrant claim s = _
    unfold opKvReservationGrant
    simp only [hfirst, hk, Option.getD_some]
    rfl
  rw [hop, halive]
  refine ⟨fun hfits => ?_, fun hshort => ?_⟩
  · rw [if_pos (by rw [decide_eq_true hfits]; rfl)]
  · rw [if_neg (by rw [decide_eq_false (Nat.not_le.2 hshort)]; decide)]

theorem prefill_writes_chunks_of_the_prompt : Rows.PrefillWritesChunksOfThePrompt := by
  intro slot kv s i r t g s1 s2 s3 hstep hrun ht hg hgranted hready c n chunk lo hi p toks looks hlooks hgen hdraft reads hgather hwrite
  have hgiven : ¬ (!r.gen.granted || !looksReady s r.claim looks || !rowsGiven s r false (p + lo) (p + hi) kv
      || !rowsGiven s r true (p + lo) (p + hi) kv) = true := by
    rw [hgranted, show looksReady s r.claim looks = true from hlooks, hgen, hdraft]; decide
  have hs1 : (modelsReady s n r).1 = s1 := congrArg Prod.fst hready
  have hr1 : (modelsReady s n r).2 = true := congrArg Prod.snd hready
  have hs2 : (gatherPages s1 n (reads ++ tailPages s1 n r ++ seqPages s1 n r 0 (p + lo))).1 = s2 := congrArg Prod.fst hgather
  have hr2 : (gatherPages s1 n (reads ++ tailPages s1 n r ++ seqPages s1 n r 0 (p + lo))).2 = true := congrArg Prod.snd hgather
  have hs3 : (writePages s2 n (⟨c, 1, n, countTableIdx⟩ :: seqPages s2 n r (p + lo) (p + hi))).1 = s3 := congrArg Prod.fst hwrite
  have hr3 : (writePages s2 n (⟨c, 1, n, countTableIdx⟩ :: seqPages s2 n r (p + lo) (p + hi))).2 = true := congrArg Prod.snd hwrite
  clear hready hgather hwrite
  intro s4 s5 s6 s7 s8
  have hop : opPrefillChunk slot kv s = (if hi = r.gen.prompt.length then completeStep (modReq s8 n (fun x => { x with
          gen := { x.gen with prefilled := hi, kvDone := []
                              committed := if hi = r.gen.prompt.length then p + hi else x.gen.committed
                              draftCommitted := if hi = r.gen.prompt.length then p + hi else x.gen.draftCommitted }
          out := { x.out with tokensIn := x.out.tokensIn + (hi - lo) } })) n i id
        else modReq s8 n (fun x => { x with
          gen := { x.gen with prefilled := hi, kvDone := []
                              committed := if hi = r.gen.prompt.length then p + hi else x.gen.committed
                              draftCommitted := if hi = r.gen.prompt.length then p + hi else x.gen.draftCommitted }
          out := { x.out with tokensIn := x.out.tokensIn + (hi - lo) } })) := by
    subst hs3 hs2 hs1
    have hok : ¬ (!((modelsReady s n r).2 && (gatherPages (modelsReady s n r).1 n
        (reads ++ tailPages (modelsReady s n r).1 n r ++ seqPages (modelsReady s n r).1 n r 0 (p + lo))).2)) = true := by
      rw [hr1, hr2]; decide
    unfold opPrefillChunk
    simp only [hstep, hrun, hg, ht]
    have hdone (b : Bool) (hb : b = true) : ¬ (!b) = true := by rw [hb]; decide
    exact (if_neg hgiven).trans ((if_neg hok).trans (if_neg (hdone _ hr3)))
  refine ⟨fun hmore => congrArg Host.Outcome.next (hop.trans ?_), fun hwhole => congrArg Host.Outcome.next (hop.trans ?_)⟩
  · have hpart : ¬ hi = r.gen.prompt.length := Nat.ne_of_lt hmore
    simp only [if_neg hpart]
  · simp only [if_pos hwhole]

/-- Settles O42: a grant, and a chunk of a prompt. -/
theorem generationReservesAndPrefills : Obligations.GenerationReservesAndPrefills :=
  ⟨reservations_are_granted_in_admission_order, prefill_writes_chunks_of_the_prompt⟩

end Sys2Proof.Machine
end

section
/-! PROOF. VERIFY (R238, R248 to R251, R259) and the merge of attention partials (R239, R243, R244). -/

namespace Sys2Proof.Machine

theorem not_not_of_true (b : Bool) (h : b = true) : ¬ (!b) = true := by rw [h]; decide

/-! ### VERIFY -/

/-- A request decodes at its VERIFY step while generation goes on, no batch is on its way and its stream has room. -/
theorem decodeReady_of {s : State} {n i : Nat} {r : Req} (hstep : stepNoOf s n 9 = some i) (hend : r.gen.ended = none)
    (hbatch : r.gen.batches = []) (hroom : stalled s n r = false) : decodeReady s n r = true := by
  simp [decodeReady, hstep, hend, hbatch, hroom]

theorem decodeReady_of_held {s : State} {n : Nat} {r : Req}
    (h : r.gen.ended.isSome = true ∨ r.gen.batches ≠ [] ∨ stalled s n r = true) : decodeReady s n r = false := by
  unfold decodeReady
  rcases h with h | h | h
  · rw [← Option.not_isSome, h]; rfl
  · simp [h]
  · simp [h]

/-- No grammar of the request lies in a bad line of its SRAM. -/
theorem grammar_not_bad {s : State} {r : Req}
    (h : ∀ g, r.bind.recipe.bind (·.grammar) = some g → s.eng.badGrammars.contains (r.claim, g) = false) :
    ¬ ((r.bind.recipe.bind (·.grammar)).map (fun x => s.eng.badGrammars.contains (r.claim, x))).getD false = true := by
  cases hg : r.bind.recipe.bind (·.grammar) with
  | none => simp
  | some g => simpa using h g hg

theorem verification_draws_and_commits : Rows.VerificationDrawsAndCommits := by
  intro slot group draft gen kv s i r t m v hstep hrun ht hm hv n dlen ds
  refine ⟨fun hheld => ?_, ?_⟩
  · refine congrArg Host.Outcome.next ?_
    show opVerifyStep slot group draft gen kv s = _
    unfold opVerifyStep
    simp only [hstep, hrun, hm, ht, hv, show decodeReady s slot.toNat r = false from decodeReady_of_held hheld, Bool.not_false, Bool.true_or,
      if_true]
  · intro hend hbatch hroom hgroup hgen hdraft hdlen hglen hgood c d top hgiven looks hlooks s1 s2 s3 hready hgather own hwrite emb s4 s5 s6
    have hs1 : (modelsReady s n r).1 = s1 := congrArg Prod.fst hready
    have hr1 : (modelsReady s n r).2 = true := congrArg Prod.snd hready
    have hs2 : (gatherPages s1 n (verifyReads s1 n r ds)).1 = s2 := congrArg Prod.fst hgather
    have hr2 : (gatherPages s1 n (verifyReads s1 n r ds)).2 = true := congrArg Prod.snd hgather
    have hs3 : (writePages s2 n own).1 = s3 := congrArg Prod.fst hwrite
    have hr3 : (writePages s2 n own).2 = true := congrArg Prod.snd hwrite
    have hsizes : (gen.all (fun l => l.length == v.toks.length) && draft.all (fun l => l.length == v.toks.length)) = true := by
      simpa [List.all_eq_true] using ⟨hgen, hdraft⟩
    have hrows : (r.gen.toks.isEmpty || (rowsGiven s r false c (top + 1) kv && rowsGiven s r true d top kv)) = true := by
      simpa [List.isEmpty_iff] using hgiven
    have htake : ¬ (!decodeReady s n r || !(gen.all (fun l => l.length == v.toks.length) && draft.all (fun l => l.length == v.toks.length))
        || draft.length < dlen || gen.length < ds.length + 1
        || !(r.gen.toks.isEmpty || (rowsGiven s r false c (top + 1) kv && rowsGiven s r true d top kv)) || !looksReady s r.claim looks
        || !groupOk s n r m (group.map (·.toNat))) = true := by
      rw [decodeReady_of hstep hend hbatch hroom, hsizes, hrows, hlooks, hgroup, decide_eq_false (Nat.not_lt.2 hdlen),
        decide_eq_false (Nat.not_lt.2 hglen)]
      decide
    have hpages : ((modelsReady s n r).2 && (gatherPages s1 n (verifyReads s1 n r ds)).2) = true := by rw [hr1, hr2]; rfl
    clear hready hgather hwrite
    subst hs3 hs2 hs1
    have hop : opVerifyStep slot group draft gen kv s = commitStep (if r.gen.toks.isEmpty then s5
        else writeRows (writeRows s5 n r false c (top + 1) kv) n r true d top kv) n i r m v
        (verifyRes (if r.gen.toks.isEmpty then s5 else writeRows (writeRows s5 n r false c (top + 1) kv) n r true d top kv)
          r t m v (draftOf s r).isSome draft gen) gen := by
      unfold opVerifyStep
      simp only [hstep, hrun, hm, ht, hv]
      exact (if_neg htake).trans ((if_neg (grammar_not_bad hgood)).trans ((if_neg (not_not_of_true _ hpages)).trans
        (if_neg (not_not_of_true _ hr3))))
    refine congrArg Host.Outcome.next (hop.trans ?_)
    simp only [s6, List.isEmpty_iff]

/-! ### Attention partials -/

/-- A request that runs neither PREFILL nor VERIFY has no pass. -/
theorem passRange_none_of {s : State} {n : Nat} (h8 : stepNoOf s n 8 = none) (h9 : stepNoOf s n 9 = none) (r : Req) (draft : Bool) :
    passRange s n r draft = none := by
  unfold passRange
  cases genOf s r with
  | none => rfl
  | some g => simp only [h8, h9]

theorem attention_partials_merge : Rows.AttentionPartialsMerge := by
  intro slot layer head pos q kv dims parts s n
  refine ⟨fun h8 h9 => ?_, ?_⟩
  · refine congrArg Host.Outcome.next ?_
    show opAttentionPartialMerge slot layer head pos q kv dims parts s = _
    unfold opAttentionPartialMerge
    have hpass := passRange_none_of h8 h9
    cases hrun : running s slot.toNat with
    | none => simp only [hrun]
    | some r =>
      cases hlayer : (layersOf s r).find? (fun x => x.1 == layer) with
      | none => simp only [hrun, hlayer]
      | some x =>
        simp only [hrun, hlayer, show passRange s slot.toNat r x.2.2 = none from hpass r x.2.2]
        cases passModel s r x.2.2 <;> rfl
  · intro r pp draft m lo top hrun hlayer hm hrange low hi hlo hhi hhead hq hgiven first ppp s1 s2 s3 hready hgather hwrite s4 s5 hlodes hpos out
    have hs1 : (modelsReady s n r).1 = s1 := congrArg Prod.fst hready
    have hr1 : (modelsReady s n r).2 = true := congrArg Prod.snd hready
    have hs2 : (gatherPages s1 n ((if first then tailPages s1 n r else []) ++ layerPages s1 n r layer ppp 0 lo)).1 = s2 :=
      congrArg Prod.fst hgather
    have hr2 : (gatherPages s1 n ((if first then tailPages s1 n r else []) ++ layerPages s1 n r layer ppp 0 lo)).2 = true :=
      congrArg Prod.snd hgather
    have hs3 : (writePages s2 n (layerPages s2 n r layer ppp lo hi)).1 = s3 := congrArg Prod.fst hwrite
    have hr3 : (writePages s2 n (layerPages s2 n r layer ppp lo hi)).2 = true := congrArg Prod.snd hwrite
    have htake : ¬ (decide (pos < lo) || decide (hi ≤ pos) || decide (m.qHeads ≤ head) || q.length != m.headDim
        || !kvGiven m kv layer low hi) = true := by
      rw [decide_eq_false (Nat.not_lt.2 hlo), decide_eq_false (Nat.not_le.2 hhi), decide_eq_false (Nat.not_le.2 hhead), hq, hgiven]
      simp
    have hpages : ((modelsReady s n r).2
        && (gatherPages s1 n ((if first then tailPages s1 n r else []) ++ layerPages s1 n r layer ppp 0 lo)).2) = true := by rw [hr1, hr2]; rfl
    have hmerge : ((parts.map (·.1)).isPerm (attnLodes s5 n r layer ppp pos)
        && parts.all (fun x => x.2.isPerm (lodePositions s5 n r layer ppp pos x.1))) = true := by
      rw [hlodes, Bool.true_and, List.all_eq_true]; exact hpos
    clear hready hgather hwrite
    subst hs3 hs2 hs1
    refine congrArg Host.Outcome.next ?_
    show opAttentionPartialMerge slot layer head pos q kv dims parts s = _
    unfold opAttentionPartialMerge
    simp only [show running s slot.toNat = some r from hrun, hlayer, hm, show passRange s slot.toNat r draft = some (lo, top) from hrange]
    exact (if_neg htake).trans ((if_neg (not_not_of_true _ hpages)).trans ((if_neg (not_not_of_true _ hr3)).trans (if_pos hmerge)))

/-- Settles O43: VERIFY held up and at work, and a layer's attention without a pass and with one. -/
theorem verificationDrawsAndAttentionMerges : Obligations.VerificationDrawsAndAttentionMerges :=
  ⟨verification_draws_and_commits, attention_partials_merge⟩

end Sys2Proof.Machine
end

section
/-! PROOF. Shapers and staging groups granted in order (R304, R370, R481) and buckets refilled (R54, R372). -/

namespace Sys2Proof.Machine

/-! ### Grants -/

theorem waiting_requests_are_granted_in_order : Rows.WaitingRequestsAreGrantedInOrder := by
  refine ⟨?_, ?_⟩
  · intro slot s r halive hrun n head
    have hop : exec (.streamShaperGrant slot) s = .next (if head == some n then
        (if (takeShaper s n r).2 then goOn { (takeShaper s n r).1 with haul := { (takeShaper s n r).1.haul with
          streamWaits := (takeShaper s n r).1.haul.streamWaits.filter (· != n) } } n else s) else s) := by
      refine congrArg Host.Outcome.next ?_
      show opStreamShaperGrant slot s = _
      unfold opStreamShaperGrant
      simp only [hrun, halive, Bool.true_and]
      rfl
    rw [hop]
    refine ⟨fun hnot => ?_, fun hhead s1 hs1 => ?_⟩
    · rw [if_neg (by simpa using hnot)]
    · rw [if_pos (by simp [hhead]), hs1, if_pos rfl]
  · intro claim s n i halive hfind r t hr ht room
    have hop : exec (.stagingBufferGrant claim) s = .next (if room.isSome && bankRoom s claim (stepEngines r t.typ) then
        goOn { s with cage := { s.cage with staging := s.cage.staging.filter (· != (n, i)) } } n else s) := by
      refine congrArg Host.Outcome.next ?_
      show opStagingBufferGrant claim s = _
      unfold opStagingBufferGrant
      simp only [hfind, hr, ht, halive, Option.bind_some, Option.map_some, Option.getD_some, Bool.true_and]
      rfl
    rw [hop]
    refine ⟨fun hroom hbank => ?_, fun hfull => ?_⟩
    · rw [hroom, hbank]; rfl
    · have hno : ¬ (room.isSome && bankRoom s claim (stepEngines r t.typ)) = true := by
        rcases hfull with h | h <;> simp [h]
      rw [if_neg hno]

/-! ### Buckets -/

/-- An entry of a map changed in place, its key kept. -/
theorem kget_map_of {κ α : Type} [DecidableEq κ] {f : κ × α → κ × α} (hf : ∀ p, (f p).1 = p.1) {m : KMap κ α} {k : κ} {v : α}
    (h : kget m k = some v) : kget (m.map f) k = some (f (k, v)).2 := by
  induction m with
  | nil => simp [kget] at h
  | cons p m ih =>
    obtain ⟨k', v'⟩ := p
    have hk : f (k', v') = (k', (f (k', v')).2) := Prod.ext (hf (k', v')) rfl
    rw [List.map_cons, hk]
    by_cases heq : k' = k
    · subst heq
      have hv : v' = v := by simpa [kget] using h
      simp [kget, hv]
    · have hrest : kget m k = some v := by simpa [kget, heq] using h
      simpa [kget, heq] using ih hrest

theorem buckets_are_refilled : Rows.BucketsAreRefilled := by
  intro claim s g old hg hold halive hruns hlt sec s1 s2
  refine ⟨?_, fun t p hp => ?_⟩
  · have hgo : (alive s && claimRuns s claim && decide (claim < 4)) = true := by rw [halive, hruns, decide_eq_true hlt]; rfl
    refine congrArg Host.Outcome.next ?_
    show opBucketRefill claim s = _
    unfold opBucketRefill
    rw [hg, hold]
    exact if_pos hgo
  · intro q
    have hs1 : kget s1.haul.policers (claim, t) = some p := hp
    show kget (refillPolicers s1 claim sec).haul.policers (claim, t) = _
    refine (kget_map_of (fun x => ?_) hs1).trans (by rw [if_pos rfl]; rfl)
    split <;> rfl

/-- Settles O47: the two grants, and the buckets of a claim. -/
theorem waitersAndBucketsAreServed : Obligations.WaitersAndBucketsAreServed :=
  ⟨waiting_requests_are_granted_in_order, buckets_are_refilled⟩

end Sys2Proof.Machine
end

section
/-! PROOF. Gate windows (R376, R377), frames on a link (R375, R378, R389, R390) and the commands of a roster (R364 to R366, R438). -/

namespace Sys2Proof.Machine

theorem gate_windows_advance : Rows.GateWindowsAdvance := by
  intro link s g c hg hc halive hruns left new
  have hgo : ¬ (!(alive s && claimRuns s c)) = true := by rw [halive, hruns]; decide
  have hop : exec (.gateWindowAdvance link) s = .next (if g.pos + 1 < g.windows.length then
        { s with haul := { s.haul with gates := kset s.haul.gates link { g with pos := g.pos + 1, spent := left } } }
      else endEffect { s with haul := { s.haul with gates := match new with
          | none => kdel s.haul.gates link
          | some w => kset s.haul.gates link { g with windows := w, pos := 0, spent := left, cycles := satAdd 32 g.cycles 1 } } }
        (.gate link)) := by
    refine congrArg Host.Outcome.next ?_
    show opGateWindowAdvance link s = _
    unfold opGateWindowAdvance
    rw [hg, hc]
    exact if_neg hgo
  rw [hop]
  refine ⟨fun hmore => ?_, fun hlast w hw => ?_, fun hlast hnone => ?_⟩
  · rw [if_pos hmore]
  · rw [if_neg (Nat.not_lt.2 hlast), hw]
  · rw [if_neg (Nat.not_lt.2 hlast), hnone]

theorem frames_leave_within_their_credits : Rows.FramesLeaveWithinTheirCredits := by
  intro link cls s f rest c hf hc halive hruns hst hunit flits avail
  refine ⟨fun hshort => ?_, fun h0 h7 hlets => ?_, fun hfits hcls => ?_⟩
  · have hno : (!(alive s && claimRuns s c && (linkOf s link).st == 2 && unitOk s 0xD link && decide (flits ≤ avail)
        && ((cls == 0 || cls == 7) || bucketLets s c link cls))) = true := by
      rw [decide_eq_false (Nat.not_le.2 hshort), Bool.and_false, Bool.false_and]; rfl
    refine congrArg Host.Outcome.next ?_
    show opAditFrameEgress link cls s = _
    unfold opAditFrameEgress
    rw [hf, hc]
    exact if_pos hno
  · have hno : (!(alive s && claimRuns s c && (linkOf s link).st == 2 && unitOk s 0xD link && decide (flits ≤ avail)
        && ((cls == 0 || cls == 7) || bucketLets s c link cls))) = true := by
      rw [hlets, beq_eq_false_iff_ne.2 h0, beq_eq_false_iff_ne.2 h7, Bool.or_self, Bool.or_self, Bool.and_false]; rfl
    refine congrArg Host.Outcome.next ?_
    show opAditFrameEgress link cls s = _
    unfold opAditFrameEgress
    rw [hf, hc]
    exact if_pos hno
  · intro s1
    have hfree : (cls == 0 || cls == 7) = true := by simpa using hcls
    have hgo : ¬ (!(alive s && claimRuns s c && (linkOf s link).st == 2 && unitOk s 0xD link && decide (flits ≤ avail)
        && (true || bucketLets s c link cls))) = true := by
      rw [halive, hruns, hst, hunit, decide_eq_true hfits]; simp
    have hop : exec (.aditFrameEgress link cls) s = .next (if f.last then emit s1 (.adit link cls f.msg) else s1) := by
      refine congrArg Host.Outcome.next ?_
      show opAditFrameEgress link cls s = _
      unfold opAditFrameEgress
      rw [hf, hc]
      simp only [hfree, Bool.true_or, if_true, Bool.false_eq_true, if_false]
      exact if_neg hgo
    rw [hop]
    exact ⟨fun hlast => by rw [if_pos hlast], fun hmore => by rw [if_neg (Bool.eq_false_iff.1 hmore)]⟩

theorem units_run_what_their_roster_gives : Rows.UnitsRunWhatTheirRosterGives := by
  intro claim engine unit units work s halive hruns hunit k
  have hgo : ¬ (!(alive s && claimRuns s claim && unitOk s (unitClass engine) unit)) = true := by rw [halive, hruns, hunit]; decide
  refine ⟨fun hnone => ?_, fun x r hserve => ?_⟩
  · refine congrArg Host.Outcome.next ((if_neg hgo).trans ?_)
    simp only [show serve s ⟨claim, engine, unit⟩ units = none from hnone]
  · intro s2
    have hop : exec (.unitCommandComplete claim engine unit units work) s = .next (joinSpares (traceCommand
        (if engine = 0 then bankDone s2 unit x.slot (cmdWork s2 k work) else if engine = 1 then lodeDone s2 unit (cmdWork s2 k work) else s2)
        k x (instrOf s k x work) units)) := by
      refine congrArg Host.Outcome.next ((if_neg hgo).trans ?_)
      simp only [show serve s ⟨claim, engine, unit⟩ units = some (x, r) from hserve]
      rfl
    rw [hop]
    refine ⟨fun he => ?_, fun he => ?_, fun he => ?_⟩
    · rw [if_pos he]
    · rw [if_neg (by omega), if_pos he]
    · rw [if_neg (by omega), if_neg (by omega)]

/-- Settles O48: a window, a frame and a unit's command. -/
theorem gatesFramesAndRostersAdvance : Obligations.GatesFramesAndRostersAdvance :=
  ⟨gate_windows_advance, frames_leave_within_their_credits, units_run_what_their_roster_gives⟩

end Sys2Proof.Machine
end

section
/-! PROOF. Hoistlink trains (R61, R62, R64), retrains and replays (R65, R86) and loses lanes (R86). -/

namespace Sys2Proof.Machine

theorem hoistlink_trains_to_up : Rows.HoistlinkTrainsToUp := by
  intro t s hpow lanes h up clock b retry go able
  have hable : able → go = .next (hlTrain t s) := by
    intro ha
    cases retry with
    | false =>
      refine congrArg Host.Outcome.next (if_pos ?_)
      have hst : s.hl.st = 1 ∨ s.hl.st = 3 := ha
      rw [hpow]; simpa using hst
    | true =>
      refine congrArg Host.Outcome.next (if_pos ?_)
      have hst : s.hl.st = 0 ∨ s.hl.st = 4 := ha
      rw [hpow]; simpa using hst
  refine ⟨fun hno => ?_, fun ha hfew hst => ?_, fun ha hmany hver hst => ?_, fun ha hfew hst => ?_, fun ha hmany hver hst => ?_,
    fun ha hmany hver halive => ⟨fun hfirst => ?_, fun hagain => ?_⟩⟩
  · cases retry with
    | false =>
      refine congrArg Host.Outcome.next (if_neg ?_)
      have hst : ¬ (s.hl.st = 1 ∨ s.hl.st = 3) := hno
      rw [hpow]; simpa using hst
    | true =>
      refine congrArg Host.Outcome.next (if_neg ?_)
      have hst : ¬ (s.hl.st = 0 ∨ s.hl.st = 4) := hno
      rw [hpow]; simpa using hst
  all_goals refine (hable ha).trans (congrArg Host.Outcome.next ?_)
  all_goals unfold hlTrain
  · simp only [show popcount 16 (t.pass &&& ~~~s.hl.laneDisable).toNat < 4 from hfew, hst, if_true, if_false, h, lanes]
  · simp only [show ¬ popcount 16 (t.pass &&& ~~~s.hl.laneDisable).toNat < 4 from Nat.not_lt.2 hmany, hver, hst, if_true, if_false, h, lanes]
  · simp only [show popcount 16 (t.pass &&& ~~~s.hl.laneDisable).toNat < 4 from hfew, hst, if_true, h, lanes]
  · simp only [show ¬ popcount 16 (t.pass &&& ~~~s.hl.laneDisable).toNat < 4 from Nat.not_lt.2 hmany, hver, hst, if_true, if_false, h, lanes]
  · have hf : (s.hl.chosen == 0) = true := by simpa using hfirst
    simp only [show ¬ popcount 16 (t.pass &&& ~~~s.hl.laneDisable).toNat < 4 from Nat.not_lt.2 hmany, hver, hf, if_true, if_false]
    exact if_pos halive
  · have hf : (s.hl.chosen == 0) = false := by simpa using hagain
    simp only [show ¬ popcount 16 (t.pass &&& ~~~s.hl.laneDisable).toNat < 4 from Nat.not_lt.2 hmany, hver, hf, Bool.false_eq_true, if_false]
    exact if_pos halive

/-- The state after a flit that failed on a link that is UP, before a sixteenth failure in a row retrains it. -/
def flitFailed (s : State) : State :=
  faultEvent { s with
    freeCtr := s.freeCtr + 1
    hl := { s.hl with
      fecCorrected := satAdd 24 s.hl.fecCorrected (Config.free s.freeCtr / 2), crcRetry := satAdd 24 s.hl.crcRetry 1
      crcRun := if Config.free s.freeCtr % 2 == 1 then s.hl.crcRun + 1 else 1 } } 1 0

theorem opHlFlitCrcFail_of_up {s : State} (h : s.hl.st = 2) :
    opHlFlitCrcFail s = if 16 ≤ (flitFailed s).hl.crcRun then hlRetrain (flitFailed s) else flitFailed s := by
  have hup : ¬ (s.hl.st != 2) = true := by simp [h]
  exact if_neg hup

theorem hoistlink_retrains_and_replays : Rows.HoistlinkRetrainsAndReplays := by
  intro s hmgmt again corrected
  refine ⟨fun hup => ?_, fun hup hfew => ?_, fun hup hmany => ⟨opHlFlitCrcFail s, rfl, fun hagain => ?_⟩, fun hdown => ⟨?_, ?_⟩⟩
  · exact congrArg Host.Outcome.next ((if_pos hmgmt).trans (hlRetrain_of_up hup))
  · have hrun : ¬ 16 ≤ (flitFailed s).hl.crcRun := by
      show ¬ 16 ≤ if again then s.hl.crcRun + 1 else 1
      rcases hfew with h | h
      · split <;> omega
      · rw [h, if_neg (by decide)]; decide
    exact congrArg Host.Outcome.next ((opHlFlitCrcFail_of_up hup).trans (if_neg hrun))
  · have hrun : 16 ≤ (flitFailed s).hl.crcRun := by
      show 16 ≤ if again then s.hl.crcRun + 1 else 1
      rw [hagain, if_pos rfl]; omega
    rw [opHlFlitCrcFail_of_up hup, if_pos hrun, hlRetrain_of_up (show (flitFailed s).hl.st = 2 from hup)]
    rfl
  · exact congrArg Host.Outcome.next ((if_pos hmgmt).trans (hlRetrain_of_not_up hdown))
  · exact congrArg Host.Outcome.next (if_pos (by simpa using hdown))

theorem hoistlink_lanes_fail : Rows.HoistlinkLanesFail := by
  intro lane s hst hlt hmask left hf
  have hgo : ¬ (!((s.hl.st == 2 || s.hl.st == 3) && decide (lane < 16) && s.hl.laneMask.getLsbD lane)) = true := by
    rcases hst with h | h <;> simp [h, hlt, hmask]
  refine ⟨fun hwide => ?_, fun hnarrow => ?_⟩
  · exact congrArg Host.Outcome.next ((if_neg hgo).trans (if_neg (Nat.not_lt.2 hwide)))
  · exact congrArg Host.Outcome.next ((if_neg hgo).trans (if_pos hnarrow))

/-- Settles O49: training and its retries, retraining and failed flits, and lanes that fail. -/
theorem hoistlinkTrainsRetrainsAndLosesLanes : Obligations.HoistlinkTrainsRetrainsAndLosesLanes :=
  ⟨hoistlink_trains_to_up, hoistlink_retrains_and_replays, hoistlink_lanes_fail⟩

end Sys2Proof.Machine
end

section
/-! PROOF. Adit links retrain, replay failed flits and lose lanes (R388). -/

namespace Sys2Proof.Machine

theorem linkOf_modLink_self {s : State} {l : Nat} (h : l < s.adit.links.length) (f : AditLink → AditLink) :
    linkOf (modLink s l f) l = f (linkOf s l) := by
  simp [linkOf, modLink, List.getD_eq_getElem?_getD, lmod_getElem?, List.getElem?_eq_getElem h]

/-- A link that is UP is one of the module's. -/
theorem link_lt_of_up {s : State} {l : Nat} (h : (linkOf s l).st = 2) : l < s.adit.links.length := by
  rcases Nat.lt_or_ge l s.adit.links.length with hl | hl
  · exact hl
  · have hnone : (linkOf s l).st = 0 := by simp [linkOf, List.getD_eq_getElem?_getD, List.getElem?_eq_none hl]
    rw [hnone] at h
    exact absurd h (by decide)

theorem adRetrain_of_up {s : State} {l : Nat} (h : (linkOf s l).st = 2) :
    adRetrain s l = faultEvent (modLink s l (fun x => { x with st := 3, crcRun := 0, err := x.err ||| 4 })) 5 0 := if_pos h

theorem retrainLink_of_up {s : State} {l : Nat} (h : (linkOf s l).st = 2) : retrainLink s l = adRetrain s l := by
  simp [retrainLink, h]

/-- A block that runs answers its management registers. -/
theorem mgmtUp_of_alive {s : State} (h : alive s = true) : mgmtUp s = true := by
  unfold alive at h
  exact (Bool.and_eq_true_iff.1 h).1

/-- Settles O52: RETRAIN, a failed flit before and at its sixteenth failure, and a lane that fails. -/
theorem aditLinksRetrainAndLoseLanes : Obligations.AditLinksRetrainAndLoseLanes := by
  intro link s halive hup x retrained counted
  have hlt := link_lt_of_up hup
  have hcrc (again : Bool) (corrected : Nat) : exec (.adFlitCrcFail ⟨link, again, corrected⟩) s = .next
      (if 16 ≤ (if again then x.crcRun + 1 else 1) then adRetrain (counted again corrected) link else counted again corrected) := by
    have hgo : ¬ (!(alive s && (linkOf s link).st == 2)) = true := by rw [halive, hup]; decide
    have hrun : (linkOf (counted again corrected) link).crcRun = if again then x.crcRun + 1 else 1 :=
      congrArg AditLink.crcRun (linkOf_modLink_self hlt _)
    rw [← hrun]
    exact congrArg Host.Outcome.next (if_neg hgo)
  refine ⟨?_, fun again corrected hfew => ?_, fun corrected _ hmany => ?_, fun lane hlane hmask => ⟨fun hnone => ?_, fun hsome => ?_⟩⟩
  · exact congrArg Host.Outcome.next ((if_pos (mgmtUp_of_alive halive)).trans ((retrainLink_of_up hup).trans (adRetrain_of_up hup)))
  · have hrun : ¬ 16 ≤ (if again then x.crcRun + 1 else 1) := by
      rcases hfew with h | h
      · rw [h, if_neg (by decide)]; decide
      · split <;> omega
    rw [hcrc, if_neg hrun]
  · rw [hcrc, if_pos (show 16 ≤ (if true then x.crcRun + 1 else 1) by rw [if_pos rfl]; omega)]
    have hst : (linkOf (counted true corrected) link).st = 2 := (congrArg AditLink.st (linkOf_modLink_self hlt _)).trans hup
    rw [adRetrain_of_up hst]
  all_goals
    have hgo : ¬ (!(alive s && (x.st == 2 || x.st == 3) && decide (lane < 4) && x.laneMask.getLsbD lane)) = true := by
      rw [halive, decide_eq_true hlane, hmask, show x.st = 2 from hup]; decide
  · exact congrArg Host.Outcome.next ((if_neg hgo).trans (if_pos hnone))
  · exact congrArg Host.Outcome.next ((if_neg hgo).trans (if_neg hsome))

end Sys2Proof.Machine
end

section
/-! PROOF. The clock of the Adit links (R381), LIVENESS (R390) and class 7. -/

namespace Sys2Proof.Machine

theorem foldl_eq_of {α β : Type} {f g : β → α → β} (h : ∀ b a, f b a = g b a) (l : List α) (b : β) : l.foldl f b = l.foldl g b := by
  rw [show f = g from funext fun b => funext (h b)]

/-- A link takes the other clock, and one that is UP sets REFCLK_SWITCH and retrains. -/
theorem link_switches_clock (s : State) (l : Nat) (src : Bool) :
    (let s1 := modLink s l (fun x => { x with
        refclkSrc := !src, err := if (linkOf s l).st == 2 then x.err ||| 0x10 else x.err })
      if (linkOf s l).st == 2 then adRetrain s1 l else s1) =
    if (linkOf s l).st = 2 then adRetrain (modLink s l (fun x => { x with refclkSrc := !src, err := x.err ||| 0x10 })) l
    else modLink s l (fun x => { x with refclkSrc := !src }) := by
  by_cases h : (linkOf s l).st = 2
  · have hup : ((linkOf s l).st == 2) = true := by simp [h]
    rw [hup]
    exact (if_pos h).symm
  · have hup : ((linkOf s l).st == 2) = false := by simp [h]
    rw [hup]
    exact (if_neg h).symm

/-- Settles O53: the two losses of a clock, a liveness frame that goes and one that waits, and a frame of class 7. -/
theorem aditClocksLivenessAndClass7 : Obligations.AditClocksLivenessAndClass7 := by
  intro s halive
  have hlive : ¬ (!alive s) = true := by simp [halive]
  refine ⟨?_, ?_, fun link c i hopen hheld => ?_⟩
  · intro src
    refine congrArg Host.Outcome.next ((if_neg hlive).trans ((if_pos rfl).trans ?_))
    exact foldl_eq_of (fun t l => link_switches_clock t l src) _ _
  · exact congrArg Host.Outcome.next ((if_neg hlive).trans (if_neg (by decide)))
  · have hop : exec (.liveness link) s = .next (if (linkOf s link).avail.getD 0 0 = 0 || !(kgetD s.haul.frames (link, 0) []).isEmpty then
          queueFrames s link 0 (framesOf (linkMsg s c i.moduleId [1]))
        else emit (modLink s link (fun x => { x with avail := lmod x.avail 0 (· - 1) })) (.adit link 0 (linkMsg s c i.moduleId [1]))) := by
      refine congrArg Host.Outcome.next ?_
      show opLiveness link s = _
      unfold opLiveness
      simp only [hopen, serveHeld_of_none_held hheld]
    refine ⟨fun hcredit hnone => ?_, fun hwait => ?_, ?_⟩
    · have hgo : ¬ (decide ((linkOf s link).avail.getD 0 0 = 0) || !(kgetD s.haul.frames (link, 0) []).isEmpty) = true := by
        rw [hnone, decide_eq_false (by omega)]; decide
      rw [hop, if_neg hgo]
    · have hno : (decide ((linkOf s link).avail.getD 0 0 = 0) || !(kgetD s.haul.frames (link, 0) []).isEmpty) = true := by
        rcases hwait with h | h
        · rw [decide_eq_true h, Bool.true_or]
        · simpa using Or.inr h
      rw [hop, if_pos hno]
    · refine congrArg Host.Outcome.next ?_
      show opClass7Frame link s = _
      unfold opClass7Frame
      simp only [hopen]

end Sys2Proof.Machine
end

section
/-! PROOF. Self-tests are asked and run (R410 to R412), and end (R409, R411, R414); calibration (R413) and domain groups (R401). -/

namespace Sys2Proof.Machine

/-! ### Asked -/

/-- SELFTEST_REQUEST as its line is accepted, by whether the unit can be tested, has a spare, and FORCE. -/
theorem exec_selftestRequest_of {d : Desc} {s : State} {o : Origin} {s1 : State} (h : LineAccepted s d 0x13 o s1) (hq : o.req = 0xFFFFFFFF)
    (hz : byteAt d.line 18 / 2 = 0) (hz' : zeroAt d.line 19 109 = true) {u : UnitId} (hu : u = ⟨byteAt d.line 16, byteAt d.line 17⟩) :
    exec (.selftestRequest d) s = .next (
      if !(testClass u.cls && ownsUnit s1 o.claim u && !s1.power.retired.contains u) then bad s1 o 0x16
      else if testDefers s1 o.claim u && !(byteAt d.line 18 % 2 == 1) then
        done { s1 with power := { s1.power with deferred := if s1.power.deferred.contains (u, o.claim) then s1.power.deferred
          else s1.power.deferred ++ [(u, o.claim)] } } o 0x0F 0
      else { s1 with power := { s1.power with tests := s1.power.tests ++ [⟨u, o.claim, byteAt d.line 18 % 2 == 1, some o⟩] } }) := by
  subst hu
  exact congrArg Host.Outcome.next (plainCommand_of h hq (by decide) (by decide) (by simp [hz, hz']))

/-! ### Run -/

/-- SELFTEST_RUN of a unit that is asked to be tested, serves and is not being tested. -/
theorem opSelftestRun_of {cls idx : Nat} {s : State} {t : TestReq}
    (hfind : s.power.tests.find? (fun t => t.unit == ⟨cls, idx⟩) = some t) (halive : alive s = true)
    (hserves : ((kget s.hf.fences ⟨cls, idx⟩).map (·.st)).getD 0 = 0)
    (hidle : s.power.testing.any (fun x => x.unit == ⟨cls, idx⟩) = false) (hcls : cls ≠ 0xD) :
    ∀ sp, spareFor s t.claim ⟨cls, idx⟩ = sp →
      opSelftestRun cls idx s =
        (let start := fun (s : State) => setFenceSt { s with power := { s.power with
            tests := s.power.tests.filter (fun x => x != t), testing := s.power.testing ++ [t] } } ⟨cls, idx⟩ 3
        sp.elim (if atBoundary s ⟨cls, idx⟩ then start s else s) (fun sp =>
          if sp = idx then (if s.power.testing.any (fun x => sameSpare x t) then s else start s)
          else if spareFree s t sp && atBoundary s ⟨cls, idx⟩ then
            start (if cls = 0 then { s with power := { s.power with spares := kset s.power.spares (idx / 8) idx } }
              else takePlace { s with power := { s.power with classSpares := kset s.power.classSpares (t.claim, cls) idx } }
                t.claim ⟨cls, idx⟩ sp)
          else s)) := by
  intro sp hsp
  have hgo : ¬ (!(alive s && (((kget s.hf.fences ⟨cls, idx⟩).map (·.st)).getD 0 == 0
      && !s.power.testing.any (fun x => x.unit == ⟨cls, idx⟩)))) = true := by rw [halive, hserves, hidle]; decide
  unfold opSelftestRun
  simp only [hfind, hsp]
  refine (if_neg hgo).trans ((if_neg hcls).trans ?_)
  cases sp <;> rfl

theorem self_tests_are_asked_and_run : Rows.SelfTestsAreAskedAndRun := by
  refine ⟨?_, ?_⟩
  · intro d s o s1 h hq hz hz' u ok force
    have hop := exec_selftestRequest_of h hq hz hz' (u := u) rfl
    have htest (hok : ok) : ¬ (!(testClass u.cls && ownsUnit s1 o.claim u && !s1.power.retired.contains u)) = true := by
      obtain ⟨h1, h2, h3⟩ := hok
      rw [h1, h2, h3]; decide
    refine ⟨fun hno => ?_, fun hok hnow => ?_, fun hok hdefer hfree hnew => ?_⟩
    · have hbad : (!(testClass u.cls && ownsUnit s1 o.claim u && !s1.power.retired.contains u)) = true := by
        rw [Bool.not_eq_true', Bool.eq_false_iff]
        intro h
        simp only [Bool.and_eq_true, Bool.not_eq_true'] at h
        exact hno ⟨h.1.1, h.1.2, h.2⟩
      rw [hop, if_pos hbad]
    · have hgo : ¬ (testDefers s1 o.claim u && !(byteAt d.line 18 % 2 == 1)) = true := by
        rcases hnow with h | h
        · rw [h]; simp
        · rw [show byteAt d.line 18 % 2 = 1 from h]; simp
      rw [hop, if_neg (htest hok), if_neg hgo]
    · have hlater : (testDefers s1 o.claim u && !(byteAt d.line 18 % 2 == 1)) = true := by
        rw [hdefer, beq_eq_false_iff_ne.2 hfree]; rfl
      rw [hop, if_neg (htest hok), if_pos hlater, if_neg (Bool.eq_false_iff.1 hnew)]
  · intro cls idx s t hfind halive hserves hidle s1
    refine ⟨fun hcls => ?_, fun hcls hsp hbound => ?_, fun hcls hsp hfree => ?_, fun sp hcls hsp hne hfree hbound => ?_⟩
    · have hgo : ¬ (!(alive s && (((kget s.hf.fences ⟨cls, idx⟩).map (·.st)).getD 0 == 0
          && !s.power.testing.any (fun x => x.unit == ⟨cls, idx⟩)))) = true := by rw [halive, hserves, hidle]; decide
      refine congrArg Host.Outcome.next ?_
      show opSelftestRun cls idx s = _
      unfold opSelftestRun
      simp only [hfind]
      exact (if_neg hgo).trans (if_pos hcls)
    · exact congrArg Host.Outcome.next ((opSelftestRun_of hfind halive hserves hidle hcls _ hsp).trans (if_pos hbound))
    · exact congrArg Host.Outcome.next ((opSelftestRun_of hfind halive hserves hidle hcls _ hsp).trans
        ((if_pos rfl).trans (if_neg (Bool.eq_false_iff.1 hfree))))
    · have hgo : (spareFree s t sp && atBoundary s ⟨cls, idx⟩) = true := by rw [hfree, hbound]; rfl
      refine congrArg Host.Outcome.next ((opSelftestRun_of hfind halive hserves hidle (by omega) _ hsp).trans
        ((if_neg hne).trans ((if_pos hgo).trans ?_)))
      rw [if_pos hcls]

/-! ### Over -/

/-- SELFTEST_DONE of a test that a command asked for, on a unit that serves no UNFENCE and is not retired. -/
theorem opSelftestDone_of {cls idx : Nat} {s : State} {t : TestReq} {o : Origin} {s2 : State} (pass : Bool) (halive : alive s = true)
    (hun : kget s.hf.unfences ⟨cls, idx⟩ = none) (hfind : s.power.testing.find? (fun t => t.unit == ⟨cls, idx⟩) = some t)
    (ho : t.o = some o) (hcls : cls ≠ 0xD) (hret : s.power.retired.contains ⟨cls, idx⟩ = false)
    (hs2 : s2 = if ((kget s.hf.fences ⟨cls, idx⟩).map (·.st)).getD 0 = 2
      then { s with power := { s.power with testing := s.power.testing.filter (fun x => x.unit != ⟨cls, idx⟩) } }
      else setFenceSt { s with power := { s.power with testing := s.power.testing.filter (fun x => x.unit != ⟨cls, idx⟩) } } ⟨cls, idx⟩ 0) :
    opSelftestDone cls idx pass s = done (if !(!pass) then s2
      else if cls = 0 || spareFor s t.claim ⟨cls, idx⟩ == some idx then retire s2 ⟨cls, idx⟩ else fenceUnit s2 ⟨cls, idx⟩ 5) o 0
      (if !pass then 1 else 0) := by
  subst hs2
  have hlink : (cls != 0xD) = true := by simpa using hcls
  unfold opSelftestDone
  simp only [halive, hun, hfind, ho, hcls, hlink, hret, Bool.not_true, Bool.false_eq_true, if_false, Bool.or_false, Bool.true_and,
    Option.isNone_some, Bool.and_false, Bool.false_and]

theorem self_tests_end : Rows.SelfTestsEnd := by
  refine ⟨?_, ?_, fun s halive => congrArg Host.Outcome.next (if_pos halive)⟩
  · intro cls idx s t o halive hun hfind ho hcls hret s1 s2
    have hop (pass : Bool) := opSelftestDone_of pass halive hun hfind ho hcls hret (s2 := s2) rfl
    refine ⟨congrArg Host.Outcome.next (hop true), fun hspare => ?_, fun hne hspare => ?_⟩
    · have hyes : (cls = 0 || spareFor s t.claim ⟨cls, idx⟩ == some idx) = true := by simpa using hspare
      refine congrArg Host.Outcome.next ((hop false).trans ?_)
      exact congrArg (fun t => done t o 0 1) (if_pos hyes)
    · have hno : ¬ (cls = 0 || spareFor s t.claim ⟨cls, idx⟩ == some idx) = true := by simp [hne, hspare]
      refine congrArg Host.Outcome.next ((hop false).trans ?_)
      exact congrArg (fun t => done t o 0 1) (if_neg hno)
  · intro link s halive hlt hcal hst
    have hgo : (alive s && decide (link < 48) && (linkOf s link).calibrating && (linkOf s link).st == 2) = true := by
      rw [halive, decide_eq_true hlt, hcal, hst]; rfl
    exact ⟨fun hwide => congrArg Host.Outcome.next ((if_pos hgo).trans (if_neg (Nat.not_le.2 hwide))),
      fun hnarrow => congrArg Host.Outcome.next ((if_pos hgo).trans (if_pos hnarrow))⟩

/-- Settles O56: a test asked, a test run, and the end of one; a link that calibrates, and a group of domains. -/
theorem selfTestsAreAskedRunAndEnd : Obligations.SelfTestsAreAskedRunAndEnd := ⟨self_tests_are_asked_and_run, self_tests_end⟩

end Sys2Proof.Machine
end

section
/-! PROOF. Register accesses over Hoistlink, the sideband and JTAG (R85, R430, R459, R467, R475), and what a write does by its access
code (R16, R56, R69, R308, R439). -/

namespace Sys2Proof.Machine

/-! ### An access by its code -/

theorem mgmtRead_of_ok {s : State} {width off : Nat} (h : accessCode s true width off = 0) :
    mgmtRead s width off = (0, readReg (passRead s off) off, passRead s off) := by
  simp [mgmtRead, h, noteMgmt]

theorem mgmtRead_of_refused {s : State} {width off : Nat} (h : accessCode s true width off ≠ 0) :
    mgmtRead s width off = (accessCode s true width off, 0, noteMgmt s (accessCode s true width off) off) := if_neg h

theorem noteMgmt_of_ne {s : State} {code : Nat} (off : Nat) (h : code ≠ 0) :
    noteMgmt s code off = { s with hl := { s.hl with mgmtErrCode := code, mgmtErrOffset := BitVec.ofNat 26 off } } := if_neg h

theorem mgmtWrite_eq (s : State) (width off v : Nat) :
    mgmtWrite s width off v = (accessCode s false width off, if accessCode s false width off = 0 then writeReg s off v
      else { s with hl := { s.hl with mgmtErrCode := accessCode s false width off, mgmtErrOffset := BitVec.ofNat 26 off } }) := by
  refine Prod.ext rfl ?_
  by_cases h : accessCode s false width off = 0
  · exact (if_pos h).trans (if_pos h).symm
  · exact (if_neg h).trans ((noteMgmt_of_ne off h).trans (if_neg h).symm)

theorem register_writes_are_answered : Rows.RegisterWritesAreAnswered := by
  intro s off value code wrote
  refine ⟨fun hup hlink width => ?_, fun hside o => ?_, fun hmgmt hlink => ?_, fun hmgmt hlink => ?_, fun hlink width v => ?_⟩
  · intro s0 c0 c1
    have hgo : (upNow s && linkUp s) = true := by rw [hup, hlink]; rfl
    refine ⟨congrArg Host.Outcome.next (if_pos hgo), fun hok => ?_, fun hbad => ?_⟩
    · intro t
      refine congrArg Host.Outcome.next ((if_pos hgo).trans ?_)
      simp only [show mgmtRead (hlGot s 2 1) width off.toNat = _ from mgmtRead_of_ok hok]
      rfl
    · refine congrArg Host.Outcome.next ((if_pos hgo).trans ?_)
      simp only [show mgmtRead (hlGot s 2 1) width off.toNat = _ from mgmtRead_of_refused hbad]
      rfl
  · refine congrArg Host.Outcome.next ((if_pos hside).trans ?_)
    simp only [mgmtWrite_eq]
    rfl
  · have hgo : ¬ (!mgmtUp s) = true := by rw [hmgmt]; decide
    exact congrArg Host.Outcome.next ((if_neg hgo).trans (if_pos hlink))
  · have hgo : ¬ (!mgmtUp s) = true := by rw [hmgmt]; decide
    refine congrArg Host.Outcome.next ((if_neg hgo).trans ((if_neg (Bool.eq_false_iff.1 hlink)).trans ?_))
    rw [noteMgmt_of_ne _ (by decide), BitVec.ofNat_toNat, BitVec.setWidth_eq]
  · have hno : ¬ (upNow s && linkUp s) = true := by rw [hlink, Bool.and_false]; decide
    exact congrArg Host.Outcome.next (if_neg hno)

theorem register_reads_are_answered : Rows.RegisterReadsAreAnswered := by
  intro s o off
  refine ⟨fun hside hok => ?_, fun hside hbad => ?_, ?_, ?_, fun hfatal read width x hx => ?_, fun hfatal => ?_,
    fun hrun read width x hx => ?_⟩
  · refine congrArg Host.Outcome.next ((if_pos hside).trans ?_)
    simp only [mgmtRead_of_ok hok]
    rfl
  · refine congrArg Host.Outcome.next ((if_pos hside).trans ?_)
    simp only [mgmtRead_of_refused hbad, noteMgmt_of_ne _ hbad]
    rfl
  · intro s0 hon hok
    have hgo : ¬ (!tapOn s) = true := by rw [hon]; decide
    refine congrArg Host.Outcome.next ((if_neg hgo).trans ?_)
    simp only [show mgmtRead (loadInstr s 6) 8 off.toNat = _ from mgmtRead_of_ok hok]
    rfl
  · intro s0 hon v hok
    have hgo : ¬ (!tapOn s) = true := by rw [hon]; decide
    refine congrArg Host.Outcome.next ((if_neg hgo).trans ?_)
    simp only [mgmtWrite_eq, show accessCode (loadInstr s 6) false 8 off.toNat = 0 from hok, if_true]
    rfl
  · rcases hx with h | h <;> simp [accessCode, hfatal, h]
  · simp [accessCode, hfatal]
  · rcases hx with h | h <;> simp [accessCode, hrun, h]

/-! ### A write by its place -/

theorem writeReg_headframe {s : State} {off : Nat} (v : Nat) (h8 : off % 8 = 0) (hp : off / 0x100000 = 0) :
    writeReg s off v = writeHeadframe s (off % 0x100000) v := by
  simp only [writeReg, h8, hp, bne_self_eq_false, Bool.false_eq_true, if_false, if_true]

theorem writeReg_hoistlink {s : State} {off : Nat} (v : Nat) (h8 : off % 8 = 0) (hp : off / 0x100000 = 1) :
    writeReg s off v = writeHoistlink s (off % 0x100000) v := by
  simp [writeReg, h8, hp]

theorem writeReg_cage {s : State} {off : Nat} (v : Nat) (h8 : off % 8 = 0) (hp : off / 0x100000 = 8) :
    writeReg s off v = writeCage s (off % 0x100000) v := by
  simp [writeReg, h8, hp]

theorem writeReg_trace {s : State} {off : Nat} (v : Nat) (h8 : off % 8 = 0) (hp : off / 0x100000 = 11) :
    writeReg s off v = writeTrace s (off % 0x100000) v := by
  simp [writeReg, h8, hp]

theorem writeHoistlink_ringTable (s : State) {c : Nat} (v : Nat) (hc : c < 4) :
    writeHoistlink s (0x100 + 8 * c) v = { s with hl := { s.hl with
      ringTable := lmod s.hl.ringTable c (fun _ => BitVec.ofNat 64 (v / 65536 * 65536)) } } := by
  have hctl : ¬ 0x100 + 8 * c = 8 := by omega
  have herr : ¬ 0x100 + 8 * c = 0x40 := by omega
  have hin : (decide (0x100 ≤ 0x100 + 8 * c) && decide (0x100 + 8 * c < 0x120)) = true := by
    rw [decide_eq_true (by omega), decide_eq_true (by omega)]; rfl
  have hidx : (0x100 + 8 * c - 0x100) / 8 = c := by omega
  refine (if_neg hctl).trans ((if_neg herr).trans ((if_pos hin).trans ?_))
  rw [hidx]

theorem writeCage_hostBase (s : State) {c : Nat} (v : Nat) (hc : c < 4) :
    writeCage s (0x40 + 8 * c) v = if claimRuns s c then s else { s with cage := { s.cage with
      hostBase := lmod s.cage.hostBase c (fun _ => BitVec.ofNat 64 (v / 65536 * 65536)) } } := by
  have hsel : ¬ 0x40 + 8 * c = 0 := by omega
  have hin : (decide (0x40 ≤ 0x40 + 8 * c) && decide (0x40 + 8 * c < 0x60)) = true := by
    rw [decide_eq_true (by omega), decide_eq_true (by omega)]; rfl
  have hidx : (0x40 + 8 * c - 0x40) / 8 = c := by omega
  refine (if_neg hsel).trans ((if_pos hin).trans ?_)
  rw [hidx]

/-- LP_BASE and LP_LINES of a claim whose trace is on are kept. -/
theorem writeTrace_of_enabled {s : State} {c : Nat} (v : Nat) (hc : c < 4) (hon : (lampOf s c).enable = true) :
    writeTrace s (0x40020 + 8 * c) v = s ∧ writeTrace s (0x40040 + 8 * c) v = s := by
  have hbase : (0x40020 + 8 * c - 0x40000) / 8 % 4 = c := by omega
  have hoff : 0x40040 + 8 * c - 0x40000 = 8 * (8 + c) := by omega
  have hlines : (0x40040 + 8 * c - 0x40000) / 8 % 4 = c := by rw [hoff, Nat.mul_div_cancel_left _ (by decide)]; omega
  refine ⟨?_, ?_⟩
  · refine (if_neg (by omega)).trans ((if_neg (by omega)).trans ((if_pos (by omega)).trans
      ((if_neg (by omega)).trans ((if_pos (by omega)).trans ?_))))
    rw [hbase, if_pos hon]
  · refine (if_neg (by omega)).trans ((if_neg (by omega)).trans ((if_pos (by omega)).trans
      ((if_neg (by omega)).trans ((if_neg (by omega)).trans ((if_pos (by omega)).trans ?_)))))
    rw [hlines, if_pos hon]

theorem writes_follow_the_access_codes : Rows.WritesFollowTheAccessCodes := by
  intro s v
  refine ⟨fun off h => ?_, writeReg_headframe v (by decide) (by decide), writeReg_hoistlink v (by decide) (by decide), fun c hc => ?_, fun c hc hruns => ?_,
    fun c hc hidle => ?_, fun c hc hon => ?_, ?_, writeReg_headframe v (by decide) (by decide)⟩
  · simp [writeReg, h]
  · have hrel : (0x100100 + 8 * c) % 0x100000 = 0x100 + 8 * c := by omega
    rw [writeReg_hoistlink v (by omega) (by omega), hrel, writeHoistlink_ringTable s v hc]
  · have hrel : (0x800040 + 8 * c) % 0x100000 = 0x40 + 8 * c := by omega
    rw [writeReg_cage v (by omega) (by omega), hrel, writeCage_hostBase s v hc, if_pos hruns]
  · have hrel : (0x800040 + 8 * c) % 0x100000 = 0x40 + 8 * c := by omega
    rw [writeReg_cage v (by omega) (by omega), hrel, writeCage_hostBase s v hc, if_neg (Bool.eq_false_iff.1 hidle)]
  · obtain ⟨hbase, hlines⟩ := writeTrace_of_enabled v hc hon
    have hrel : (0xB40020 + 8 * c) % 0x100000 = 0x40020 + 8 * c := by omega
    have hrel' : (0xB40040 + 8 * c) % 0x100000 = 0x40040 + 8 * c := by omega
    exact ⟨by rw [writeReg_trace v (by omega) (by omega), hrel, hbase], by rw [writeReg_trace v (by omega) (by omega), hrel', hlines]⟩
  · simp [writeReg]

/-- Settles O59: accesses over Hoistlink, the sideband and JTAG, and the writes by their places. -/
theorem registersAreReadAndWritten : Obligations.RegistersAreReadAndWritten :=
  ⟨register_writes_are_answered, register_reads_are_answered, writes_follow_the_access_codes⟩

end Sys2Proof.Machine
end

section
/-! PROOF. Trace lines that time out (R439) and the dumps of the Tensor Watch (R445 to R447). -/

namespace Sys2Proof.Machine

/-- Settles O60: a line with nothing or a whole line queued, one that is completed, an arm that has not fired and one that has. -/
theorem tracesAndDumpsAreWritten : Obligations.TracesAndDumpsAreWritten := by
  refine ⟨?_, ?_⟩
  · intro claim s halive hlt q
    refine ⟨fun hno => ?_, fun hne hfew => ?_⟩
    · have hstop : ¬ (alive s && decide (claim < 4) && decide (0 < q.length) && decide (q.length < 4)) = true := by
        rcases hno with h | h
        · rw [h]; simp
        · rw [decide_eq_false (Nat.not_lt.2 h), Bool.and_false]; decide
      exact congrArg Host.Outcome.next (if_neg hstop)
    · have hgo : (alive s && decide (claim < 4) && decide (0 < q.length) && decide (q.length < 4)) = true := by
        rw [halive, decide_eq_true hlt, decide_eq_true (List.length_pos_iff.2 hne), decide_eq_true hfew]; rfl
      exact congrArg Host.Outcome.next (if_pos hgo)
  · intro claim arm s a ha
    refine ⟨fun hnone => ?_, fun tensor pos hfired halive hup => ?_⟩
    · refine congrArg Host.Outcome.next ?_
      show opWatchDumpWritten claim arm s = _
      unfold opWatchDumpWritten
      simp only [ha, hnone]
    · intro w s1 s2 s3
      have hgo : ¬ (!(alive s && dataUp s claim)) = true := by rw [halive, hup]; decide
      have hop : exec (.watchDumpWritten claim arm) s = .next (if armOf s a.slot a then goOn s3 a.slot else s3) := by
        refine congrArg Host.Outcome.next ?_
        show opWatchDumpWritten claim arm s = _
        unfold opWatchDumpWritten
        simp only [ha, hfired]
        exact if_neg hgo
      rw [hop]
      exact ⟨fun hmine => by rw [if_pos hmine], fun hgone => by rw [if_neg (Bool.eq_false_iff.1 hgone)]⟩

end Sys2Proof.Machine
end
